-- ==== Sys2Proof/Word.lean ====
section
/-!
DEFINITION. The word types of the M8 and their plainest arithmetic (00_scope.md R5, R6).
-/
namespace Sys2Proof

/-- A byte of memory. -/
abbrev Byte := BitVec 8
/-- A 32-bit lane or word. -/
abbrev W32 := BitVec 32
/-- A 64-bit register of the machine. -/
abbrev W64 := BitVec 64
/-- The instruction word without its OPCODE byte: bits [127:8] of R118's word, bit 8 first. -/
abbrev Body := BitVec 120
/-- A tensor descriptor, 512 bits (Table 4.2). -/
abbrev Desc := BitVec 512

end Sys2Proof
end

