-- ==== Sys2Proof/Machine/Bits.lean ====
section
/-!
DEFINITION. Bit-field, byte-order and list helpers (R5, R6, R15), and the checksums: CRC-32C (R238), CRC-32 (R270) and
SHA3-256 (R366, FIPS 202).
-/
namespace Sys2Proof.Machine

/-- Field of `w` bits of `x` from bit `lo` (R5). -/
def bits (x lo w : Nat) : Nat := x / 2 ^ lo % 2 ^ w

/-- `x` with the `w`-bit field at `lo` replaced by `v`. -/
def setBits (x lo w v : Nat) : Nat := x - bits x lo w * 2 ^ lo + v % 2 ^ w * 2 ^ lo

/-- Bit `i` of `x`. -/
def bit (x i : Nat) : Bool := x / 2 ^ i % 2 == 1

/-- A two's complement reading of the low `w` bits. -/
def signed (x w : Nat) : Int :=
  let v := x % 2 ^ w
  if 2 ^ (w - 1) ≤ v then (v : Int) - (2 : Int) ^ w else (v : Int)

/-- The `w`-bit encoding of an integer, two's complement. -/
def encInt (w : Nat) (z : Int) : Nat := (z % ((2 : Int) ^ w)).toNat

/-- Division rounding up; 0 when the divisor is 0. -/
def ceilDiv (a b : Nat) : Nat := (a + b - 1) / b

/-- Little-endian bytes of `x` (R6). -/
def leBytes : Nat → Nat → List Byte
  | 0, _ => []
  | n + 1, x => BitVec.ofNat 8 x :: leBytes n (x / 256)

/-- The number a little-endian byte string spells (R6). -/
def ofLE : List Byte → Nat
  | [] => 0
  | b :: t => b.toNat + 256 * ofLE t

/-- `n` bytes of a list from offset `o`, zero beyond its end. -/
def slice (l : List Byte) (o n : Nat) : List Byte :=
  let t := (l.drop o).take n
  t ++ List.replicate (n - t.length) 0

/-- Little-endian field of a byte string. -/
def fld (l : List Byte) (o n : Nat) : Nat := ofLE (slice l o n)

/-- `l` with the bytes from offset `o` replaced by `new`, inside its length. -/
def patch (l : List Byte) (o : Nat) (new : List Byte) : List Byte :=
  l.take o ++ new.take (l.length - o) ++ l.drop (o + new.length)

/-- Whether `n` bytes of a list from offset `o` are all zero. -/
def zeroAt (l : List Byte) (o n : Nat) : Bool := (slice l o n).all (· == 0)

/-- A list of `n` bytes assembled from fields (offset, size, value), zero elsewhere (little-endian, R6). -/
def layout (n : Nat) (fs : List (Nat × Nat × Nat)) : List Byte :=
  fs.foldl (fun acc f => patch acc f.1 (leBytes f.2.1 f.2.2)) (List.replicate n 0)

/-- The entry at a key of an association list. -/
def lookup {α : Type} (l : List (Nat × α)) (k : Nat) : Option α := (l.find? (·.1 == k)).map (·.2)

/-- The list with the entry at key `k` set, keys kept strictly rising. -/
def insertKey {α : Type} (k : Nat) (v : α) : List (Nat × α) → List (Nat × α)
  | [] => [(k, v)]
  | (k', v') :: t =>
    if k < k' then (k, v) :: (k', v') :: t
    else if k = k' then (k, v) :: t
    else (k', v') :: insertKey k v t

/-- The list without the entry at key `k`. -/
def eraseKey {α : Type} (k : Nat) (l : List (Nat × α)) : List (Nat × α) := l.filter (·.1 != k)

/-- Element `i` of a list replaced through `f`; unchanged beyond its end. -/
def modAt {α : Type} (l : List α) (i : Nat) (f : α → α) : List α := l.modify i f

/-- `x + 1`, held at `m` (the counters that hold at all ones). -/
def satInc (x m : Nat) : Nat := if x < m then x + 1 else m

/-- Newton steps of the integer square root, falling from an upper bound; `fuel` bounds them. -/
def isqrtGo (n : Nat) : Nat → Nat → Nat
  | 0, r => r
  | fuel + 1, r => let q := (r + n / r) / 2; if q < r then isqrtGo n fuel q else r

/-- Integer square root, rounded down. -/
def isqrt (n : Nat) : Nat := if n = 0 then 0 else isqrtGo n (Nat.log2 n + 2) (2 ^ (Nat.log2 n / 2 + 1))

/-- `n` consecutive numbers from `a`. -/
def span (a n : Nat) : List Nat := (List.range n).map (a + ·)

/-- Reflected CRC-32 step of one byte with polynomial `poly` (bit reversed). -/
def crcStep (poly : Nat) (crc : Nat) (b : Byte) : Nat :=
  (List.range 8).foldl (fun c _ => if c % 2 == 1 then (c / 2) ^^^ poly else c / 2) (crc ^^^ b.toNat)

/-- CRC-32C of iSCSI (R238): polynomial 0x1EDC6F41 reflected. -/
def crc32c (l : List Byte) : Nat := (l.foldl (crcStep 0x82F63B78) 0xFFFFFFFF) ^^^ 0xFFFFFFFF

/-- CRC-32 of IEEE 802.3 (R270): polynomial 0x04C11DB7 reflected. -/
def crc32 (l : List Byte) : Nat := (l.foldl (crcStep 0xEDB88320) 0xFFFFFFFF) ^^^ 0xFFFFFFFF

/-- Rotation of a 64-bit lane by `n` places towards its high end. -/
def lane64 (n x : Nat) : Nat :=
  let y := x * 2 ^ n
  y / 2 ^ 64 ^^^ y % 2 ^ 64

/-- One step of the feedback register of FIPS 202 (x^8 + x^6 + x^5 + x^4 + 1), register bit i in bit i. -/
def lfsrStep (r : Nat) : Nat := if r < 128 then 2 * r else 2 * r ^^^ 0x171

/-- A round's iota word from the register, and the register after its seven steps: bit 2^j − 1 is the j-th output bit. -/
def iotaWord (r : Nat) : Nat × Nat :=
  [0, 1, 3, 7, 15, 31, 63].foldl (fun (w : Nat × Nat) p => (w.1 + w.2 % 2 * 2 ^ p, lfsrStep w.2)) (0, r)

/-- Keccak's theta: every lane exclusive-ored with the parity of two neighbouring columns. -/
def theta (a : Vector Nat 25) : Vector Nat 25 :=
  let par (x : Nat) : Nat := ((List.range 25).filter (· % 5 == x % 5)).foldl (fun z i => z ^^^ a.toList.getD i 0) 0
  let mask : List Nat := (List.range 5).map fun x => par (x + 4) ^^^ lane64 1 (par (x + 1))
  Vector.ofFn fun i => a[i] ^^^ mask.getD (i.val % 5) 0

/-- Keccak's rho and pi as one walk of 24 steps: lane (x, y) goes, turned by the next triangular number, to (y, 2x + 3y). -/
def rhoPi (a : Vector Nat 25) : Vector Nat 25 :=
  let go (w : Nat × Nat × Vector Nat 25) (t : Nat) : Nat × Nat × Vector Nat 25 :=
    let (x, y, b) := w
    let y' := (2 * x + 3 * y) % 5
    (y, y', b.setIfInBounds (y + 5 * y') (lane64 ((t + 1) * (t + 2) / 2 % 64) (a.toList.getD (x + 5 * y) 0)))
  ((List.range 24).foldl go (1, 0, a)).2.2

/-- Keccak's chi: each lane joined with the lane two on in its row where the next one has a zero bit. -/
def chi (a : Vector Nat 25) : Vector Nat 25 :=
  let next (i k : Nat) : Nat := a.toList.getD (i / 5 * 5 + (i % 5 + k) % 5) 0
  Vector.ofFn fun i => a[i] ^^^ (next i.val 2 - (next i.val 1 &&& next i.val 2))

/-- Keccak-f[1600]: 24 rounds, the feedback register starting at 1. -/
def keccakF (a : Vector Nat 25) : Vector Nat 25 :=
  ((List.range 24).foldl (fun (w : Vector Nat 25 × Nat) _ =>
    let k := iotaWord w.2
    let z := chi (rhoPi (theta w.1))
    (z.set 0 (z[0] ^^^ k.1), k.2)) (a, 1)).1

/-- Absorbs whole blocks of `rate` bytes; `fuel` bounds their number. -/
def absorb (rate : Nat) : Nat → List Byte → Vector Nat 25 → Vector Nat 25
  | 0, _, st => st
  | fuel + 1, l, st =>
    if l.length < rate then st
    else absorb rate fuel (l.drop rate) (keccakF (Vector.ofFn fun i => if i.val < rate / 8 then st[i] ^^^ fld l (8 * i.val) 8 else st[i]))

/-- The bytes of a state that a block of `rate` bytes gives. -/
def blockOf (rate : Nat) (st : Vector Nat 25) : List Byte := (List.range (rate / 8)).flatMap fun i => leBytes 8 (st.toList.getD i 0)

/-- The sponge of FIPS 202 once a message is absorbed, with the pad 10*1 after the bits `dom` that close it. -/
def sponge (rate dom : Nat) (l : List Byte) : Vector Nat 25 :=
  let n := l.length / rate + 1
  let pad := patch (List.replicate (rate * n - l.length) 0) 0 (leBytes 1 dom)
  let whole := l ++ pad.take (pad.length - 1) ++ (pad.drop (pad.length - 1)).map (· + 128)
  absorb rate n whole (Vector.replicate 25 0)

/-- SHA3-256 of FIPS 202. -/
def sha3 (l : List Byte) : List Byte := (blockOf 136 (sponge 136 6 l)).take 32

/-- `blocks` blocks squeezed from a state. -/
def squeeze (rate : Nat) : Nat → Vector Nat 25 → List Byte
  | 0, _ => []
  | n + 1, st => blockOf rate st ++ squeeze rate n (keccakF st)

/-- SHAKE128 (rate 168) and SHAKE256 (rate 136) of FIPS 202, to `n` bytes. -/
def shake (rate : Nat) (l : List Byte) (n : Nat) : List Byte := (squeeze rate (n / rate + 1) (sponge rate 0x1F l)).take n

end Sys2Proof.Machine
end

