-- ==== Sys2Proof/Machine/Flags.lean ====
section
/-!
DEFINITION. Exception flags (02_number_formats.md R53, R54, Table 2.9) and the record an arithmetic step leaves beside
its value: the flags it raises and the cause of a NaN it creates (Table 2.14).
-/
namespace Sys2Proof.Machine

/-- The seven flags of SCH_FPFLAGS in their bit positions. -/
abbrev FpFlags := BitVec 7

def fINVALID : FpFlags := 1
def fDIVZERO : FpFlags := 2
def fOVERFLOW : FpFlags := 4
def fUNDERFLOW : FpFlags := 8
def fINEXACT : FpFlags := 16
def fNANLOST : FpFlags := 32
def fSATUR : FpFlags := 64

/-- What an operation reports beside its value: flags (R53) and the first NaN-creation cause, 0 for none (Table 2.14). -/
structure Ev where
  flags : FpFlags := 0
  cause : Nat := 0
deriving DecidableEq, Repr

/-- Nothing to report. -/
def Ev.none : Ev := ⟨0, 0⟩

/-- Two reports together: flags are an OR over all events (R53); the first cause stands. -/
def Ev.join (a b : Ev) : Ev := ⟨a.flags ||| b.flags, if a.cause = 0 then b.cause else a.cause⟩

/-- The reports of a list, in order. -/
def Ev.all (l : List Ev) : Ev := l.foldl Ev.join Ev.none

/-- The flags a comparison or conversion of a signalling NaN raises, with cause 0x0006 (Table 2.14). -/
def Ev.snan : Ev := ⟨fINVALID, 6⟩

/-- `fl` if `b`, else no flag. -/
def flagIf (b : Bool) (fl : FpFlags) : FpFlags := if b then fl else 0

end Sys2Proof.Machine
end

