-- ==== Sys2Proof/Config.lean ====
section
/-!
DEFINITION. The free values: what the spec leaves open on this hardware. Each is an opaque constant with no body, so
no proof can see what it is. A free value is applied to what it depends on, or to the counter `seq` of the state.
-/
namespace Sys2Proof

/-- The byte a location holds whose contents the spec calls undefined: tag of the event that left it so, and the
address (R407 DRAM after RESET_N, R284 a collective's destination, window contents after a Ladle run; log 4, DESIGN CHOICE). -/
opaque Config.freeByte : Nat → Nat → BitVec 8
/-- Cycles of a counter between two looks at it (R19: each domain is free running; log 5, DESIGN CHOICE). -/
opaque Config.elapsed : Nat → Nat
/-- How a word with four or more erroneous symbols is classified (Table 12.4): 0 clean, 1 corrected, else
uncorrectable; by the state's draw counter (log 6, DESIGN CHOICE). -/
opaque Config.eccOutcome : Nat → Nat
/-- The symbol and value a false correction writes over a word with four or more erroneous symbols (log 6, DESIGN CHOICE). -/
opaque Config.eccMiscorrect : Nat → Nat × BitVec 8
/-- The 32-byte PUF key that the root-of-trust block reconstructs from its SRAM's power-up state and the helper data (R372; log 7,
DESIGN CHOICE). -/
opaque Config.pufKey : List (BitVec 8) → List (BitVec 8) → BitVec 256
/-- Raw power estimate in watts of one die's activity, or of the rest of the module, by its activity weights and the draw counter,
with that activity rated at an operating point (R336, R337; log 8, DESIGN CHOICE). -/
opaque Config.rawPower : List Nat → Nat → Nat → Nat
/-- The group that output channels 32·COL on of an MCONV belong to, by COL, the number of groups and C: the instruction
names no Cout, so R136 does not state it when there are several groups (log 15, DESIGN CHOICE). -/
opaque Config.convGroup : Nat → Nat → Nat → Nat
/-- The parameters of a compressed descriptor in a recipe's section, which has no room for them, by the descriptor's word
(log 21, DESIGN CHOICE). -/
opaque Config.sectionPair : Nat → Nat
/-- Whether a choice the spec leaves to the machine falls the first way (log 9, DESIGN CHOICE). -/
opaque Config.choice : Nat → Bool
/-- Capacity of a resource in a ration period, quad-cycles for ME time and bytes for the others, by the resource (Table 15.6's
activity) and PERIOD (R326; log 38, DESIGN CHOICE). -/
opaque Config.capacity : Nat → Nat → Nat
/-- What a codec's specification reads from the headers of an access or temporal unit, by the codec and the unit's bytes: 0 the width, 1
the height, 2 the bit depth, 3 the chroma format, 4 the side of a CTU or superblock (R348, R360; log 26, DESIGN CHOICE). -/
opaque Config.vidHeader : Nat → List Nat → Nat → Nat
/-- The sample that a codec's specification defines at a plane, row and column of the picture of a stream's newest unit, by the stream's
parameter block and its units so far (R350; log 26, DESIGN CHOICE). -/
opaque Config.vidSample : List (BitVec 8) → List (List Nat) → Nat → Nat → Nat → Nat
/-- Whether a syntax error leaves a CTU or superblock of that picture undecoded (R360; log 26, DESIGN CHOICE). -/
opaque Config.vidDamaged : List (BitVec 8) → List (List Nat) → Nat → Bool
/-- DSTAT's MISSREF, HASH and TRUNC bits that the specification's reading of that unit gives (Table 17.4; log 26, DESIGN CHOICE). -/
opaque Config.vidNotes : List (BitVec 8) → List (List Nat) → Nat
/-- The pictures, by their numbers in decoding order, that it outputs with that unit, in output order (R359; log 26, DESIGN CHOICE). -/
opaque Config.vidOutputs : List (BitVec 8) → List (List Nat) → List Nat
/-- The pictures, by their numbers, that it needs from then on (R358; log 26, DESIGN CHOICE). -/
opaque Config.vidNeeds : List (BitVec 8) → List (List Nat) → List Nat
/-- The bytes an encoder makes of a slice or tile row of a stream's newest frame, by the stream's parameter block, its frames' sizes and
samples so far, and the slice's number (R350, R356; log 26, DESIGN CHOICE). -/
opaque Config.vidCode : List (BitVec 8) → List (List Nat) → Nat → List (BitVec 8)
/-- Any other value the spec does not state, by the draw counter (log 10, DESIGN CHOICE). -/
opaque Config.freeNat : Nat → Nat

end Sys2Proof
end

