-- ==== Sys2Proof/Machine/Memory.lean ====
section
/-!
DEFINITION. A byte memory in one canonical form: cells strictly rising, none holding what an unlisted address reads as,
and intervals whose bytes the spec leaves undefined (log 3, DESIGN CHOICE, log 4, DESIGN CHOICE).
-/
namespace Sys2Proof.Machine

/-- A memory. `cells` are the written bytes that are not 0; `junk` lists intervals (start, length, tag) of undefined bytes. (log 3, DESIGN CHOICE) -/
structure Mem where
  cells : List Host.Cell := []
  junk : List (Nat × Nat × Nat) := []
deriving DecidableEq, Repr

/-- The junk interval an address lies in. -/
def Mem.junkAt (m : Mem) (a : Nat) : Option (Nat × Nat × Nat) := m.junk.find? (fun j => j.1 ≤ a && a < j.1 + j.2.1)

/-- What an unlisted address reads as: a free byte in a junk interval, else 0 (log 3, DESIGN CHOICE). -/
def Mem.unlisted (m : Mem) (a : Nat) : Byte :=
  match m.junkAt a with
  | some j => Config.freeByte j.2.2 a
  | none => 0

/-- One byte of memory. (log 3, DESIGN CHOICE) -/
def Mem.get (m : Mem) (a : Nat) : Byte :=
  match m.cells.find? (fun c => c.1 == a) with
  | some c => c.2
  | none => m.unlisted a

/-- Cells strictly rising. -/
def risingFrom : Nat → List Host.Cell → Bool
  | _, [] => true
  | lo, c :: t => lo ≤ c.1 && risingFrom (c.1 + 1) t

/-- The bytes at rising addresses, taken from rising cells in one pass. -/
def Mem.along (m : Mem) : List Host.Cell → List Nat → List Byte
  | _, [] => []
  | [], x :: xs => m.unlisted x :: m.along [] xs
  | c :: t, x :: xs => if c.1 = x then c.2 :: m.along t xs else m.unlisted x :: m.along (c :: t) xs

/-- `n` bytes from address `a`: in one pass, as the cells are rising; byte by byte if they were not. -/
def Mem.read (m : Mem) (a n : Nat) : List Byte :=
  let near := m.cells.filter (fun c => a ≤ c.1 && c.1 < a + n)
  if near.isEmpty && m.junk.isEmpty then List.replicate n 0
  else if risingFrom a near then m.along near (span a n)
  else ({ m with cells := near } : Mem).get <$> span a n

/-- The junk intervals without the bytes a to a + n − 1. -/
def cutJunk (j : List (Nat × Nat × Nat)) (a n : Nat) : List (Nat × Nat × Nat) :=
  (j.map (fun x =>
    [(x.1, min (x.1 + x.2.1) a - x.1, x.2.2),
     (max x.1 (a + n), x.1 + x.2.1 - max x.1 (a + n), x.2.2)].filter (fun y => 0 < y.2.1))).flatten

/-- The cells of a byte string placed at address `a`, zero bytes left out. -/
def cellsOf : Nat → List Byte → List Host.Cell
  | _, [] => []
  | a, b :: t => if b = 0 then cellsOf (a + 1) t else (a, b) :: cellsOf (a + 1) t

/-- Memory with the bytes `bs` stored from address `a`. -/
def Mem.write (m : Mem) (a : Nat) (bs : List Byte) : Mem :=
  { cells := m.cells.filter (fun c => c.1 < a) ++ cellsOf a bs ++ m.cells.filter (fun c => a + bs.length ≤ c.1)
    junk := cutJunk m.junk a bs.length }

/-- Memory with `n` bytes from `a` reading 0. -/
def Mem.clear (m : Mem) (a n : Nat) : Mem :=
  { cells := m.cells.filter (fun c => c.1 < a) ++ m.cells.filter (fun c => a + n ≤ c.1), junk := cutJunk m.junk a n }

/-- Memory with the contents of `n` bytes from `a` undefined. (log 4, DESIGN CHOICE) -/
def Mem.spoil (m : Mem) (a n tag : Nat) : Mem :=
  let c := m.clear a n
  if n = 0 then c else { c with junk := c.junk ++ [(a, n, tag)] }

/-- The canonical form: addresses strictly rising, no stored 0, and no cell where the contents are undefined. (log 3, DESIGN CHOICE) -/
def Mem.wf (m : Mem) : Bool := risingFrom 0 m.cells && m.cells.all (fun c => c.2 != 0 && (m.junkAt c.1).isNone)

end Sys2Proof.Machine
end

