-- ==== Sys2Proof/Machine/CoreState.lean ====
section
/-!
DEFINITION. The state of the compute side: memory and its errors (12), strands and contexts (04, 15), accumulations (03),
units shared by contexts (08 to 11), the binding table and rations (15), and the outbox of messages to other parties.
-/
namespace Sys2Proof.Machine

/-- Counts of one memory unit (Tables 12.7, 12.8); `ueAddr` and `ueValid` are MEM_UELAST's fields. -/
structure EccCount where
  ce : Nat := 0
  ue : Nat := 0
  drop : Nat := 0
  ueAddr : Nat := 0
  ueValid : Bool := false
deriving DecidableEq, Repr

/-- Erroneous symbols of stored codewords (R259, R260) by word key, each a list of (symbol 0 to 67, value XORed in); `bad` holds the bad-word
tables (R264), word keys rising; `once` the words whose next transfer fails all its attempts (R260); `uncleared` the words of rebound regions
neither cleared nor written by the new owner (R383), as ranges of keys; counts by unit code; `draws` counts the free values used; `news` lists
uncorrectable reads (unit, address) that Lantern has not yet reported (R265), and `back` the words that corrected reads of the command in
progress have written back (R261). -/
structure Ecc where
  errs : List (Nat × List (Nat × Byte)) := []
  bad : List Nat := []
  once : List Nat := []
  uncleared : List (Nat × Nat) := []
  cnt : List (Nat × EccCount) := []
  draws : Nat := 0
  news : List (Nat × Nat) := []
  back : List Nat := []
deriving DecidableEq, Repr

/-- Kinds of accumulation (Table 3.3). -/
inductive AccKind where
  | acc | f64 | int | chain
deriving DecidableEq, Repr

/-- An accumulation at a base slot (R68, R83). Its values lie in the ACM slots; `stack` holds the tags (level, index) of
the tree stack from the bottom; `dirty` says that the grain accumulator holds beats not yet pushed. -/
structure Acc where
  kind : AccKind
  depth : Nat
  kext : Nat
  gstart : Nat
  next : Nat
  dirty : Bool
  stack : List (Nat × Nat)
  sat : Bool
  rdnz : Bool
  row : Nat
  col : Nat
  finished : Bool
deriving DecidableEq, Repr

/-- Grains of the whole reduction. -/
def Acc.ngrain (a : Acc) : Nat := ceilDiv a.kext 1024

/-- The OSP, the ACM and the accumulations of a strand index (R90). -/
structure TileMem where
  osp : Mem := {}
  acm : Mem := {}
  accs : List (Nat × Acc) := []
deriving DecidableEq, Repr

/-- What a strand waits for. -/
inductive Wait where
  | flag (addr cmp val : Nat)
  | barrier (scope num : Nat)
  | remote (addr len : Nat)
  | remoteFlag (addr kind val val2 : Nat)
  | panels (addr len : Nat)
  | splitK (addr val : Nat)
  | arrive (addr val : Nat)
  | walk (obj : Nat)
  | memb
  | tgen (slot : Nat)
  | coll
  | acks
deriving DecidableEq, Repr

/-- A waiting instruction: what it waits for, its opcode, its body, and NANTRAP as it was when it issued (R59). -/
structure Held where
  wait : Wait
  op : Nat
  body : Body
  trapOn : Bool
deriving DecidableEq, Repr

/-- How far a BGEMM or an ATTN has come in its list: entries done, points of its progress passed in them, block sets, and the number of
the next entry's first work item. (log 43, DEDUCED) -/
structure ListPos where
  entries : Nat := 0
  points : Nat := 0
  seen : Nat := 0
  base : Nat := 0
deriving DecidableEq, Repr

/-- A strand (R85, R89, Table 4.1). `me` is the ME it is placed on; `arrived` holds bytes or refusals returned by remote
modules to the instruction in progress; `acks` counts remote stores not yet acknowledged (R103, R108); `stalled` says that
its transfer was reported as stalled (R288); `turn` is when it was last placed (R319),
`ackTo` the module of its last remote store; `list` belongs to prg (R107). -/
structure Strand where
  launch : Nat
  rank : Nat
  count : Nat
  base : Nat
  acmAlloc : Nat
  me : Option Nat
  s : Vector W64 32
  d : Vector Desc 16
  p : Vector Bool 8
  v : Vector (Vector W32 64) 32
  pc : W64
  prg : W64
  held : Option Held
  arrived : List (Nat × List Byte)
  acks : Nat
  prefer : Nat
  stalled : Bool
  turn : Nat := 0
  ackTo : Nat := 0
  list : ListPos := {}
deriving DecidableEq, Repr

/-- The path a request of the management path or a host took (R9, R11, R304): a queue pair, a mailbox, or MCTP over SMBus
or I3C from a bus address. -/
inductive Path where
  | roce (qp : Nat)
  | mailbox (n : Nat)
  | mctp (i3c : Bool) (addr : Nat)
deriving DecidableEq, Repr

/-- Where the completion of a command goes: its path, its CMDID, its EVENT flag and FREC (R304). -/
structure CmdRef where
  path : Path
  id : Nat
  event : Bool := false
  frec : Nat := 0
deriving DecidableEq, Repr

/-- A launch of a context (R85): waiting until `base` is set. -/
structure Launch where
  num : Nat
  entry : Nat
  count : Nat
  arg : Nat
  base : Option Nat
  cmd : Option CmdRef
deriving DecidableEq, Repr

/-- A barrier with arrivals (R104): its launch, scope, group, number and the ranks that have arrived; `fin` is 0 once it is
released, the status word once it is aborted (R285); `told` says that this member's arrival at a barrier of scope 3 has been
sent to the others. -/
structure Bar where
  launch : Nat
  scope : Nat
  group : Nat
  num : Nat
  arrived : List Nat
  fin : Option Nat
  told : Bool := false
deriving DecidableEq, Repr

/-- One histogram set (Tables 2.11 to 2.13); `base` is the raw 16-bit field. -/
structure Hist where
  base : Nat := 0xFFE2
  en : Bool := false
  tiles : Nat := 0
  bins : List (Nat × Nat) := []
deriving DecidableEq, Repr

/-- The registers of a context slot (R54, R57, R61, R110, R153, R177). -/
structure NumRegs where
  nantrap : Bool := false
  fpflags : FpFlags := 0
  nanrec : Nat := 0
  ringAddr : Nat := 0
  ringLog : Nat := 4
  head : Nat := 0
  tail : Nat := 0
  dropped : Nat := 0
  h0 : Hist := {}
  h1 : Hist := {}
  h2 : Hist := {}
  h3 : Hist := {}
  fitCount : Nat := 0
  fitLast : Nat := 0
  rcpCount : Nat := 0
  rcpLast : Nat := 0
deriving DecidableEq, Repr

/-- Where a NaN was created (Table 2.15). -/
structure NanInfo where
  cause : Nat
  row : Nat := 0
  col : Nat := 0
  entry : Nat := 0
  grain : Nat := 0xFFFFFFFF
  koff : Nat := 0xFFFF
deriving DecidableEq, Repr

/-- A NaN trap taken and not yet recorded (R58): the strand, the instruction and its descriptors; `cc` is the counter at
detection, and `path` says that the NaN arose on the sampler path (Table 2.15). -/
structure Trap where
  strand : Nat
  rank : Nat
  me : Option Nat
  path : Bool := false
  pc : Nat
  cc : Nat
  info : NanInfo
  da : Desc
  db : Desc
  dd : Desc
deriving DecidableEq, Repr

/-- What another member brings to a collective or expert operation (R281, R283, R290 to R292): its rank, the parameters the
members compare, its rows (codes of the source format for COLL and XDISP; for XCOMB the exact values as FP64 codes), and for
XDISP its id rows. (log 59, DEDUCED) -/
structure Peer where
  rank : Nat
  params : List Nat
  rows : List (List Nat)
  ids : List (List Nat)
deriving DecidableEq, Repr

/-- A COLL, XDISP or XCOMB of a context in flight (R281, R285): its strand, its opcode, the parameters compared, what the
other members brought, and the status word once it has ended. (log 59, DEDUCED) -/
structure CollOp where
  strand : Nat
  op : Nat
  params : List Nat
  peers : List Peer
  fin : Option Nat
  stalled : Bool
deriving DecidableEq, Repr

/-- The opcode of the packets that carry an operation's data (Table 13.3). -/
def CollOp.packetOpc (q : CollOp) : Nat := if q.op = 0x88 then 0x10 else 0x11

/-- The collective state of a context (R280): the current list (device, context), its generation, whether it is aborted. -/
structure CollCtx where
  members : List (Nat × Nat) := []
  gen : Nat := 0
  listed : Bool := false
  aborted : Bool := false
  nextSeq : Nat := 1
  ops : List CollOp := []
deriving DecidableEq, Repr

/-- Accounting counters of a context (R327), by their order in the record; `ran` says that a strand of it was placed since the
record was last updated. -/
structure Acct where
  run : Nat := 0
  throttled : Nat := 0
  opstall : Nat := 0
  collwait : Nat := 0
  hbm : Nat := 0
  lp : Nat := 0
  nym : Nat := 0
  eth : Nat := 0
  switch : Nat := 0
  energy : Nat := 0
  saves : Nat := 0
  ran : Bool := false
deriving DecidableEq, Repr

/-- What the scheduler is doing with a context (Table 15.4 STATE 4 and 5). -/
inductive Moving where
  | none | stopping | saving | restoring
deriving DecidableEq, Repr

/-- A known context (04, 15). The `Since` fields say when by `Core.clock` it became RUNNABLE, became resident,
became BLOCKED or became IDLE, and are 0 while it is not so (R319); `woken` says that a wait of it was found satisfied while
it is not resident (R320); `savedLen` is LEN of the image in its image area, 0 for none; `saveCmds` and `resumeCmd`
are commands that complete when a save or a readmission does. `late` holds the fault-ring registers while the context is not
on chip, with the records dropped since, `lateRecs` counts those written since, and `lateFault` says that a fault came (R88, R109).
`chroma` keeps the pixels of YCC blocks that lie in two tiles until the other tile is there (R170): each row's place in its block, its
Cb′ and Cr′, and whether a NaN was lost in it. -/
structure Context where
  part : Nat
  pack : Nat
  prio : Nat
  mask : Nat
  poff : Nat
  plen : Nat
  imgAddr : Nat
  imgLen : Nat
  ladle : Bool
  slot : Option Nat := none
  moving : Moving := .none
  faulted : Bool := false
  trap : Option Trap := none
  strands : List (Nat × Strand) := []
  tiles : List (Nat × TileMem) := []
  launches : List Launch := []
  nextLaunch : Nat := 0
  bars : List Bar := []
  num : NumRegs := {}
  coll : CollCtx := {}
  chroma : List (Nat × List (Nat × Nat × Nat × Bool)) := []
  acct : Acct := {}
  runnableSince : Nat := 0
  residentSince : Nat := 0
  blockedSince : Nat := 0
  idleSince : Nat := 0
  savedLen : Nat := 0
  woken : Bool := false
  saveCmds : List CmdRef := []
  resumeCmd : Option CmdRef := none
  late : NumRegs := {}
  lateRecs : Nat := 0
  lateFault : Bool := false
deriving DecidableEq, Repr

/-- An entry point of a pack (R145, R191): address, ACMALLOC, and for each table slot the index of its image. -/
structure Entry where
  addr : Nat
  acmAlloc : Nat
  tables : List (Option Nat)
deriving DecidableEq, Repr

/-- A loaded pack (R317, R115, R191). -/
structure Pack where
  part : Nat
  addr : Nat
  len : Nat
  codeBase : Nat
  codeLen : Nat
  entries : List Entry
  tables : List (List Byte)
  digest : List Byte
  caps : Nat
  ladle : Bool
deriving DecidableEq, Repr

/-- A generation of a table slot (R241 to R244): counts by plane × 256 + symbol, code lengths of each plane once sealed,
and references of decode requests in flight. -/
structure Gen where
  num : Nat
  sealed : Bool := false
  planes : Nat := 0
  counts : List (Nat × Nat) := []
  lens : List (List Nat) := []
  refs : Nat := 0
deriving DecidableEq, Repr

/-- A table slot of the module (R244, R247). -/
structure TSlot where
  owner : Nat := 0xF
  cur : Option Gen := none
  prev : Option Gen := none
  draining : Option Nat := none
deriving DecidableEq, Repr

/-- Parameters of a compressed pair (Table 11.1); `size` is the dense image's byte length F and `planes` its P. -/
structure Comp where
  noBase : Bool
  nblk : Nat
  meta' : Nat
  baseRef : Nat
  size : Nat
  planes : Nat
  place : Nat
deriving DecidableEq, Repr

/-- A block decode request (R244, R249, R251): its number, its strand, the pair and the block; `entry` is its metadata once a
Sieve instance has accepted it, and none while it waits; `arrived` holds bytes that other modules returned for it. -/
structure DecodeReq where
  num : Nat
  ctx : Nat
  strand : Nat
  pair : Comp
  index : Nat
  entry : Option (List Byte) := none
  arrived : List (Nat × List Byte) := []
deriving DecidableEq, Repr

/-- A sampler (R232, Tables 10.5, 10.6): STATE 0 READY, 1 STARTUP, 2 SELFTEST, 3 RECOVERY; `fails` counts self-tests failed in
a row, `want` is a self-test requested during STARTUP. -/
structure Sampler where
  errs : Nat := 0
  failed : Bool := false
  state : Nat := 1
  gcount : Nat := 0
  fails : Nat := 0
  want : Bool := false
deriving DecidableEq, Repr

/-- A walk in flight (R210 to R213): the die, the strand and the copy of the table object it reads. -/
structure Walk where
  die : Nat
  ctx : Nat
  strand : Nat
  obj : Nat
  copy : Nat
deriving DecidableEq, Repr

/-- A live page-table object and the contexts that published or walked it (R211). -/
structure LiveObj where
  addr : Nat
  users : List Nat
deriving DecidableEq, Repr

/-- Head and data of a Nymhel packet (Table 13.3). -/
structure Packet where
  dest : Nat
  src : Nat
  epoch : Nat
  opc : Nat
  spart : Nat
  tag : Nat
  addr : Nat
  arg : Nat
  data : List Byte
deriving DecidableEq, Repr

/-- Who made a request to another module: a strand, by its context, index, launch and rank, a queue pair, or a block decode
request, by its number. (log 71, DESIGN CHOICE) -/
inductive Asker where
  | strand (ctx idx launch rank : Nat)
  | qp (n : Nat)
  | sieve (n : Nat)
deriving DecidableEq, Repr

/-- A request to another module that is not answered (R108, R272, R278): its tag, who asks, the module, the bytes of the
answer still to come, and the wait it serves, none for a strand's store or FSET (a queue pair's keeps its address and length); `pc` is
the address of the instruction that made it, and `stalled` R288's report. The entry stands for
the response buffer that is reserved before the request is sent (R272). (log 71, DESIGN CHOICE) -/
structure Req where
  tag : Nat
  who : Asker
  dest : Nat
  left : Nat
  wait : Option Wait
  pc : Nat := 0
  stalled : Bool := false
deriving DecidableEq, Repr

/-- Returned bytes added to those of a strand; bytes that follow on from the last piece join it. (log 71, DESIGN CHOICE) -/
def addArrived (l : List (Nat × List Byte)) (a : Nat) (bs : List Byte) : List (Nat × List Byte) :=
  match l.getLast? with
  | some e => if e.1 + e.2.length = a then l.dropLast ++ [(e.1, e.2 ++ bs)] else l ++ [(a, bs)]
  | none => [(a, bs)]

/-- The address a request names, as its asker gave it; 0 for a store of a strand. -/
def Req.addr (q : Req) : Nat :=
  match q.wait with
  | some (.remote a _) | some (.panels a _) | some (.remoteFlag a _ _ _) => a
  | _ => 0

/-- A message of the M8 to another party. (log 64, DESIGN CHOICE; log 65, DESIGN CHOICE) -/
inductive Out where
  | packet (link : Nat) (p : Packet)
  | flit (link : Nat) (bytes : List Byte)
  | hostWrite (qp addr rkey : Nat) (bytes : List Byte)
  | hostSend (qp : Nat) (bytes : List Byte)
  | roce (qp : Nat) (what : String) (bytes : List Byte)
  | answer (path : Path) (code value : Nat)
  | record (path : Path) (bytes : List Byte)
  | mctp (bytes : List Byte)
  | frame (port : Nat) (what : String) (bytes : List Byte)
  | wire (port vlan prio : Nat) (o : Out)
  | telemetry (bytes : List Byte)
  | event (what : String) (a b : Nat)
deriving DecidableEq, Repr

/-- Activity counters of an ME (Table 3.7). -/
structure Activity where
  beat : Nat := 0
  gate : Nat := 0
  skip : Nat := 0
deriving DecidableEq, Repr

/-- The wear-levelled region of the carrier flash (Table 18.1, R385), 1,007 erase blocks of 64 KiB written in turn: the block being
written, times that all blocks were erased before this turn, and bytes written in it. (log 90, DESIGN CHOICE) -/
structure Wear where
  block : Nat := 0
  rounds : Nat := 0
  fill : Nat := 0
deriving DecidableEq, Repr

/-- Bytes written to the region: a block that cannot take them leads to the next, which is erased. (log 90, DESIGN CHOICE) -/
def Wear.write (w : Wear) (n : Nat) : Wear :=
  if w.fill + n ≤ 65536 then { w with fill := w.fill + n }
  else if w.block + 1 < 1007 then { w with block := w.block + 1, fill := n }
  else { block := 0, rounds := w.rounds + 1, fill := n }

/-- Erasures of a block. -/
def Wear.erasures (w : Wear) (b : Nat) : Nat := if b ≤ w.block then w.rounds + 1 else w.rounds

/-- The journal (R386 to R392): the newest entry's number and hash, the boot count, the flash copy with its newest number,
the reservation mark, the flash region that holds them, and whether the ring cannot be written. -/
structure Journal where
  head : Nat := 0
  hash : List Byte := List.replicate 32 0
  bootn : Nat := 0
  copied : Nat := 0
  flash : List (Nat × List Byte) := []
  mark : Nat := 0
  wear : Wear := {}
  ringLost : Bool := false
deriving DecidableEq, Repr

/-- A command that has completed and that Lantern has not yet answered (R303): with the context it names, the partition it
acts for (0xFFFF the operator), and SOURCE and DETAIL of its fault record. -/
structure Done where
  cmd : CmdRef
  status : Nat
  result : Nat
  ctx : Nat := 0xFFFF
  part : Nat := 0xFFFF
  src : Nat := 3
  detail : List Byte := []
  extra : List Byte := []
deriving DecidableEq, Repr

/-- The compute side of the M8. `owners` is the binding table by class × 4096 + unit, 0xFF where unlisted (R314); `pool` is the partition that
each ME of a pool quad is given to, and `poolUse` the turns each partition has had (R314); `credits` are those of R326 by resource × 16 +
claimant, `usage` the bytes each context has used of a resource, by context × 8 + resource; `clocks` are the counters of the other clock domains
(R19); `reqs` are the requests to other modules not yet answered and `nextTag` numbers them; `seq` counts free values drawn; `clock` orders
scheduling events, and `period` is it at the last ration boundary; `out` is the outbox, newest first. -/
structure Core where
  mem : Mem
  ecc : Ecc
  windows : List (Nat × TileMem)
  slotRegs : List (Nat × NumRegs)
  hbmSpread : Nat
  ctxs : List (Nat × Context)
  packs : List (Nat × Pack)
  owners : List (Nat × Nat)
  ration : List Byte
  nextRation : Option (List Byte)
  pool : List (Nat × Nat)
  poolUse : List (Nat × Nat)
  credits : List (Nat × Nat)
  usage : List (Nat × Nat)
  acctReg : Nat
  pmode : Nat
  ftab : List (Nat × List Byte)
  acts : List (Nat × Activity)
  tslots : Vector TSlot 16
  decodes : List DecodeReq
  stalls : List (Nat × Nat)
  samplers : Vector Sampler 8
  walks : List Walk
  live : List LiveObj
  cclk : List (Nat × Nat)
  wclk : Nat
  clocks : List (Nat × Nat)
  reqs : List Req
  nextTag : Nat
  seq : Nat
  clock : Nat
  period : Nat
  jnl : Journal
  dones : List Done
  out : List Out
deriving DecidableEq, Repr

end Sys2Proof.Machine
end

