-- ==== Sys2Proof/Machine/Units.lean ====
section
/-!
DEFINITION. The state of the units beside the compute side: Nymhel (13), Ethernet and host queues (14), Lantern's mailboxes,
MCTP and telemetry (14, 19), the Damper (16), video engines (17), boot and identity (18), and the board contacts (20).
-/
namespace Sys2Proof.Machine

/-! ### Nymhel -/

/-- A routing bank (R274): its epoch and the entries other than 31, each (destination, port, hops). -/
structure Bank where
  epoch : Nat
  entries : List (Nat × Nat × Nat)
deriving DecidableEq, Repr

/-- A table vector (R275): the epoch, directions of the sender's ports (0 unknown, 1 up, 2 down), its port and hop count
for each destination it reaches; `reply` says that it answers this module's own. (log 23, DESIGN CHOICE) -/
structure TableVec where
  epoch : Nat
  dirs : List Nat
  entries : List (Nat × Nat × Nat)
  reply : Bool := false
deriving DecidableEq, Repr

/-- The other end of a link as training tells it (R269): its link number, and the epochs of its module's routing tables. -/
structure PeerLink where
  link : Nat
  epochs : List Nat
deriving DecidableEq, Repr

/-- A packet under way on a link: the channel of each flit received, the bytes received so far and the bytes it has in
all (R272); `drop` says that its transfer was aborted and that its buffers are free (R289). -/
structure Partly where
  vcs : List Nat
  got : List Byte
  want : Nat
  drop : Bool := false
deriving DecidableEq, Repr

/-- A flit that waits to be sent: its channel, KIND and BODY, the link and channel whose buffer it occupies, if it is
in transit (R272), its packet's number on this link and its packet's EPOCH. -/
structure Wflit where
  vc : Nat
  kind : Nat
  body : List Byte
  origin : Option (Nat × Nat)
  pkt : Nat := 0
  epoch : Nat := 0
deriving DecidableEq, Repr

/-- A packet kept in its buffers (R274): the link and channels it came on, and whether it was reported as stalled. -/
structure HeldPkt where
  pkt : Packet
  link : Nat
  vcs : List Nat
  stalled : Bool
deriving DecidableEq, Repr

/-- A Nymhel link (R267 to R272, R289): STATE 0 out of service, 1 training, 2 in service, 3 refused; DIR 0 unknown, 1 up,
2 down. `txSeq` numbers the last flit sent, `rxSeq` the last received in order; `buf` holds sent flits not acknowledged (number,
EPOCH of the packet, bytes); `peerEpochs` are those of the peer's routing tables; `pkts` numbers packets put on the link;
`tries` counts retries without progress; `credits` per channel; `waiting` the flits not yet sent, oldest first; `owed`
buffers freed while the link was out of service (channel, count). -/
structure Link where
  state : Nat := 0
  dir : Nat := 0
  peerDev : Nat := 0
  peerLevel : Nat := 0
  peerLink : Nat := 0
  peerEpochs : List Nat := []
  retries : Nat := 0
  proterr : Nat := 0
  txSeq : Nat := 0
  rxSeq : Nat := 0
  buf : List (Nat × Nat × List Byte) := []
  tries : Nat := 0
  credits : List Nat := [64, 64, 128, 16, 18]
  waiting : List Wflit := []
  owed : List (Nat × Nat) := []
  partly : List Partly := []
  pkts : Nat := 0
deriving DecidableEq, Repr

/-- Nymhel (13): device number and level, RTCTL's ADDR, the banks, PSTATE, the failing destination, vectors received for
the check, LINKEN, FOLLOW and FMARGIN, the links, packets received and not yet handled (link, channels, bytes), packets
kept in their buffers, packets for this module, and remote FWAITs parked here. -/
structure Nym where
  devnum : Nat := 0
  level : Nat := 0
  rtAddr : Nat := 0
  active : Option Bank := none
  previous : Option Bank := none
  pendingBank : Option Bank := none
  actBank : Nat := 0
  pstate : Nat := 0
  failDest : Nat := 0
  vectors : List (Nat × TableVec) := []
  linken : Nat := 0xFFFFFF
  follow : Bool := false
  fmargin : Nat := 2
  links : Vector Link 24 := Vector.replicate 24 {}
  inbox : List (Nat × List Nat × List Byte) := []
  heldPkts : List HeldPkt := []
  mine : List Packet := []
  parked : List Packet := []
deriving DecidableEq, Repr

/-! ### Ethernet and host queues -/

/-- An Ethernet port (R295, R296): its registers, whether ETHCLK lets it run, and the priorities paused by PFC. -/
structure Port where
  ctl : Nat := 0x10000
  up : Bool := false
  andone : Bool := false
  fecunc : Nat := 0
  dropnr : Nat := 0
  ets : Nat := 0
  ip4 : Nat := 0
  ip6h : Nat := 0
  ip6l : Nat := 0
  mac : Nat := 0
  paused : List Nat := []
deriving DecidableEq, Repr

/-- State of a queue pair (R297). -/
inductive QpState where
  | idle | replied | ready | error
deriving DecidableEq, Repr

/-- What a connection request says of the queue pair that asks (R297): its retry count, traffic class, and the number its packets
start from. (log 88, DEDUCED) -/
structure Caller where
  retry : Nat
  tc : Fin 8
  psn : Nat
deriving DecidableEq, Repr

/-- A queue pair (R297, R298, R306): its state, port, priority (Table 14.1), send rate in Gbit/s, retries left of those agreed, the
sequence numbers of the next packet expected and of the next sent, what was sent and not acknowledged, and the WCLK counter at the
last CNP sent and at the last halving of the rate. -/
structure Qp where
  state : QpState := .idle
  port : Nat := 0
  remote : Nat := 0
  mtu : Nat := 4096
  prio : Nat := 0
  rate : Rat := 200
  retryCnt : Nat := 7
  retries : Nat := 7
  epsn : Nat := 0
  npsn : Nat := 0
  unacked : List (Nat × List Byte) := []
  cnpAt : Option Nat := none
  halvedAt : Option Nat := none
deriving DecidableEq, Repr

/-- A command queue (R301 to R306); `running` counts commands started and not completed; `stopped` after an undeliverable
completion. -/
structure Queue where
  addr : Nat := 0
  log2d : Nat := 4
  haddr : Nat := 0
  rkey : Nat := 0
  clog2d : Nat := 4
  chead : Nat := 0
  ctail : Nat := 0
  cpltail : Nat := 0
  cplhead : Nat := 0
  running : Nat := 0
  stale : Bool := false
  stopped : Bool := false
deriving DecidableEq, Repr

/-- A completion record waiting to be written to a queue's ring (R303, R304, R309, R356): unsolicited or not, and the fault record
that is written before it, with its host address. -/
structure Rec where
  qp : Nat
  cmdid : Nat
  status : Nat
  unsol : Bool
  result : Nat
  info : Nat
  event : Bool
  frec : Option (Nat × List Byte) := none
deriving DecidableEq, Repr

/-- The Ethernet side (14): ports, queue pairs, queues and windows that differ from their reset values, records that
wait for room, and frames that a paused priority of their port holds back. -/
structure Eth where
  ports : Vector Port 4 := Vector.replicate 4 {}
  qps : List (Nat × Qp) := []
  queues : List (Nat × Queue) := []
  wins : List (Nat × (Nat × Nat)) := []
  recs : List Rec := []
  held : List (Nat × Nat × Out) := []
deriving DecidableEq, Repr

/-- A command of the host as it starts (Table 14.11): its path, opcode, flags, CMDID, context, arguments and FREC. -/
structure HostCmd where
  path : Path
  opc : Nat
  flags : Nat
  id : Nat
  ctx : Nat
  args : List Byte
  frec : Nat
deriving DecidableEq, Repr

/-! ### Lantern -/

/-- A mailbox (R307): sixteen data words, FULL, and REFUSED. -/
structure Mailbox where
  data : Vector W32 16 := Vector.replicate 16 0
  full : Bool := false
  refused : Nat := 0
deriving DecidableEq, Repr

/-- Lantern (14, 19, 20): mailboxes, LAN_ALERT, LAN_MCTPVID, telemetry, bivouac mode, the MCTP endpoint and its PLDM
terminus; `stopping` says that the power-down of bivouac entry is not yet complete. -/
structure Lan where
  boxes : Vector Mailbox 32 := Vector.replicate 32 {}
  alert : BitVec 3 := 0
  vid : Nat := 0
  telQp : Nat := 0
  telMs : Nat := 0x3E8
  telEn : Bool := false
  telLost : Nat := 0
  tseq : Nat := 0
  telQueue : List (List Byte) := []
  telPeriodic : Option (List Byte) := none
  bivActive : Bool := false
  bivCause : Nat := 0
  bivCount : Nat := 0
  bivPort : Nat := 0
  bivQset : Nat := 0x3F
  keptPort : Option (Nat × Nat) := none
  stopping : Bool := false
  badVendor : Nat := 0
  eid : Nat := 0
  i3cDyn : Nat := 0
  smbAddr : Nat := 0
  tid : Nat := 0
  evReceiver : Nat := 0
  sensorsOff : List Nat := []
  sensors : List (Nat × Nat) := []
deriving DecidableEq, Repr

/-! ### The Damper -/

/-- A thermal sensor (R343, R384): its trim and its trimmed reading, both in half degrees Celsius, whether it is valid, and
consecutive samples in disagreement and in agreement. -/
structure Sensor where
  trim : Int := 0
  reading : Int := 50
  valid : Bool := true
  differ : Nat := 0
  agree : Nat := 0
deriving DecidableEq, Repr

/-- A compute die under the Damper (R330 to R344): its power, counts and ceilings; `lim` is the droop burst's ceiling and
`follow` the follow-peer policy's, while in force; the target, whether the next higher point's voltage is settling and
loop ticks since its last rise, at most 10; clock stretch; margin in use, base voltages and margin steps (hours,
millivolts) and activity weights; its sensors, its temperature in half degrees, and that of its HBM stack in degrees. -/
structure Die where
  powered : Bool := false
  droops : Nat := 0
  tj : Nat := 0
  nsens : Nat := 0
  op : Nat := 0
  pref : Nat := 0
  capceil : Nat := 0
  thceil : Nat := 0
  folceil : Nat := 0
  limceil : Nat := 0
  lim : Option Nat := none
  follow : Option Nat := none
  target : Nat := 0
  rising : Bool := false
  since : Nat := 0
  stretched : Bool := false
  margin : Nat := 0
  base : List Nat := List.replicate 16 0
  steps : List (Nat × Nat) := []
  weights : List Nat := []
  sensors : Vector Sensor 16 := Vector.replicate 16 {}
  temp : Int := 50
  hbm : Int := 25
deriving DecidableEq, Repr

/-- The Damper (16): DMP_CAP, DMP_STAT, DMP_CAL and DMP_HOURS; issue gating `k` and ticks since it could rise; the raw
estimates since the last measured sample, as sum and count; the calibrated estimates of the last 1 ms; the measured
samples of the last 100 ms (millivolts, milliamperes, raw estimate); the dies, and the hub die's sensors. -/
structure Dmp where
  cap : Nat := 0x9C4
  pwrbrk : Bool := false
  vtfall : Bool := false
  calhold : Bool := false
  measw : Nat := 0
  estw : Nat := 0
  vin : Nat := 0
  gain : Nat := 0x4000
  offset : Int := 0
  hours : Nat := 0
  gate : Nat := 16
  gateWait : Nat := 0
  rawSum : Nat := 0
  rawCount : Nat := 0
  ests : List Int := []
  window : List (Nat × Nat × Nat) := []
  dies : Vector Die 8 := Vector.replicate 8 {}
  hub : Vector Sensor 16 := Vector.replicate 16 {}
deriving DecidableEq, Repr

/-! ### Video engines -/

/-- A submit (R354): the command, its frame record or none, buffer, length, RELEASE and READY. -/
structure Submit where
  cmd : CmdRef
  stream : Nat
  frame : Nat
  buf : Nat
  len : Nat
  ready : Nat
  readyVal : Nat
  age : Option Nat
deriving DecidableEq, Repr

/-- A stream (R353): its partition, parameter block, pool, what the host holds and what is needed as a reference, its
frame count, its last decoded picture, and its submits in order; the pool's records as they were checked, the units or frames it has
taken, and the number of the picture in each pool entry. -/
structure Stream where
  part : Nat
  block : List Byte
  pool : List Nat
  held : List Nat
  refs : List Nat
  frames : Nat
  outseq : Nat
  lastPic : Option Nat
  subs : List Submit
  recs : List (List Byte) := []
  fed : List (List Nat) := []
  pics : List (Nat × Nat) := []
deriving DecidableEq, Repr

/-- A frame in progress: its submit, the pool entry chosen, bytes written or rows completed; `full` says that its bitstream
would have passed the end of its buffer (R356); its unit's bytes, or its size and samples; slices written, its height, whether a sample
was limited (R352), and the fault of a write that was refused, 0 for none. -/
structure Running where
  sub : Submit
  entry : Option Nat
  progress : Nat
  full : Bool := false
  data : List Nat := []
  slices : Nat := 0
  height : Nat := 0
  clamped : Bool := false
  denied : Nat := 0
deriving DecidableEq, Repr

/-- A video engine (17): streams by context index, the frame in progress, the stream whose state is loaded, WDOG. -/
structure Engine where
  streams : List (Nat × Stream) := []
  run : Option Running := none
  loaded : Option Nat := none
  cur : Nat := 0
  wdog : Nat := 0
  ages : Nat := 0
deriving DecidableEq, Repr

/-! ### Boot and identity -/

/-- What a valid boot directory copy holds (R367). -/
structure BootDir where
  seq : Nat
  dflt : Nat
  tryS : Nat
deriving DecidableEq, Repr

/-- The voltage test image (R331) as carrier flash holds it: its bytes, its key and signature, and what they hold by die: base
voltages, margin steps, activity weights. The spec does not give its layout. (log 91, DESIGN CHOICE) -/
structure TestImage where
  bytes : List Byte := []
  key : List Byte := []
  sig : List Byte := []
  base : List (List Nat) := []
  steps : List (List (Nat × Nat)) := []
  weights : List (List Nat) := []
deriving DecidableEq, Repr

/-- The carrier flash (Table 18.1): the copies of the boot directory, the rollback region, the staging region and the firmware slots
with their bytes, and the carrier data: test image, PUF helper data, device number, MAC addresses, vendor number, certificate
chain. `hours` and `bootn` lie in the wear-levelled region, and so does `remade`: the boot ROM re-established a rollback record
that no boot has yet recorded (R370; log 34, DEDUCED). -/
structure Flash where
  dirA : List Byte := []
  dirB : List Byte := []
  rollback : Option (List Byte) := none
  staged : Option (List Byte) := none
  slots : List (Nat × List Byte) := []
  test : TestImage := {}
  helper : List Byte := []
  devnum : Nat := 0
  macs : List Nat := [0, 0, 0, 0]
  vendor : Nat := 0
  chain : List Byte := []
  hours : Nat := 0
  bootn : Nat := 0
  remade : Bool := false
deriving DecidableEq, Repr

/-- The silicon's own constants: the mask ROM's vendor key hash, its digest and its generic activity weights, and the power-up state of
the root-of-trust block's SRAM (R331, R366, R372, R373). -/
structure Silicon where
  keyHash : List Byte := List.replicate 32 0
  romDigest : List Byte := List.replicate 32 0
  weights : List Nat := []
  sram : List Byte := []
deriving DecidableEq, Repr

/-- Boot (18): STAGE and the other fields of SEC_BOOTSTAT and SEC_VERS, M0 to M7, the seed of the device key while the
root-of-trust block holds it, whether the regions are locked, the report number, faults found and not yet journalled (by the boot
ROM or by Lantern, code, DETAIL), whether the boot entry is written, whether the device number was loaded since RESET_N, whether
Lantern restarts, and an activate command after whose completion it is to restart. -/
structure Sec where
  stage : Nat := 0
  trial : Bool := false
  idok : Bool := false
  fallback : Bool := false
  slot : Nat := 0
  minsec : Nat := 0
  secver : Nat := 0
  meas : Vector (List Byte) 8 := Vector.replicate 8 (List.replicate 32 0)
  seed : Option (List Byte) := none
  locked : Bool := false
  rseq : Nat := 0
  found : List (Bool × Nat × List Byte) := []
  journalled : Bool := false
  loaded : Bool := false
  restart : Bool := false
  wantRestart : Option CmdRef := none
deriving DecidableEq, Repr

/-! ### Board -/

/-- Instructions of the TAP (R416). -/
inductive TapIns where
  | reset | bypass | idcode | sample | extest | extestPulse | extestTrain
deriving DecidableEq, Repr

/-- The board's view (20): input present and its switch opened by overvoltage, the standby island, PWR_EN accepted; `wantOn`
an accepted PWR_EN that waits for the island or the minimum off time `offTime`; power on, rails, PGOOD, and whether 1 ms has
passed since it rose (`settled`); RESET_N deasserted, or its deassertion held inside; the three clocks, Lantern on its internal oscillator;
PWRBRK_N raw low and asserted after its filter, LAN_PINSTAT's count, ration periods since it was asserted (R393); latched
THERMTRIP_N, core and HBM power, the TAP's instruction, and the MOD_ID straps. -/
structure Board where
  input : Bool := true
  overvolt : Bool := false
  island : Bool := true
  pwrEn : Bool := false
  wantOn : Bool := false
  offTime : Bool := false
  on : Bool := false
  rails : Bool := false
  pgood : Bool := false
  settled : Bool := false
  resetN : Bool := false
  heldReset : Bool := false
  refclk : Bool := true
  mgtclk : Bool := true
  ethclk : Bool := true
  intOsc : Bool := false
  rawPwrbrk : Bool := false
  brk : Bool := false
  pbtrans : Nat := 0
  brkPeriods : Nat := 0
  thermtrip : Bool := false
  corePower : Bool := false
  hbmPower : Bool := false
  tap : TapIns := .reset
  modId : Nat := 0
deriving DecidableEq, Repr

/-! ### Background -/

/-- Background work (19): MEM_SCRUB, regions still to be cleared after a rebinding (class, region, next word), the
temperature at each unit's last full retrain, and the units whose training failed. -/
structure Bg where
  sramMin : Nat := 0x3C
  lpH : Nat := 0x18
  hbmH : Nat := 0x18
  clearing : List (Nat × Nat × Nat) := []
  trained : List (Nat × Int) := []
deriving DecidableEq, Repr

/-! ### Commands being carried out -/

/-- A binding command accepted and not complete (R25, R315): its command, its new owners (class, unit, code), whether it
still waits for collectives on its links (R27), and ARGS bytes 0–31 for its journal entry. -/
structure Rebind where
  cmd : CmdRef
  units : List (Nat × Nat × Nat)
  linkWait : Bool
  args : List Byte
deriving DecidableEq, Repr

/-! ### Inputs -/

/-- A strand: its context and strand index (R85). -/
structure StrandId where
  ctx : Fin 1024
  idx : Fin 128
deriving DecidableEq, Repr

/-- An instruction of a pack whose operands the container makes static (R96): its offset in the code region, the scalar
registers known with their values, and the descriptor registers known with the offset in the pack of what each holds; for
ATTN a bound of LEN (R218), for AOPEN the grains of its part, with whether the last is pushed (R149). (log 25, DESIGN CHOICE) -/
structure StaticUse where
  off : Nat
  regs : List (Nat × Nat)
  descs : List (Nat × Nat)
  len : Option Nat := none
  part : Option (Nat × Bool) := none
deriving DecidableEq, Repr

/-- What a loader reads in an Iarex pack (R115, R145, R191, R317): the spec does not give the container's layout, so where
things lie in it is an input (log 25, DESIGN CHOICE); what they hold is read from the pack. Offsets are from the pack's address:
of the code region, of each entry point (with its ACMALLOC and the table image of each slot), of the function-table images,
of the descriptors, each with that of its parameter descriptor, and of the recipe parameter blocks. -/
structure PackFacts where
  major : Nat
  minor : Nat
  vlen : Nat
  grainLog2 : Nat
  caps : Nat
  codeOff : Nat
  codeLen : Nat
  entries : List (Nat × Nat × List (Option Nat))
  tables : List Nat
  descs : List (Nat × Option Nat)
  uses : List StaticUse
  blocks : List Nat := []
deriving DecidableEq, Repr

/-- The kinds of Ethernet frame that Table 14.1 tells apart (R295, R298), and of RoCE packets the request, the acknowledgement up to
a sequence number, and the NAK that asks for packets again from one on, RNR or for a sequence error (R306). -/
inductive FrameKind where
  | roce (qp : Nat) (psn : Nat) (marked : Bool)
  | ack (qp : Nat) (psn : Nat) (marked : Bool)
  | again (qp : Nat) (psn : Nat) (rnr : Bool)
  | roceBad (qp : Nat)
  | arp (ip : Nat)
  | neighbour (ip : Nat)
  | echo (v6 : Bool) (ip : Nat)
  | pfc (prio : List Nat)
  | fecBad
  | other
deriving DecidableEq, Repr

end Sys2Proof.Machine
end

