-- ==== Sys2Proof/Syntax.lean ====
section
/-!
DEFINITION. The commands of the block, one constructor per row of the opcode table: the strand instructions, each with the
strand it belongs to and its instruction word; the commands of hosts and management; and the events of the hardware. (log 2, DESIGN CHOICE; log 64, DESIGN CHOICE) -/
namespace Sys2Proof
open Sys2Proof.Machine

/-- The commands (opcode_table.json). -/
inductive Instr where
  -- Scalar and control (05)
  | nop (t : StrandId) (b : Body)
  | salu (t : StrandId) (b : Body)
  | salui (t : StrandId) (b : Body)
  | scmp (t : StrandId) (b : Body)
  | scmpi (t : StrandId) (b : Body)
  | plog (t : StrandId) (b : Body)
  | smovi (t : StrandId) (b : Body)
  | sld (t : StrandId) (b : Body)
  | sst (t : StrandId) (b : Body)
  | br (t : StrandId) (b : Body)
  | call (t : StrandId) (b : Body)
  | bri (t : StrandId) (b : Body)
  | endStrand (t : StrandId) (b : Body)
  -- Vectors and row units (05, 08)
  | valu (t : StrandId) (b : Body)
  | vfma (t : StrandId) (b : Body)
  | vcmp (t : StrandId) (b : Body)
  | vsel (t : StrandId) (b : Body)
  | vred (t : StrandId) (b : Body)
  | vperm (t : StrandId) (b : Body)
  | vbcast (t : StrandId) (b : Body)
  | vmovs (t : StrandId) (b : Body)
  | vexp2 (t : StrandId) (b : Body)
  | vlog2 (t : StrandId) (b : Body)
  | vtab (t : StrandId) (b : Body)
  | vstat (t : StrandId) (b : Body)
  | vld (t : StrandId) (b : Body)
  | vst (t : StrandId) (b : Body)
  | vtrd (t : StrandId) (b : Body)
  | vtwr (t : StrandId) (b : Body)
  -- Descriptors and tiles (05)
  | dld (t : StrandId) (b : Body)
  | dst (t : StrandId) (b : Body)
  | dset (t : StrandId) (b : Body)
  | dget (t : StrandId) (b : Body)
  | tld (t : StrandId) (b : Body)
  | tst (t : StrandId) (b : Body)
  -- Accumulations and matrix instructions (03, 05)
  | aopen (t : StrandId) (b : Body)
  | mma (t : StrandId) (b : Body)
  | mconv (t : StrandId) (b : Body)
  | afin (t : StrandId) (b : Body)
  | aexp (t : StrandId) (b : Body)
  | aimp (t : StrandId) (b : Body)
  | gred (t : StrandId) (b : Body)
  | nanTrapRecord (k : Fin 1024)
  -- Ladle, recipes and attention (06 to 09)
  | gemm (t : StrandId) (b : Body)
  | convolve (t : StrandId) (b : Body)
  | bgemm (t : StrandId) (b : Body)
  | attn (t : StrandId) (b : Body)
  | rapply (t : StrandId) (b : Body)
  | panelArrival (t : StrandId) (data : List Byte)
  | splitKFlagReady (t : StrandId)
  | arriveFlagReady (t : StrandId)
  | ptpub (t : StrandId) (b : Body)
  | kvput (t : StrandId) (b : Body)
  | msum (t : StrandId) (b : Body)
  | bsort (t : StrandId) (b : Body)
  | walkBegin (t : StrandId) (obj : W64)
  -- Tinder, sampling, compression (10, 11)
  | tndw (t : StrandId) (b : Body)
  | tndu (t : StrandId) (b : Body)
  | tndn (t : StrandId) (b : Body)
  | tfill (t : StrandId) (b : Body)
  | sample (t : StrandId) (b : Body)
  | samplerFaultDetected (d : Fin 8) (t : Option (StrandId × Body))
  | samplerSelftestComplete (d : Fin 8) (pass : Bool)
  | powerOnSelftestComplete (d : Fin 8) (pass : Bool)
  | press (t : StrandId) (b : Body)
  | phist (t : StrandId) (b : Body)
  | tgen (t : StrandId) (b : Body)
  | tgenDrainComplete (t : StrandId)
  | decodeRequestAccept (t : StrandId) (d : Fin 16) (n : Nat)
  | blockDelivered
  -- Collectives and expert traffic (13)
  | coll (t : StrandId) (b : Body)
  | collectiveComplete (t : StrandId) (peers : List Peer)
  | memb (t : StrandId) (b : Body)
  | membWaitComplete (t : StrandId)
  | rput (t : StrandId) (b : Body)
  | xdisp (t : StrandId) (b : Body)
  | xcomb (t : StrandId) (b : Body)
  -- Synchronisation and system (04, 05)
  | fset (t : StrandId) (b : Body)
  | fadd (t : StrandId) (b : Body)
  | fcas (t : StrandId) (b : Body)
  | fwait (t : StrandId) (b : Body)
  | fwaitSatisfied (t : StrandId)
  | bar (t : StrandId) (b : Body)
  | barrierComplete (t : StrandId)
  | fence (t : StrandId) (b : Body)
  | ophint (t : StrandId) (b : Body)
  | ccnt (t : StrandId) (b : Body)
  | caprd (t : StrandId) (b : Body)
  | rgrd (t : StrandId) (b : Body)
  | rgwr (t : StrandId) (b : Body)
  | yield (t : StrandId) (b : Body)
  -- Remote accesses (13)
  | startAdmission (d : Fin 8)
  | remoteAccessReceived
  | remoteResponseReceived
  | remoteFwaitAnswer (n : Nat)
  -- Host commands (14 to 19)
  | nopCommand (h : HostCmd)
  | regrd (h : HostCmd)
  | regwr (h : HostCmd)
  | packLoad (h : HostCmd) (f : PackFacts)
  | contextCreate (h : HostCmd)
  | discard (h : HostCmd)
  | launch (h : HostCmd)
  | launchStart (k : Fin 1024)
  | resume (h : HostCmd)
  | saveContext (h : HostCmd)
  | restoreContext (h : HostCmd)
  | binding (h : HostCmd)
  | bindingComplete
  | linkRebindAbort
  | rationSet (h : HostCmd)
  | partitionMode (h : HostCmd)
  | videoStreamOpen (h : HostCmd)
  | videoStreamClose (h : HostCmd)
  | submit (h : HostCmd)
  | frameStart (e : Fin 4)
  | sliceComplete (e : Fin 4) (slice : Nat)
  | decodeRowComplete (e : Fin 4) (rows : Nat)
  | frameComplete (e : Fin 4) (stream : Fin 256)
  | videoWatchdog (e : Fin 4) (stream : Fin 256)
  | firmwareStage (h : HostCmd) (erased : Bool) (written : Bool)
  | firmwareActivate (h : HostCmd)
  | lanternRestart
  | attestationReport (h : HostCmd)
  | bivouacExit (h : HostCmd) (cause : Option (Fin 8))
  -- Queues, RoCE, ports, mailboxes, management (14)
  | doorbellCmdtail (qp : Fin 4096) (n : Fin 4096) (v : W64)
  | doorbellCplhead (qp : Fin 4096) (n : Fin 4096) (v : W64)
  | commandEntryRead (n : Fin 4096)
  | staleEntryReread (n : Fin 4096)
  | completionRecordWrite (n : Fin 4096)
  | queueConfigWrite (p : Path) (n : Fin 4096) (reg : Fin 3) (v : W64)
  | rdmaWriteReceived (qp : Fin 4096) (va : W64) (rkey : W32) (data : List Byte)
  | rdmaReadReceived (qp : Fin 4096) (va : W64) (rkey : W32) (len : Nat)
  | cnpReceived (qp : Fin 4096)
  | rateIncrease (qp : Fin 4096)
  | req (port : Fin 4) (service : W64) (remote : Nat) (mtu : Nat) (peer : Caller)
  | rtu (qp : Fin 4096)
  | dreq (qp : Fin 4096)
  | rej (qp : Fin 4096)
  | rdmaRetryExhausted (qp : Fin 4096)
  | frameReceived (port : Fin 4) (f : FrameKind)
  | portUp (port : Fin 4)
  | portctlWrite (p : Path) (port : Fin 4) (v : W64)
  | mailboxDataWrite (p : Path) (m : Fin 32) (off : Nat) (data : List Byte)
  | mailboxSend (p : Path) (m : Fin 32) (v : W32)
  | mailboxTake (p : Path) (m : Fin 32)
  | mctpVendorMessage (i3c : Bool) (addr : Nat) (vid : W32) (entry : List Byte)
  | setEndpointId (i3c : Bool) (addr : Nat) (eid : Byte)
  | getEndpointId (i3c : Bool) (addr : Nat)
  | getMctpVersionSupport (i3c : Bool) (addr : Nat) (typ : Byte)
  | getMessageTypeSupport (i3c : Bool) (addr : Nat)
  | getEndpointUuid (i3c : Bool) (addr : Nat)
  | getTid (i3c : Bool) (addr : Nat)
  | getPldmVersion (i3c : Bool) (addr : Nat) (typ : Byte)
  | getPldmTypes (i3c : Bool) (addr : Nat)
  | getPldmCommands (i3c : Bool) (addr : Nat) (typ : Byte)
  | getPdrRepositoryInfo (i3c : Bool) (addr : Nat)
  | getPdr (i3c : Bool) (addr : Nat) (handle : W32)
  | getSensorReading (i3c : Bool) (addr : Nat) (sensor : Nat)
  | getStateSensorReadings (i3c : Bool) (addr : Nat) (sensor : Nat)
  | setNumericSensorEnable (i3c : Bool) (addr : Nat) (sensor : Nat) (on : Bool)
  | setEventReceiver (i3c : Bool) (addr : Nat) (eid : Byte)
  -- Register writes with rows of their own
  | registerWrite (p : Path) (addr : W64) (size : Nat) (v : W64)
  | fpflagsClear (p : Path) (slot : Fin 16) (v : W64)
  | numctlWrite (p : Path) (slot : Fin 16) (v : W64)
  | histctlClr (p : Path) (slot : Fin 16) (set : Fin 4) (v : W64)
  | fitstatClr (p : Path) (slot : Fin 16) (v : W64)
  | rcpstatClr (p : Path) (slot : Fin 16) (v : W64)
  | fltringWrite (p : Path) (slot : Fin 16) (v : W64)
  | tailWrite (p : Path) (slot : Fin 16) (v : W64)
  | ecccntClr (p : Path) (unit : Fin 64) (v : W64)
  | lanAlertClear (p : Path) (v : W64)
  | samplerTest (p : Path) (d : Fin 8) (v : W64)
  | hbmmapWrite (p : Path) (v : W64)
  | slotpartWrite (p : Path) (v : W64)
  | saveWindowAccess (p : Path) (addr : W64) (write : Option (List Byte)) (len : Nat)
  | devnumWrite (p : Path) (v : W64)
  | routingLoad (p : Path) (v : W64)
  | routingCheckComplete
  | routingVectorTimeout (link : Fin 24)
  | routingActivate (p : Path) (v : W64)
  | routingRetire (p : Path) (v : W64)
  | stallAbort (p : Path) (v : W64)
  | capWrite (p : Path) (v : W64)
  -- Nymhel links, routing and collectives (13)
  | linkTrained (link : Fin 24) (peerDev : Nat) (peerLevel : Nat) (peerLink : PeerLink)
  | flitReceived (link : Fin 24) (flit : List Byte) (fecBad : Bool)
  | retryRequestReceived (link : Fin 24) (seq : Nat)
  | linkRetrain (link : Fin 24)
  | escapeMove (link : Fin 24)
  | packetReceived
  | tableVectorReceived (link : Fin 24) (vec : TableVec)
  | keepalive (k : Fin 1024)
  | memberLost (k : Fin 1024) (rank : Nat) (code : Fin 6)
  | abortReceived (k : Fin 1024) (status : W64)
  | transferStalled (t : StrandId)
  | followCeiling (op : Fin 16)
  | followRelease
  -- Scheduling (15)
  | rationPeriodBoundary
  | preemptionPointReached (k : Fin 1024)
  | contextSaveComplete (k : Fin 1024)
  | contextRestoreComplete (k : Fin 1024)
  -- Background work (19)
  | scrubRead (addr : W64)
  | regionClearWrite
  | memoryRetrain (unit : Fin 64) (temp : Int)
  | sensorTrim (die : Fin 9) (sensor : Fin 16) (delta : Int)
  | journalFlashCopy
  | telemetryPeriodic
  -- Power and thermal (16)
  | estimateLoopTick
  | voltageSettled (d : Fin 8)
  | measuredSample (mv : Nat) (ma : Nat)
  | calibrationFit
  | powerExcessAlert
  | powerExcessPersistent
  | droopDetected (d : Fin 8) (count : Nat)
  | droopRecovered (d : Fin 8)
  | droopLimitExpiry (d : Fin 8)
  | sensorSample (die : Fin 9) (readings : List Int) (hbm : Int)
  | thermalCeilingStep (d : Fin 8)
  | thermalPersistent (d : Fin 8)
  | thermtrip
  | hoursTick
  -- Bivouac causes (19)
  | inputRailOutOfRange
  | computeDieLost (d : Fin 8)
  | memoryTrainingFailed (unit : Fin 24)
  | hubUncorrectableError
  | lanternWatchdogRestart (third : Bool)
  | bivouacPowerDownComplete
  -- Reset, boot and board (18, 20)
  | resetNAssert
  | resetNDeassert
  | bootStageAdvance
  | trialWatchdog
  | pwrEnAssert
  | railsGood
  | pwrEnDeassert
  | pwrbrkAssert
  | pwrbrkRelease
  | standbyStart
  | standbyStop
  | inputOvervoltage
  | refclkLoss
  | mgtclkLoss
  | ethclkLoss
  | bypass
  | idcode
  | samplePreload
  | extest
  | extestPulse
  | extestTrain
  | uartRxByte (byte : Byte)
  | rawPwrbrkNEdge (low : Bool)
  | heldResetNRelease
  | minimumOffTimeElapsed
  | inputSwitchClosure
  | ethclkReturn
  | mgtclkReturn
  | refclkReturn
  | pcsAlignmentLost (port : Fin 4)
  | ackTimeout (qp : Fin 4096)
  | pfcPauseExpiry (port : Fin 4) (prio : Fin 8)
  | pldmSensorUpdate (values : List (Nat × Nat)) (crossed : List Nat)
  | dynamicAddressAssignment (addr : Nat)
  | memorySymbolError (addr : W64) (sym : Option (Fin 68)) (flip : Byte)
deriving DecidableEq, Repr

end Sys2Proof
end

