-- ==== Sys2Proof/WellFormed.lean ====
section
/-!
DEFINITION. Well-formed commands: the sizes the spec gives to the parts of a command that are lists or numbers.
-/
namespace Sys2Proof
open Sys2Proof.Machine

/-- A path names an existing queue pair, mailbox or 7-bit bus address (R297, R302, Table 14.16). -/
def wfPath (p : Path) : Bool :=
  match p with
  | .roce qp => qp < 4096
  | .mailbox n => n < 16
  | .mctp _ a => a < 128

/-- A host command has 48 argument bytes and fields of the widths of Table 14.11. -/
def wfHost (h : HostCmd) : Bool :=
  wfPath h.path && h.args.length == 48 && h.opc < 65536 && h.flags < 256 && h.id < 65536 && h.ctx < 65536 && h.frec < 2 ^ 64

/-- A packet's parts fit its head (Table 13.3). -/
def wfVec (v : TableVec) : Bool :=
  v.epoch < 65536 && v.dirs.length == 24 && v.dirs.all (· ≤ 2) && v.entries.all (fun e => e.1 < 65536 && e.2.1 < 32 && e.2.2 < 65536)

/-- Well-formed commands. -/
def wellFormed (i : Instr) : Bool :=
  match i with
  | .panelArrival _ data => data.length ≤ 2 ^ 31
  | .nopCommand h | .regrd h | .regwr h | .packLoad h _ | .contextCreate h | .discard h | .launch h | .resume h
  | .saveContext h | .restoreContext h | .binding h | .rationSet h | .partitionMode h | .videoStreamOpen h
  | .videoStreamClose h | .submit h | .firmwareStage h _ _ | .firmwareActivate h | .attestationReport h
  | .bivouacExit h _ => wfHost h
  | .flitReceived _ f _ => f.length == 256
  | .tableVectorReceived _ v => wfVec v
  | .linkTrained _ d l n => d < 65536 && l < 256 && n.link < 32 && n.epochs.all (· < 65536)
  | .retryRequestReceived _ q => q < 65536
  | .rdmaWriteReceived _ _ _ data => data.length ≤ 2 ^ 31
  | .rdmaReadReceived _ _ _ n => n ≤ 2 ^ 31
  | .mctpVendorMessage _ a _ e => a < 128 && e.length == 64
  | .mailboxDataWrite p _ off data => wfPath p && off < 4096 && data.length ≤ 64
  | .mailboxSend p _ _ | .mailboxTake p _ => wfPath p
  | .registerWrite p _ n _ => wfPath p && n ≤ 8
  | .sensorSample _ rs _ => rs.length == 16
  | .decodeRequestAccept _ _ i => i < 2 ^ 32
  | _ => true

end Sys2Proof
end

