-- ==== Sys2Proof/Decode.lean ====
section
/-!
DEFINITION. The table gives no row a bit, so no word of it spells a command; and the 128-bit instruction words of strands
(05, R118): OPCODE in bits [7:0], the body in bits [127:8], with their encoding.
-/
namespace Sys2Proof
open Sys2Proof.Machine

/-- The command a word of the table spells: the table gives bits to no row. -/
def decodeTableWord (_nbits _w : Nat) : Option Instr := none

/-- The instruction of an opcode for strand `t` with a body (Tables 5.7, 5.11, 5.14, 5.16, 5.19, 5.21); none for a reserved
opcode, which faults with 0x0406 (R125). (log 62, DEDUCED) -/
def instrOf (t : StrandId) (b : Body) (op : Nat) : Option Instr :=
  match op with
  | 0x00 => some (.nop t b)
  | 0x01 => some (.salu t b)
  | 0x02 => some (.salui t b)
  | 0x03 => some (.scmp t b)
  | 0x04 => some (.scmpi t b)
  | 0x05 => some (.plog t b)
  | 0x06 => some (.smovi t b)
  | 0x07 => some (.sld t b)
  | 0x08 => some (.sst t b)
  | 0x10 => some (.br t b)
  | 0x11 => some (.call t b)
  | 0x12 => some (.bri t b)
  | 0x13 => some (.endStrand t b)
  | 0x20 => some (.valu t b)
  | 0x21 => some (.vfma t b)
  | 0x22 => some (.vcmp t b)
  | 0x23 => some (.vsel t b)
  | 0x24 => some (.vred t b)
  | 0x25 => some (.vperm t b)
  | 0x26 => some (.vbcast t b)
  | 0x27 => some (.vmovs t b)
  | 0x28 => some (.vexp2 t b)
  | 0x29 => some (.vlog2 t b)
  | 0x2A => some (.vtab t b)
  | 0x2B => some (.vstat t b)
  | 0x30 => some (.vld t b)
  | 0x31 => some (.vst t b)
  | 0x32 => some (.vtrd t b)
  | 0x33 => some (.vtwr t b)
  | 0x40 => some (.dld t b)
  | 0x41 => some (.dst t b)
  | 0x42 => some (.dset t b)
  | 0x43 => some (.dget t b)
  | 0x44 => some (.tld t b)
  | 0x45 => some (.tst t b)
  | 0x50 => some (.aopen t b)
  | 0x51 => some (.mma t b)
  | 0x52 => some (.mconv t b)
  | 0x53 => some (.afin t b)
  | 0x54 => some (.aexp t b)
  | 0x55 => some (.aimp t b)
  | 0x56 => some (.gred t b)
  | 0x60 => some (.gemm t b)
  | 0x61 => some (.convolve t b)
  | 0x63 => some (.bgemm t b)
  | 0x62 => some (.attn t b)
  | 0x68 => some (.rapply t b)
  | 0x70 => some (.ptpub t b)
  | 0x71 => some (.kvput t b)
  | 0x72 => some (.msum t b)
  | 0x73 => some (.bsort t b)
  | 0x78 => some (.tndw t b)
  | 0x79 => some (.tndu t b)
  | 0x7A => some (.tndn t b)
  | 0x7B => some (.tfill t b)
  | 0x7C => some (.sample t b)
  | 0x80 => some (.press t b)
  | 0x81 => some (.phist t b)
  | 0x82 => some (.tgen t b)
  | 0x88 => some (.coll t b)
  | 0x89 => some (.memb t b)
  | 0x8A => some (.rput t b)
  | 0x8B => some (.xdisp t b)
  | 0x8C => some (.xcomb t b)
  | 0xA0 => some (.fset t b)
  | 0xA1 => some (.fadd t b)
  | 0xA2 => some (.fcas t b)
  | 0xA3 => some (.fwait t b)
  | 0xA4 => some (.bar t b)
  | 0xA5 => some (.fence t b)
  | 0xB0 => some (.ophint t b)
  | 0xC0 => some (.ccnt t b)
  | 0xC1 => some (.caprd t b)
  | 0xC2 => some (.rgrd t b)
  | 0xC3 => some (.rgwr t b)
  | 0xC4 => some (.yield t b)
  | _ => none

/-- The instruction that a 128-bit word spells for strand `t` (R118). (log 62, DEDUCED) -/
def decodeIns (t : StrandId) (w : BitVec 128) : Option Instr := instrOf t (w.extractLsb' 8 120) (w.extractLsb' 0 8).toNat

/-- The strand, the opcode and the body of an instruction; none for a command that is no instruction of a strand. -/
def insParts (i : Instr) : Option (StrandId × BitVec 8 × Body) :=
  match i with
  | .nop t b => some (t, 0x00, b)
  | .salu t b => some (t, 0x01, b)
  | .salui t b => some (t, 0x02, b)
  | .scmp t b => some (t, 0x03, b)
  | .scmpi t b => some (t, 0x04, b)
  | .plog t b => some (t, 0x05, b)
  | .smovi t b => some (t, 0x06, b)
  | .sld t b => some (t, 0x07, b)
  | .sst t b => some (t, 0x08, b)
  | .br t b => some (t, 0x10, b)
  | .call t b => some (t, 0x11, b)
  | .bri t b => some (t, 0x12, b)
  | .endStrand t b => some (t, 0x13, b)
  | .valu t b => some (t, 0x20, b)
  | .vfma t b => some (t, 0x21, b)
  | .vcmp t b => some (t, 0x22, b)
  | .vsel t b => some (t, 0x23, b)
  | .vred t b => some (t, 0x24, b)
  | .vperm t b => some (t, 0x25, b)
  | .vbcast t b => some (t, 0x26, b)
  | .vmovs t b => some (t, 0x27, b)
  | .vexp2 t b => some (t, 0x28, b)
  | .vlog2 t b => some (t, 0x29, b)
  | .vtab t b => some (t, 0x2A, b)
  | .vstat t b => some (t, 0x2B, b)
  | .vld t b => some (t, 0x30, b)
  | .vst t b => some (t, 0x31, b)
  | .vtrd t b => some (t, 0x32, b)
  | .vtwr t b => some (t, 0x33, b)
  | .dld t b => some (t, 0x40, b)
  | .dst t b => some (t, 0x41, b)
  | .dset t b => some (t, 0x42, b)
  | .dget t b => some (t, 0x43, b)
  | .tld t b => some (t, 0x44, b)
  | .tst t b => some (t, 0x45, b)
  | .aopen t b => some (t, 0x50, b)
  | .mma t b => some (t, 0x51, b)
  | .mconv t b => some (t, 0x52, b)
  | .afin t b => some (t, 0x53, b)
  | .aexp t b => some (t, 0x54, b)
  | .aimp t b => some (t, 0x55, b)
  | .gred t b => some (t, 0x56, b)
  | .gemm t b => some (t, 0x60, b)
  | .convolve t b => some (t, 0x61, b)
  | .bgemm t b => some (t, 0x63, b)
  | .attn t b => some (t, 0x62, b)
  | .rapply t b => some (t, 0x68, b)
  | .ptpub t b => some (t, 0x70, b)
  | .kvput t b => some (t, 0x71, b)
  | .msum t b => some (t, 0x72, b)
  | .bsort t b => some (t, 0x73, b)
  | .tndw t b => some (t, 0x78, b)
  | .tndu t b => some (t, 0x79, b)
  | .tndn t b => some (t, 0x7A, b)
  | .tfill t b => some (t, 0x7B, b)
  | .sample t b => some (t, 0x7C, b)
  | .press t b => some (t, 0x80, b)
  | .phist t b => some (t, 0x81, b)
  | .tgen t b => some (t, 0x82, b)
  | .coll t b => some (t, 0x88, b)
  | .memb t b => some (t, 0x89, b)
  | .rput t b => some (t, 0x8A, b)
  | .xdisp t b => some (t, 0x8B, b)
  | .xcomb t b => some (t, 0x8C, b)
  | .fset t b => some (t, 0xA0, b)
  | .fadd t b => some (t, 0xA1, b)
  | .fcas t b => some (t, 0xA2, b)
  | .fwait t b => some (t, 0xA3, b)
  | .bar t b => some (t, 0xA4, b)
  | .fence t b => some (t, 0xA5, b)
  | .ophint t b => some (t, 0xB0, b)
  | .ccnt t b => some (t, 0xC0, b)
  | .caprd t b => some (t, 0xC1, b)
  | .rgrd t b => some (t, 0xC2, b)
  | .rgwr t b => some (t, 0xC3, b)
  | .yield t b => some (t, 0xC4, b)
  | _ => none

/-- The 128-bit word of an instruction (R118). -/
def encodeIns (i : Instr) : Option (BitVec 128) := (insParts i).map (fun p => p.2.2 ++ p.2.1)

end Sys2Proof
end

