-- ==== Sys2Proof/Machine/MlDsa.lean ====
section
/-!
DEFINITION. ML-DSA-44 of FIPS 204, pure mode with an empty context string (R366, R372): key pairs from a seed, deterministic
signatures, verification. Polynomials are lists of 256 coefficients; the transform is written as the evaluation it is.
-/
namespace Sys2Proof.Machine

/-! ### The ring -/

/-- The modulus q. -/
def mlQ : Int := 8380417

/-- The least residue of `r` modulo `m` in absolute value (mod±). -/
def centred (m r : Int) : Int := if m < 2 * (r % m) then r % m - m else r % m

/-- A power of ζ = 1753, a root of unity of order 512. -/
def zeta : Nat → Int
  | 0 => 1
  | e + 1 => 1753 * zeta e % mlQ

/-- The eight bits of `i` in reverse order. -/
def brv (i : Nat) : Nat := (List.range 8).foldl (fun a k => 2 * a + i / 2 ^ k % 2) 0

/-- The value of a polynomial at `x`. -/
def evalAt (x : Int) (p : List Int) : Int := p.foldr (fun a v => (a + x * v) % mlQ) 0

/-- NTT: the values at the odd powers of ζ, in bit-reversed order. -/
def ntt (p : List Int) : List Int := (List.range 256).map (fun i => evalAt (zeta (2 * brv i + 1)) p)

/-- Its inverse; 8347681 is the inverse of 256. -/
def unNtt (p : List Int) : List Int :=
  let q := (List.range 256).map (fun b => p.getD (brv b) 0)
  (List.range 256).map (fun j => 8347681 * (zeta ((512 - j) % 512) * evalAt (zeta ((1024 - 2 * j) % 512)) q) % mlQ)

/-- Sum, difference and, under the transform, product of polynomials. -/
def pAdd (a b : List Int) : List Int := List.zipWith (fun x y => (x + y) % mlQ) a b
def pSub (a b : List Int) : List Int := List.zipWith (fun x y => (x - y) % mlQ) a b
def pMul (a b : List Int) : List Int := List.zipWith (fun x y => x * y % mlQ) a b

/-- A matrix of transforms times a vector of transforms. -/
def matVec (m : List (List (List Int))) (v : List (List Int)) : List (List Int) :=
  m.map (fun row => (List.zipWith pMul row v).foldl pAdd (List.replicate 256 0))

/-- The greatest coefficient of a vector in absolute value. -/
def norm (v : List (List Int)) : Nat := (v.flatten.map (fun x => (centred mlQ x).natAbs)).foldl max 0

/-! ### Sampling -/

/-- RejNTTPoly: the residues below q among 23-bit fields of a SHAKE128 stream. (log 7, DESIGN CHOICE) -/
def rejNtt (seed : List Byte) : List Int :=
  let s := shake 168 seed 1008
  let l : List Nat := ((List.range 336).map (fun i => fld s (3 * i) 3 % 2 ^ 23)).filter (· < 8380417)
  (l.take 256).map Int.ofNat

/-- ExpandA: the public matrix, in the transform's domain. -/
def expandA (rho : List Byte) : List (List (List Int)) :=
  (List.range 4).map (fun r => (List.range 4).map (fun c => rejNtt (rho ++ leBytes 1 c ++ leBytes 1 r)))

/-- RejBoundedPoly with η = 2. (log 7, DESIGN CHOICE) -/
def rejBounded (seed : List Byte) : List Int :=
  let s := shake 136 seed 544
  let l : List Nat := (s.flatMap (fun b => [b.toNat % 16, b.toNat / 16])).filter (· < 15)
  (l.take 256).map (fun z => 2 - ((z % 5 : Nat) : Int))

/-- ExpandMask: a vector of coefficients in (−γ1, γ1], γ1 = 2^17. -/
def expandMask (rho : List Byte) (kappa : Nat) : List (List Int) :=
  (List.range 4).map (fun r =>
    let v := ofLE (shake 136 (rho ++ leBytes 2 (kappa + r)) 576)
    (List.range 256).map (fun i => 131072 - (bits v (18 * i) 18 : Int)))

/-- SampleInBall: 39 coefficients ±1, from a stream of SHAKE256. (log 7, DESIGN CHOICE) -/
def sampleBall (seed : List Byte) : List Int :=
  let s := shake 136 seed 272
  let h := ofLE (s.take 8)
  ((List.range 39).foldl (fun (w : List Int × List Byte) n =>
    let i := n + 217
    let l := w.2.dropWhile (fun b => decide (i < b.toNat))
    let j := (l.headD 0).toNat
    let c := (w.1.set i (w.1.getD j 0)).set j (if bit h n then -1 else 1)
    (c, l.drop 1)) (List.replicate 256 0, s.drop 8)).1

/-! ### Rounding and hints -/

/-- Power2Round with d = 13. -/
def power2Round (r : Int) : Int × Int :=
  let r0 := centred 8192 (r % mlQ)
  ((r % mlQ - r0) / 8192, r0)

/-- Decompose with γ2 = 95,232: high and low part. -/
def decompose (r : Int) : Int × Int :=
  let r0 := centred 190464 (r % mlQ)
  if r % mlQ - r0 = mlQ - 1 then (0, r0 - 1) else ((r % mlQ - r0) / 190464, r0)

/-- UseHint. -/
def useHint (h : Bool) (r : Int) : Int :=
  let d := decompose r
  if h then (if 0 < d.2 then (d.1 + 1) % 44 else (d.1 - 1) % 44) else d.1

/-! ### Encodings -/

/-- Fields of `w` bits packed, the first lowest. -/
def mlPack (w : Nat) (l : List Nat) : List Byte := leBytes (w * l.length / 8) (l.foldr (fun x a => a * 2 ^ w + x) 0)

/-- 256 fields of `w` bits read from an offset of bytes. -/
def mlUnpack (w : Nat) (l : List Byte) (o : Nat) : List Nat :=
  let v := ofLE (slice l o (32 * w))
  (List.range 256).map (fun i => bits v (w * i) w)

/-- w1Encode. -/
def w1Encode (v : List (List Int)) : List Byte := v.flatMap (fun p => mlPack 6 (p.map Int.toNat))

/-- HintBitPack: positions by polynomial, then the running counts. -/
def packHint (h : List (List Bool)) : List Byte :=
  let pos := h.map (fun p => (List.range 256).filter (fun i => p.getD i false))
  let l := pos.flatten
  let ends := (List.range 4).map (fun i => ((pos.take (i + 1)).map List.length).sum)
  ((l ++ List.replicate (80 - l.length) 0) ++ ends).map (BitVec.ofNat 8)

/-- HintBitUnpack; none for a malformed hint. -/
def unpackHint (y : List Byte) : Option (List (List Bool)) :=
  let at' := fun (i : Nat) => (y.getD i 0).toNat
  let ends := (List.range 4).map (fun i => at' (80 + i))
  let starts := 0 :: ends
  let rising := fun (a b : Nat) => (span a (b - a)).map at'
  let okAll := (List.range 4).all (fun i =>
    let a := starts.getD i 0
    let b := ends.getD i 0
    let l := rising a b
    decide (a ≤ b ∧ b ≤ 80) && (List.range (l.length - 1)).all (fun n => decide (l.getD n 0 < l.getD (n + 1) 0)))
  if okAll && (span (ends.getD 3 0) (80 - ends.getD 3 0)).all (fun i => at' i == 0) then
    some ((List.range 4).map (fun i =>
      let l := rising (starts.getD i 0) (ends.getD i 0)
      (List.range 256).map (fun n => l.contains n)))
  else none

/-! ### Keys, signatures, verification -/

/-- A private key: ρ, K, tr, s1, s2 and t0. -/
structure MlKey where
  rho : List Byte
  k : List Byte
  tr : List Byte
  s1 : List (List Int)
  s2 : List (List Int)
  t0 : List (List Int)
deriving DecidableEq, Repr

/-- KeyGen_internal: the public key's 1,312 bytes and the private key. -/
def mlKeyGen (xi : List Byte) : List Byte × MlKey :=
  let h := shake 136 (xi ++ [4, 4]) 128
  let rho := slice h 0 32
  let s1 := (List.range 4).map (fun r => rejBounded (slice h 32 64 ++ leBytes 2 r))
  let s2 := (List.range 4).map (fun r => rejBounded (slice h 32 64 ++ leBytes 2 (r + 4)))
  let t := List.zipWith pAdd ((matVec (expandA rho) (s1.map ntt)).map unNtt) s2
  let pk := rho ++ t.flatMap (fun p => mlPack 10 (p.map (fun x => (power2Round x).1.toNat)))
  (pk, { rho := rho, k := slice h 96 32, tr := shake 136 pk 64, s1 := s1, s2 := s2, t0 := t.map (fun p => p.map (fun x => (power2Round x).2)) })

/-- The representative µ of a message, pure mode with an empty context. -/
def mlMu (tr msg : List Byte) : List Byte := shake 136 (tr ++ [0, 0] ++ msg) 64

/-- One attempt of Sign_internal; none when it is rejected. -/
def mlTry (key : MlKey) (mu rho2 : List Byte) (kappa : Nat) : Option (List Byte) :=
  let y := expandMask rho2 kappa
  let w := (matVec (expandA key.rho) (y.map ntt)).map unNtt
  let ct := shake 136 (mu ++ w1Encode (w.map (fun p => p.map (fun x => (decompose x).1)))) 32
  let c := ntt (sampleBall ct)
  let times := fun (v : List (List Int)) => v.map (fun p => unNtt (pMul c (ntt p)))
  let z := List.zipWith pAdd y (times key.s1)
  let r := List.zipWith pSub w (times key.s2)
  let low := r.map (fun p => p.map (fun x => (decompose x).2))
  let c0 := times key.t0
  let hint := List.zipWith (fun p q => List.zipWith (fun x e => (decompose (x + e)).1 != (decompose x).1) p q) r c0
  if 130994 ≤ norm z ∨ 95154 ≤ (low.flatten.map Int.natAbs).foldl max 0 ∨ 95232 ≤ norm c0 ∨ 80 < (hint.flatten.filter id).length then none
  else some (ct ++ z.flatMap (fun p => mlPack 18 (p.map (fun x => (131072 - centred mlQ x).toNat))) ++ packHint hint)

/-- Attempts in turn; `fuel` bounds them. -/
def mlTries (key : MlKey) (mu rho2 : List Byte) : Nat → Nat → List Byte
  | 0, _ => []
  | fuel + 1, kappa =>
    match mlTry key mu rho2 kappa with
    | some s => s
    | none => mlTries key mu rho2 fuel (kappa + 4)

/-- The deterministic signature of a message, 2,420 bytes (R372): the randomiser is 32 zero bytes. (log 7, DESIGN CHOICE) -/
def mlSign (key : MlKey) (msg : List Byte) : List Byte :=
  let mu := mlMu key.tr msg
  mlTries key mu (shake 136 (key.k ++ List.replicate 32 0 ++ mu) 64) 814 0

/-- Whether a signature over a message verifies under a public key. -/
def mlVerify (pk msg sig : List Byte) : Bool :=
  match unpackHint (slice sig 2336 84) with
  | none => false
  | some h =>
    let ct := slice sig 0 32
    let z := (List.range 4).map (fun i => (mlUnpack 18 sig (32 + 576 * i)).map (fun (x : Nat) => 131072 - (x : Int)))
    let t1 := (List.range 4).map (fun i => (mlUnpack 10 pk (32 + 320 * i)).map (fun (x : Nat) => (x : Int) * 8192))
    let c := ntt (sampleBall ct)
    let az := matVec (expandA (slice pk 0 32)) (z.map ntt)
    let w := List.zipWith (fun a t => unNtt (pSub a (pMul c (ntt t)))) az t1
    let w1 := List.zipWith (fun p q => List.zipWith useHint p q) h w
    pk.length == 1312 && sig.length == 2420 && decide (norm z < 130994) &&
      shake 136 (mlMu (shake 136 pk 64) msg ++ w1Encode w1) 32 == ct

end Sys2Proof.Machine
end

