-- ==== Sys2Proof/Machine/Ops.lean ====
section
/-!
DEFINITION. Shared operations: the binding table and address map (R97, R254, R256, R314), the symbol code on reads and
writes (R260 to R263), access checks (R24, R99), counters, fault records and the fault ring (R109, R110), and the
working view of a strand that executes one instruction. (log 23, DESIGN CHOICE) -/
namespace Sys2Proof.Machine

/-! ### Binding table and address map -/

/-- Owner code of a unit (R314); 0xFF where the table lists none. -/
def Core.owner (c : Core) (cls unit : Nat) : Nat := (lookup c.owners (cls * 4096 + unit)).getD 0xFF

/-- The binding table with one owner code set; unbound units are not listed. -/
def setOwner (l : List (Nat × Nat)) (cls unit code : Nat) : List (Nat × Nat) :=
  if code = 0xFF then eraseKey (cls * 4096 + unit) l else insertKey (cls * 4096 + unit) code l

/-- Units of each class of Table 15.1. -/
def classSize (cls : Nat) : Nat := [0, 32, 384, 1024, 24, 64, 4, 8].getD cls 0

/-- Ranges of the local address map (Table 4.3). -/
inductive Area where
  | hbm | lp | pantry | window | mgmt | page | unmapped
deriving DecidableEq, Repr

def hbmEnd : Nat := 0x006000000000
def lpBase : Nat := 0x010000000000
def lpEnd : Nat := 0x020000000000
def pantryBase : Nat := 0x020000000000
def pantryEnd : Nat := 0x020020000000
def winBase : Nat := 0x021000000000
def winEnd : Nat := 0x021020000000
def mgmtBase : Nat := 0x030000000000
def mgmtEnd : Nat := 0x030011000000
def pageBase : Nat := 0x038000000000
def pageEnd : Nat := 0x038001020000

/-- The range a local address lies in and that range's end (R97). -/
def areaOf (a : Nat) : Area × Nat :=
  if a < hbmEnd then (.hbm, hbmEnd)
  else if lpBase ≤ a ∧ a < lpEnd then (.lp, lpEnd)
  else if pantryBase ≤ a ∧ a < pantryEnd then (.pantry, pantryEnd)
  else if winBase ≤ a ∧ a < winEnd then (.window, winEnd)
  else if mgmtBase ≤ a ∧ a < mgmtEnd then (.mgmt, mgmtEnd)
  else if pageBase ≤ a ∧ a < pageEnd then (.page, pageEnd)
  else (.unmapped, 0)

/-- The physical place of an HBM byte: its stack, its frame, and its offset in the frame. -/
structure HbmPlace where
  stack : Nat
  frame : Nat
  offset : Nat
deriving DecidableEq, Repr

/-- Where a byte of HBM lies under the mapping of its set (R254): near in its home stack at its own offset, or spread by
blocks of 4 KiB over the eight stacks. -/
def hbmPlace (spread a : Nat) : HbmPlace :=
  let r := a / 0x40000000
  let o := a % 0x40000000
  let (s, f, b) := (r / 48, r % 48, o / 4096)
  if bit spread f then ⟨(s + b) % 8, f, (s * 32768 + b / 8) * 4096 + o % 4096⟩ else ⟨s, f, o⟩

/-- The stack that holds an HBM byte under the mapping of its set (R254). -/
def hbmStack (spread a : Nat) : Nat := (hbmPlace spread a).stack

/-- Unit code of a main-memory byte (Table 12.6). -/
def memUnit (spread a : Nat) : Nat :=
  match (areaOf a).1 with
  | .hbm => hbmStack spread a
  | .lp => 0x10 + (a - lpBase) / 4096 % 16
  | _ => 0x20 + (a - pantryBase) / 0x4000000

/-- The 1 GiB regions that a range of HBM or LPDDR5X touches, numbered from the range's base. -/
def regionsOf (base a n : Nat) : List Nat :=
  span ((a - base) / 0x40000000) ((a + n - 1 - base) / 0x40000000 - (a - base) / 0x40000000 + 1)

/-- Pantry ranges of a context: (address, length) on each die of its mask (R317). -/
def Context.pantry (cx : Context) : List (Nat × Nat) :=
  ((List.range 8).filter (bit cx.mask)).map (fun d => (pantryBase + d * 0x4000000 + cx.poff * 65536, cx.plen * 65536))

/-- Whether the bytes from `a` up to `e` lie in ranges that may adjoin, each given by its start and length (R421). -/
def covered (rs : List (Nat × Nat)) : Nat → Nat → Nat → Bool
  | 0, _, _ => false
  | fuel + 1, a, e =>
    match rs.find? (fun r => r.1 ≤ a && (a < r.1 + r.2 || e ≤ a && a ≤ r.1 + r.2)) with
    | some r => e ≤ r.1 + r.2 || covered rs fuel (r.1 + r.2) e
    | none => false

/-- Whether a byte range lies wholly inside one of a list of ranges. -/
def inRanges (rs : List (Nat × Nat)) (a n : Nat) : Bool := covered rs (rs.length + 1) a (a + n)

/-- Whether two byte ranges share a byte. -/
def overlaps (a n b m : Nat) : Bool := 0 < n && 0 < m && a < b + m && b < a + n

/-- Check of a local access by partition `part` whose pantry reach is `pan` (R24, R97, R99): 0, 0x0201 or 0x0202. -/
def Core.access (c : Core) (part : Nat) (pan : List (Nat × Nat)) (a n : Nat) (wr : Bool) : Nat :=
  if n = 0 then 0 else
  let (ar, e) := areaOf a
  if ar = .unmapped ∨ e < a + n then 0x0201
  else match ar with
    | .hbm =>
      if (regionsOf 0 a n).all (fun r => c.owner 2 r == part || (!wr && c.owner 2 r == 0xFE)) then 0 else 0x0202
    | .lp => if (regionsOf lpBase a n).all (fun r => c.owner 3 r == part) then 0 else 0x0202
    | .pantry => if inRanges pan a n then 0 else 0x0202
    | _ => 0x0202

/-- Whether a store touches a pack's code region (R99). -/
def Core.hitsCode (c : Core) (a n : Nat) : Bool := c.packs.any (fun p => overlaps a n p.2.codeBase p.2.codeLen)

/-! ### The symbol code -/

/-- A protected memory's words: key offset of a word index in `Ecc.errs`, its unit, and the address it is reported by. -/
structure Space where
  off : Nat
  unit : Nat → Nat
  shown : Nat → Nat

/-- Main memory: HBM, LPDDR5X and pantry. -/
def Core.space (c : Core) : Space := ⟨0, memUnit c.hbmSpread, id⟩

/-- Counts of a unit. -/
def Ecc.count (e : Ecc) (u : Nat) : EccCount := (lookup e.cnt u).getD {}

/-- Counts of a unit changed. -/
def Ecc.modCount (e : Ecc) (u : Nat) (f : EccCount → EccCount) : Ecc := { e with cnt := insertKey u (f (e.count u)) e.cnt }

/-- A corrected read counted (R265). -/
def Ecc.countCE (e : Ecc) (u : Nat) : Ecc := e.modCount u (fun k => { k with ce := satInc k.ce 0xFFFFFFFF })
/-- An uncorrectable read counted and recorded (R265). -/
def Ecc.countUE (e : Ecc) (u a : Nat) : Ecc :=
  { e.modCount u (fun k => { k with ue := satInc k.ue 0xFFFF, ueAddr := a, ueValid := true }) with news := e.news ++ [(u, a)] }
/-- A dropped partial write counted (R263). -/
def Ecc.countDrop (e : Ecc) (u : Nat) : Ecc := e.modCount u (fun k => { k with drop := satInc k.drop 0xFF })

/-- Outcome of a codeword's check (Table 12.4). -/
inductive Verdict where
  | clean | corrected | bad
deriving DecidableEq, Repr

/-- Classification of a pattern of erroneous symbols; four or more leave it free (log 6, DESIGN CHOICE). (log 79, DEDUCED; log 84, DESIGN CHOICE) -/
def classify (draws : Nat) (pat : List (Nat × Byte)) : Verdict :=
  if pat.length = 0 then .clean
  else if pat.length = 1 then .corrected
  else if pat.length ≤ 3 then .bad
  else match Config.eccOutcome draws with
    | 0 => .clean
    | 1 => .corrected
    | _ => .bad

/-- The 64 data bytes of a word with a pattern XORed in. -/
def flipWord (m : Mem) (w : Nat) (pat : List (Nat × Byte)) : List Byte :=
  pat.foldl (fun bs p => bs.modify p.1 (· ^^^ p.2)) (m.read w 64)

/-- Check of one stored word on a read (R260, R261): the memory and error state after it, and whether it is uncorrectable; a word of the bad-word
table always is (R264), and so, for this access only, is one whose transfer fails. `w` is the word's byte address. (log 6, DESIGN CHOICE; log 41,
DEDUCED) (log 84, DESIGN CHOICE) -/
def scanWord (sp : Space) (m : Mem) (e : Ecc) (w : Nat) : Mem × Ecc × Bool :=
  if e.bad.contains (sp.off + w / 64) then (m, e.countUE (sp.unit w) (sp.shown w), true)
  else if e.once.contains (sp.off + w / 64) then
    (m, ({ e with once := e.once.erase (sp.off + w / 64) } : Ecc).countUE (sp.unit w) (sp.shown w), true)
  else match lookup e.errs (sp.off + w / 64) with
  | none => (m, e, false)
  | some pat =>
    let e1 := if 4 ≤ pat.length then { e with draws := e.draws + 1 } else e
    let rest := eraseKey (sp.off + w / 64) e1.errs
    match classify e.draws pat with
    | .clean => (m.write w (flipWord m w pat), { e1 with errs := rest }, false)
    | .corrected =>
      let m1 := if pat.length = 1 then m else
        let mis := Config.eccMiscorrect e.draws
        m.write w (flipWord m w (pat ++ [(mis.1 % 64, mis.2)]))
      let back := if pat.length = 1 then (sp.off + w / 64) :: e1.back else e1.back
      (m1, ({ e1 with errs := rest, back := back } : Ecc).countCE (sp.unit w), false)
    | .bad => (m, e1.countUE (sp.unit w) (sp.shown w), true)

/-- A number put into a rising list, once. -/
def insertNat (k : Nat) : List Nat → List Nat
  | [] => [k]
  | a :: t => if k < a then k :: a :: t else if k = a then a :: t else a :: insertNat k t

/-- A word entered in the bad-word table of its memory (R264). -/
def Ecc.enterBad (e : Ecc) (key : Nat) : Ecc := { e with bad := insertNat key e.bad }

/-- Words with stored errors, in the bad-word table, or whose transfer fails, that a range touches, ascending. -/
def errWords (sp : Space) (e : Ecc) (a n : Nat) : List Nat :=
  if n = 0 then [] else
  (((e.bad ++ e.once).foldl (fun l k => insertNat k l) (e.errs.map Prod.fst)).filter
    (fun x => sp.off + a / 64 ≤ x && x ≤ sp.off + (a + n - 1) / 64)).map (fun x => (x - sp.off) * 64)

/-- The error state with words made clean by being wholly rewritten (R263, R264). -/
def Ecc.clean (sp : Space) (e : Ecc) (ws : List Nat) : Ecc :=
  { e with errs := e.errs.filter (fun x => !ws.contains ((x.1 - sp.off) * 64) || x.1 < sp.off)
           bad := e.bad.filter (fun x => !ws.contains ((x - sp.off) * 64) || x < sp.off) }

/-- Ranges less the numbers from `lo` up to `hi`. -/
def cutRange (lo hi : Nat) (l : List (Nat × Nat)) : List (Nat × Nat) :=
  l.flatMap (fun r => ([(r.1, min r.2 lo), (max r.1 hi, r.2)] : List (Nat × Nat)).filter (fun x => x.1 < x.2))

/-- Words that a write touches are no longer to be cleared (R383). -/
def Ecc.wrote (e : Ecc) (sp : Space) (a n : Nat) : Ecc :=
  if e.uncleared.isEmpty ∨ n = 0 then e
  else { e with uncleared := cutRange (sp.off + a / 64) (sp.off + (a + n - 1) / 64 + 1) e.uncleared }

/-- A protected read's check over a range: the first uncorrectable word, if any, ends it (R262). -/
def scanRange (sp : Space) (m : Mem) (e : Ecc) (a n : Nat) : Mem × Ecc × Option Nat :=
  (errWords sp e a n).foldl (fun (r : Mem × Ecc × Option Nat) w =>
    match r.2.2 with
    | some _ => r
    | none =>
      let q := scanWord sp r.1 r.2.1 w
      (q.1, q.2.1, if q.2.2 then some w else none)) (m, e, none)

/-- A protected write (R263): whole words become clean; a partial write to an uncorrectable word, one of the bad-word table or one whose
transfer fails among them, is dropped. (log 41, DEDUCED; log 84, DESIGN CHOICE) -/
def storeRange (sp : Space) (m : Mem) (e : Ecc) (a : Nat) (bs : List Byte) : Mem × Ecc :=
  let n := bs.length
  let e := e.wrote sp a n
  let ws := errWords sp e a n
  if ws.isEmpty then (m.write a bs, e) else
  let whole := ws.filter (fun w => a ≤ w && w + 64 ≤ a + n)
  let part := ws.filter (fun w => !(a ≤ w && w + 64 ≤ a + n))
  let e0 := e.clean sp whole
  let r := part.foldl (fun (r : Mem × Ecc × List Nat) w =>
    if r.2.1.bad.contains (sp.off + w / 64) || r.2.1.once.contains (sp.off + w / 64) then
      (r.1, ({ r.2.1 with once := r.2.1.once.erase (sp.off + w / 64) } : Ecc).countDrop (sp.unit w), w :: r.2.2)
    else match lookup r.2.1.errs (sp.off + w / 64) with
    | none => r
    | some pat =>
      if classify r.2.1.draws pat = .bad then
        (r.1, ({ r.2.1 with draws := if 4 ≤ pat.length then r.2.1.draws + 1 else r.2.1.draws } : Ecc).countDrop (sp.unit w), w :: r.2.2)
      else
        let q := scanWord sp r.1 r.2.1 w
        (q.1, q.2.1, r.2.2)) (m, e0, [])
  let m2 := r.1.write a bs
  (r.2.2.foldl (fun (mm : Mem) w =>
    let lo := max a w
    let hi := min (a + n) (w + 64)
    mm.write lo (r.1.read lo (hi - lo))) m2, r.2.1)

/-- The words with errors that a list of ranges, all written by one instruction, covers wholly (R263). -/
def wholeWords (sp : Space) (e : Ecc) (rs : List (Nat × Nat)) : List Nat :=
  (rs.flatMap (fun r => errWords sp e r.1 r.2)).filter (fun w => (span w 64).all (fun a => rs.any (fun r => r.1 ≤ a && a < r.1 + r.2)))

/-- The error state kept after an instruction that stops (R261, R265): `base` with the counts and write-backs of the reads it
made; what its undone stores did to words is undone with them. -/
def Ecc.afterStop (base e : Ecc) : Ecc :=
  { base with errs := base.errs.filter (fun x => !e.back.contains x.1)
              cnt := e.cnt.map (fun p => (p.1, { p.2 with drop := (base.count p.1).drop }))
              once := e.once, draws := e.draws, news := e.news, back := e.back }

/-! ### Counters and the outbox -/

/-- The clock domains of Table 1.4 beside CCLK and WCLK: the hub fabric, a stack's PHY, an LPDDR5X channel, a Nymhel link, an
Ethernet port, the video engines. -/
inductive Domain where
  | hclk
  | hbm (stack : Nat)
  | lp (channel : Nat)
  | nclk (link : Nat)
  | eclk (port : Nat)
  | vclk
deriving DecidableEq, Repr

/-- Number of a domain's counter in `Core.clocks`. -/
def Domain.key : Domain → Nat
  | .hclk => 0 | .vclk => 1 | .hbm s => 0x10 + s | .lp n => 0x20 + n | .nclk l => 0x30 + l | .eclk p => 0x50 + p

/-- The free-running counter of a domain, read at this moment (R19; log 5, DESIGN CHOICE). -/
def Core.readClock (c : Core) (d : Domain) : Nat × Core :=
  let v := ((lookup c.clocks d.key).getD 0 + Config.elapsed c.seq) % 2 ^ 64
  (v, { c with clocks := insertKey d.key v c.clocks, seq := c.seq + 1 })

/-- The CCLK counter of a die, read at this moment (R19; log 5, DESIGN CHOICE). -/
def Core.readCclk (c : Core) (die : Nat) : Nat × Core :=
  let v := ((lookup c.cclk die).getD 0 + Config.elapsed c.seq) % 2 ^ 64
  (v, { c with cclk := insertKey die v c.cclk, seq := c.seq + 1 })

/-- The WCLK counter, read at this moment (R19; log 5, DESIGN CHOICE). -/
def Core.readWclk (c : Core) : Nat × Core :=
  let v := (c.wclk + Config.elapsed c.seq) % 2 ^ 64
  (v, { c with wclk := v, seq := c.seq + 1 })

/-- A message put in the outbox. -/
def Core.send (c : Core) (o : Out) : Core := { c with out := o :: c.out }

/-- A context changed. -/
def Core.setCtx (c : Core) (k : Nat) (cx : Context) : Core := { c with ctxs := insertKey k cx c.ctxs }

/-- Store of the M8 itself into main memory. -/
def Core.store (c : Core) (a : Nat) (bs : List Byte) : Core :=
  let r := storeRange c.space c.mem c.ecc a bs
  { c with mem := r.1, ecc := r.2 }

/-- Bytes of main memory written with contents that the spec does not state: to the words it is a write like any other (R263). -/
def Core.spoil (c : Core) (a n : Nat) : Core :=
  let c0 := { c with seq := c.seq + 1 }
  if (errWords c.space c.ecc a n).isEmpty then { c0 with mem := c.mem.spoil a n c.seq } else
  let r := storeRange c.space c.mem c.ecc a (c.mem.read a n)
  let kept := (errWords c.space r.2 a n).filter (fun w => !(a ≤ w && w + 64 ≤ a + n))
  { c0 with ecc := r.2, mem := kept.foldl (fun (m : Mem) w =>
      let lo := max a w
      let hi := min (a + n) (w + 64)
      m.write lo (r.1.read lo (hi - lo))) (r.1.spoil a n c.seq) }

/-! ### Fault records -/

/-- A failed check: its code, SOURCE (1 instruction issue, 2 execution), OPERAND, DETAIL, and the error state as the reads
before it left it. -/
structure FaultInfo where
  code : Nat
  src : Nat := 2
  operand : Nat := 0
  detail : List Byte := []
  ecc : Option Ecc := none
deriving DecidableEq, Repr

/-- The 64-byte fault record (Table 4.6). -/
def faultRecord (code src ctx me iaddr rank operand strand part ccount : Nat) (detail : List Byte) : List Byte :=
  patch (layout 64 [(0, 2, code), (2, 1, 1), (3, 1, src), (4, 2, ctx), (6, 2, me), (8, 8, iaddr), (0x10, 4, rank),
    (0x14, 1, operand), (0x15, 1, strand), (0x16, 2, part), (0x18, 8, ccount)]) 0x20 (slice detail 0 32)

/-- Live-object bytes that no store may change, and copies that a walk in flight reads (R211): (address, length). -/
def Core.walkRanges (c : Core) : List (Nat × Nat) :=
  let cap := fun (o : Nat) => 2 ^ (c.mem.get (o + 2)).toNat
  (c.live.map (fun o => [(o.addr + 0x03, 1), (o.addr + 0x18, 8), (o.addr + 0x40 + 16 * cap o.addr, 8 * cap o.addr)])).flatten ++
  (c.walks.map (fun w => [(w.obj + 0x40 + w.copy * 8 * cap w.obj, 8 * cap w.obj), (w.obj + 0x08 + 4 * w.copy, 4),
    (w.obj + 0x10 + 4 * w.copy, 4)])).flatten

/-- Whether a store must be refused with 0x0502 (R211). -/
def Core.storeRefused (c : Core) (a n : Nat) : Bool := c.walkRanges.any (fun r => overlaps a n r.1 r.2)

/-- Device number and local half of an address (R20). -/
def devOf (a : Nat) : Nat := a / 2 ^ 48 % 2 ^ 16
def localOf (a : Nat) : Nat := a % 2 ^ 48

/-- Whether an address names module `dev` (R20). -/
def ownAddr (dev a : Nat) : Bool := devOf a == 0xFFFF || devOf a == dev

/-- Whether memory of this module, `dev`, is writable by a context's partition over a range (R20, R59, R110, R211). (log 72, DEDUCED) -/
def Core.writable (c : Core) (dev : Nat) (cx : Context) (a n : Nat) : Bool :=
  ownAddr dev a && c.access cx.part cx.pantry (localOf a) n true = 0 && !c.hitsCode (localOf a) n &&
  !c.storeRefused (localOf a) n

/-- A record posted to a fault ring (R110): the registers and the core after it. (log 72, DEDUCED) -/
def postRecord (c : Core) (dev : Nat) (cx : Context) (num : NumRegs) (rec : List Byte) : Core × NumRegs :=
  let at' := num.ringAddr + num.head % 2 ^ num.ringLog * 64
  if num.ringAddr = 0 ∨ (num.head + 65536 - num.tail) % 65536 = 2 ^ num.ringLog ∨ ¬ c.writable dev cx at' 64 then
    (c, { num with dropped := satInc num.dropped 0xFFFF })
  else (c.store (localOf at') rec, { num with head := (num.head + 1) % 65536 })

/-- RANK field of a record for a strand (Table 4.6). -/
def rankField (rank idx : Nat) : Nat := rank % 65536 + idx % 65536 * 65536

/-- Whether a context is on chip: its slot's registers are its own (R318). -/
def Context.onChip (cx : Context) : Bool := cx.slot.isSome && cx.moving != .restoring

/-- A context as one that reaches no pantry, since it is not resident (R24). -/
def Context.away (cx : Context) : Context := { cx with mask := 0 }

/-- A fault of a strand (R88, R109): the context is held, every strand of it stops, and the record goes to the ring. `made` is
RANK and IADDR of the instruction at fault where the strand has gone on since. A fault that reaches a context that is saved or
being restored is recorded in the ring of its image, and it is held when it is on chip again. (log 87, DEDUCED) -/
def Core.raise (c : Core) (dev k i : Nat) (f : FaultInfo) (made : Option (Nat × Nat) := none) : Core :=
  match lookup c.ctxs k with
  | none => c
  | some cx =>
    let (rank, me, pc) := match lookup cx.strands i with
      | some r => (rankField r.rank i, r.me, r.pc.toNat)
      | none => (0xFFFFFFFF, none, 0)
    let (rank, pc) := made.getD (rank, pc)
    let (cc, c1) := match me with
      | some m => c.readCclk (m / 16)
      | none => c.readWclk
    let rec' := faultRecord f.code f.src k (me.getD 0xFFFF) pc rank f.operand ((me.map (· % 16)).getD 0xFF) cx.part cc f.detail
    if cx.onChip then
      let (c2, num) := postRecord c1 dev cx cx.num rec'
      c2.setCtx k { cx with faulted := true, num := num }
    else
      let (c2, late) := postRecord c1 dev cx.away cx.late rec'
      c2.setCtx k { cx with faulted := true, late := late, lateFault := true
                            lateRecs := cx.lateRecs + (if late.head = cx.late.head then 0 else 1) }

/-! ### The working view of a strand -/

/-- What an instruction sees of the rest of the module: its device number, for each other device the link its route names, or
none (R274, R278), the epoch of its packets, and the lowest operating point of a die (R286). -/
structure Env where
  dev : Nat
  route : Nat → Option Nat
  epoch : Nat
  low : Nat

/-- The working view of strand `i` of context `k` executing one instruction: the core, and copies of its context,
registers, tile memory and slot registers; flags raised and the first NaN created so far. -/
structure X where
  c : Core
  env : Env
  k : Nat
  i : Nat
  cx : Context
  r : Strand
  tm : TileMem
  num : NumRegs
  flags : FpFlags := 0
  nan : Option NanInfo := none
  op : Nat
  trapOn : Bool
  jump : Option Nat := none
  ended : Bool := false

/-- Why an instruction does not complete: a fault, a wait, or a NaN trap; the view is what it leaves of its progress. -/
inductive Stop where
  | fault (f : FaultInfo) (keep : Option X)
  | hold (w : Wait) (keep : Option X)
  | trap (n : NanInfo) (keep : Option X)

/-- Results of a step of an instruction. -/
abbrev Res (α : Type) := Except Stop α

/-- A fault found at instruction issue. -/
def fIssue {α : Type} (code : Nat) (operand : Nat := 0) (detail : List Byte := []) : Res α :=
  .error (.fault { code := code, src := 1, operand := operand, detail := detail } none)

/-- A fault found during execution. -/
def fExec {α : Type} (code : Nat) (operand : Nat := 0) (detail : List Byte := []) : Res α :=
  .error (.fault { code := code, operand := operand, detail := detail } none)

/-- A condition that must hold, or the instruction faults at issue. -/
def need (b : Bool) (code : Nat) (operand : Nat := 0) (detail : List Byte := []) : Res Unit :=
  if b then .ok () else fIssue code operand detail

/-- A condition that must hold, or the instruction faults in execution. -/
def needX (b : Bool) (code : Nat) (operand : Nat := 0) (detail : List Byte := []) : Res Unit :=
  if b then .ok () else fExec code operand detail

/-- A fault of an instruction that has made reads: their corrections and counts stay (R261, R265). -/
def X.fault {α : Type} (x : X) (code : Nat) (operand : Nat := 0) (detail : List Byte := []) : Res α :=
  .error (.fault { code := code, operand := operand, detail := detail, ecc := some x.c.ecc } none)

/-- A condition that must hold after the reads of a view, or the instruction faults in execution. -/
def X.need (x : X) (b : Bool) (code : Nat) (operand : Nat := 0) (detail : List Byte := []) : Res Unit :=
  if b then .ok () else x.fault code operand detail

/-- A check of an instruction's operands that fails once it has made reads. -/
def X.refuse {α : Type} (x : X) (code : Nat) (operand : Nat := 0) (detail : List Byte := []) : Res α :=
  .error (.fault { code := code, src := 1, operand := operand, detail := detail, ecc := some x.c.ecc } none)

/-- Such a check. -/
def X.check (x : X) (b : Bool) (code : Nat) (operand : Nat := 0) (detail : List Byte := []) : Res Unit :=
  if b then .ok () else x.refuse code operand detail

/-- Events of arithmetic recorded in the view (R53, R58). -/
def X.note (x : X) (e : Ev) (loc : NanInfo := { cause := 0 }) : X :=
  { x with flags := x.flags ||| e.flags
           nan := if e.cause ≠ 0 ∧ x.nan = none then some { loc with cause := e.cause } else x.nan }

/-- Scalar register (R89): s0 reads 0. -/
def X.s (x : X) (n : Nat) : Nat := if n = 0 then 0 else (x.r.s.toList.getD n 0).toNat

/-- Write of a scalar register: s0 discards it (R89). -/
def X.setS (x : X) (n v : Nat) : X :=
  if n = 0 then x else { x with r := { x.r with s := x.r.s.setIfInBounds n (BitVec.ofNat 64 v) } }

/-- Predicate register: p0 is true (R89). -/
def X.p (x : X) (n : Nat) : Bool := n == 0 || x.r.p.toList.getD n false

/-- Write of a predicate register: p0 discards it (R89). -/
def X.setP (x : X) (n : Nat) (v : Bool) : X :=
  if n = 0 then x else { x with r := { x.r with p := x.r.p.setIfInBounds n v } }

/-- Descriptor register, as a number of 512 bits. -/
def X.d (x : X) (n : Nat) : Nat := (x.r.d.toList.getD n 0).toNat

/-- Write of a descriptor register. -/
def X.setD (x : X) (n v : Nat) : X := { x with r := { x.r with d := x.r.d.setIfInBounds n (BitVec.ofNat 512 v) } }

/-- The 64 lanes of a vector register. -/
def X.v (x : X) (n : Nat) : List Nat := (x.r.v.toList.getD n (Vector.replicate 64 0)).toList.map BitVec.toNat

/-- A vector of 64 lanes from a list, zero beyond it. -/
def laneVec (l : List Nat) : Vector W32 64 := Vector.ofFn (fun i => BitVec.ofNat 32 (l.getD i.val 0))

/-- Write of a vector register. -/
def X.setV (x : X) (n : Nat) (l : List Nat) : X := { x with r := { x.r with v := x.r.v.setIfInBounds n (laneVec l) } }

/-- The 64 binary64 elements of a register pair (R92). -/
def X.pair (x : X) (n : Nat) : List Nat :=
  let h : List Nat → List Nat := fun l => (List.range 32).map (fun i => l.getD (2 * i) 0 + l.getD (2 * i + 1) 0 * 2 ^ 32)
  h (x.v n) ++ h (x.v (n + 1))

/-- Write of a register pair with 64 binary64 elements (R92). -/
def X.setPair (x : X) (n : Nat) (l : List Nat) : X :=
  let h : List Nat → List Nat := fun l => (List.range 64).map (fun i =>
    let e := l.getD (i / 2) 0
    if i % 2 = 0 then e % 2 ^ 32 else e / 2 ^ 32)
  (x.setV n (h (l.take 32))).setV (n + 1) (h (l.drop 32))

/-- The ME a running strand is on. -/
def X.me (x : X) : Nat := x.r.me.getD 0
/-- The die of that ME. -/
def X.die (x : X) : Nat := x.me / 16

/-- Whether an address names the issuing device (R20). -/
def X.here (x : X) (a : Nat) : Bool := ownAddr x.env.dev a

/-- DETAIL of fault 0x0210 (R262). -/
def ueDetail (dev addr unit : Nat) (remote : Bool) : List Byte :=
  leBytes 8 (dev * 2 ^ 48 + addr) ++ leBytes 1 unit ++ leBytes 1 (if remote then 1 else 0)

/-- Check of mapping and permission of an access (R97, R99, R278): local accesses against this module's map, remote ones
only against the route; the holding module checks the rest. -/
def X.reach (x : X) (a n : Nat) (wr : Bool) (operand : Nat := 0) : Res Unit :=
  if x.here a then
    let code := x.c.access x.cx.part x.cx.pantry (localOf a) n wr
    if code ≠ 0 then x.fault code operand
    else if wr ∧ x.c.hitsCode (localOf a) n then x.fault 0x0202 operand
    else .ok ()
  else if n = 0 then .ok ()
  else match x.env.route (devOf a) with
    | some _ => .ok ()
    | none => x.fault 0x0703 operand

/-- Bytes already returned by a remote module for a load of the instruction in progress. -/
def Strand.got (r : Strand) (a n : Nat) : Option (List Byte) :=
  (r.arrived.find? (fun e => e.1 ≤ a && a + n ≤ e.1 + e.2.length)).map (fun e => slice e.2 (a - e.1) n)

/-- Bytes of resource `res` (1 HBM, 2 LPDDR5X, 3 Nymhel) used by context `k` of partition `part`: counted for the context (R327), and
charged against its partition's credit (R326). (log 28, DESIGN CHOICE; log 38, DESIGN CHOICE) -/
def Core.spend (c : Core) (k part res n : Nat) : Core :=
  { c with
    usage := insertKey (8 * k + res) (((lookup c.usage (8 * k + res)).getD 0 + n) % 2 ^ 64) c.usage
    credits := c.credits.map (fun q => if q.1 = 16 * res + part then (q.1, q.2 - n) else q) }

/-- Bytes at a local address used by the strand's context. -/
def X.used (x : X) (a n : Nat) : X :=
  match (areaOf a).1 with
  | .hbm => { x with c := x.c.spend x.k x.cx.part 1 n }
  | .lp => { x with c := x.c.spend x.k x.cx.part 2 n }
  | _ => x

/-- Load of `n` bytes (R97 to R101, R262). A remote load waits until its bytes have arrived; `bulk` waits as a panel. -/
def X.load (x : X) (a n : Nat) (operand : Nat := 0) (bulk : Bool := false) : Res (List Byte × X) := do
  x.reach a n false operand
  if n = 0 then return ([], x)
  if x.here a then
    let r := scanRange x.c.space x.c.mem x.c.ecc (localOf a) n
    match r.2.2 with
    | some w =>
      .error (.fault { code := 0x0210, operand := operand, ecc := some r.2.1,
                       detail := ueDetail x.env.dev w (memUnit x.c.hbmSpread w) false } none)
    | none => return (r.1.read (localOf a) n, ({ x with c := { x.c with mem := r.1, ecc := r.2.1 } } : X).used (localOf a) n)
  else match x.r.got a n with
    | some bs => return (bs, x)
    | none => .error (.hold (if bulk then .panels a n else .remote a n) none)

/-- An operation whose accesses do not depend on what it reads: mapping and permission of all of them are checked before the words it
reads are (R111, checks 4 and 5). -/
def X.mapFirst {α : Type} (x : X) (f : X → Res α) : Res α :=
  if x.c.ecc.errs.isEmpty && x.c.ecc.bad.isEmpty && x.c.ecc.once.isEmpty then f x else
  match f { x with c := { x.c with ecc := { x.c.ecc with errs := [], bad := [], once := [] } } } with
  | .error (.fault g none) => if g.code = 0x0201 ∨ g.code = 0x0202 ∨ g.code = 0x0703 then x.fault g.code g.operand g.detail else f x
  | _ => f x

/-- The strand as one that asks another module. -/
def X.asker (x : X) : Asker := .strand x.k x.i x.r.launch x.r.rank

/-- Tag of the `j`-th request from now (Table 13.3). -/
def Core.tagAt (c : Core) (j : Nat) : Nat := (c.nextTag + j) % 2 ^ 32

/-- A packet of a strand's request to the module that an address names. -/
def X.packet (x : X) (a opc tag arg : Nat) (data : List Byte) : Packet :=
  { dest := devOf a, src := x.env.dev, epoch := x.env.epoch, opc := opc, spart := x.cx.part, tag := tag, addr := localOf a, arg := arg,
    data := data }

/-- The link a strand's packets to an address go out on. -/
def X.link (x : X) (a : Nat) : Nat := (x.env.route (devOf a)).getD 0

/-- Packets, one after the other and each a request of its own, that a module acknowledges (R103, R108): sent, and counted. -/
def X.post (x : X) (a : Nat) (ps : List (Nat → Packet)) : X :=
  let n := ps.length
  let sent := ps.zipIdx.map fun p => p.1 (x.c.tagAt p.2)
  let out := sent.map (Out.packet (x.link a))
  let c := x.c.spend x.k x.cx.part 3 ((sent.map (fun p => p.data.length)).sum)
  { x with
    c := { c with
      out := out.reverse ++ x.c.out, nextTag := x.c.tagAt n
      reqs := x.c.reqs ++ (List.range n).map fun j => { tag := x.c.tagAt j, who := x.asker, dest := devOf a, left := 0, wait := none, pc := x.r.pc.toNat } }
    r := { x.r with acks := x.r.acks + n, ackTo := devOf a } }

/-- Pieces of at most 4,096 bytes with their offsets (R272). -/
def pieces : Nat → Nat → List Byte → List (Nat × List Byte)
  | 0, _, _ => []
  | fuel + 1, o, bs => if bs.isEmpty then [] else (o, bs.take 4096) :: pieces fuel (o + 4096) (bs.drop 4096)

/-- Store of bytes (R97 to R101, R211, R263); on another module as write packets of 4,096 bytes (R272, R279). -/
def X.store (x : X) (a : Nat) (bs : List Byte) (operand : Nat := 0) : Res X := do
  x.reach a bs.length true operand
  if bs.isEmpty then return x
  if x.here a then
    if x.c.storeRefused (localOf a) bs.length then x.fault 0x0502 operand
    else return ({ x with c := x.c.store (localOf a) bs } : X).used (localOf a) bs.length
  else return x.post a ((pieces (bs.length / 4096 + 1) 0 bs).map fun p t => x.packet (a + p.1) 2 t 0 p.2)

/-- The view once a part of `rs`, ranges that one instruction writes, is known to be rewritten: local words of the part that
`rs` covers wholly are clean (R263). -/
def X.rewritesPart (x : X) (part rs : List (Nat × Nat)) : X :=
  if x.c.ecc.errs.isEmpty && x.c.ecc.bad.isEmpty then x else
  let own := fun (l : List (Nat × Nat)) => (l.filter (fun r => x.here r.1)).map (fun r => (localOf r.1, r.2))
  let now := (own part).flatMap (fun r => errWords x.c.space x.c.ecc r.1 r.2)
  { x with c := { x.c with
      ecc := x.c.ecc.clean x.c.space ((wholeWords x.c.space x.c.ecc (own rs)).filter now.contains) } }

/-- The view once all of `rs`, written together by one instruction, is known to be rewritten (R263). -/
def X.rewrites (x : X) (rs : List (Nat × Nat)) : X := x.rewritesPart rs rs

/-! ### Releases, flags and progress -/

/-- A release waits until every remote store of the strand is acknowledged (R103). -/
def X.released (x : X) (rel : Bool) : Res Unit := if rel ∧ x.r.acks ≠ 0 then .error (.hold .acks none) else .ok ()

/-- The result of a flag operation on another module once it has returned; until then the strand waits (R108, R278). -/
def X.remoteFlagOp (x : X) (a kind v v2 : Nat) : Res Nat :=
  match x.r.got a 8 with
  | some bs => .ok (ofLE bs)
  | none => .error (.hold (.remoteFlag a kind v v2) none)

/-- A flag with a number added (R102): its old value. -/
def X.fadd (x : X) (a v : Nat) (operand : Nat := 0) : Res (Nat × X) :=
  if x.here a then do
    let (bs, x1) ← x.load a 8 operand
    let x2 ← x1.store a (leBytes 8 (ofLE bs + v)) operand
    return (ofLE bs, x2)
  else do
    let old ← x.remoteFlagOp a 4 v 0
    return (old, x)

/-- A wait, as an acquire, until a flag is at least `v`; on another module it is parked there (R103, R154, R278). -/
def X.untilFlag (x : X) (addr v : Nat) (w : Wait) : Res X :=
  if x.here addr then do
    let (bs, x1) ← x.load addr 8
    if v ≤ ofLE bs then return x1 else .error (.hold w (some x1))
  else do
    let _ ← x.remoteFlagOp addr 2 v 0
    return x

/-- The number of points of its progress that an instruction has passed, in prg. -/
def X.done (x : X) : Nat := x.r.prg.toNat
/-- prg advanced to `n` points passed: what other modules returned has been used. (log 43, DEDUCED) -/
def X.setDone (x : X) (n : Nat) : X := { x with r := { x.r with prg := BitVec.ofNat 64 n, arrived := [] } }

/-- The view before a part that a NaN stops, with what the reads of the part did to the error state (R261, R265). (log 12, DEDUCED) -/
def X.keepReads (x y : X) : X := { x with c := { x.c with ecc := x.c.ecc.afterStop y.c.ecc } }

/-- A part of a resumable instruction between two points of its progress (R107): its events become final, or the
instruction stops with what it had before (R124, R158); a wait inside it leaves none of it, so that it is done once when the
wait has ended. (log 43, DEDUCED; log 83, DESIGN CHOICE) -/
def unitOf (x : X) (r : Res X) : Res X :=
  match r with
  | .ok y =>
    match x.trapOn, y.nan with
    | true, some n => .error (.trap n (some (x.keepReads y)))
    | _, _ => .ok { y with nan := none }
  | .error (.fault f k) => .error (.fault f (some (k.getD x)))
  | .error (.hold w _) => .error (.hold w (some x))
  | .error (.trap n k) => .error (.trap n (some (k.getD x)))

/-- The parts of a resumable instruction from the one it has come to, `n` points coming before the first (R107). (log 27, DESIGN CHOICE; log 43,
DEDUCED; log 83, DESIGN CHOICE) -/
def X.points (x : X) (n : Nat) (ps : List (X → Res X)) : Res X :=
  ps.zipIdx.foldlM (fun y p =>
    if n + p.2 < y.done then .ok y
    else do
      let z ← unitOf y (p.1 y)
      return z.setDone (n + p.2 + 1)) x

/-- What is kept at a stop that does not say it: the view before the step. -/
def X.keeping {α : Type} (x : X) (r : Res α) : Res α :=
  match r with
  | .error (.fault f k) => .error (.fault f (some (k.getD x)))
  | .error (.hold w k) => .error (.hold w (some (k.getD x)))
  | .error (.trap n k) => .error (.trap n (some (k.getD x)))
  | .ok a => .ok a

/-- The `n` entries of a list from the one an instruction has come to (R155, R203), each whole before the next; `f` gives the place
reached after an entry. A stop keeps the entries done and the points passed in the one in hand. (log 43, DEDUCED) -/
def X.entries (x : X) (n : Nat) (f : X → Nat → ListPos → Res (ListPos × X)) : Res X :=
  ((List.range n).drop x.r.list.entries).foldlM (fun y e => do
    let (s, z) ← y.keeping (f y e y.r.list)
    return { z with r := { z.r with list := { s with entries := e + 1 } } }) x

/-! ### OSP and ACM of the strand -/

/-- Words of the strand's OSP (`acm = false`) or ACM in the error state (R262, R265). -/
def X.tileSpace (x : X) (acm : Bool) : Space :=
  let o := if acm then 0x200000 else 0
  ⟨2 ^ 50 + (x.k * 128 + x.i) * 2 ^ 16 + o / 64, fun _ => 0x28 + x.die, fun w => winBase + x.me * 0x400000 + o + w⟩

/-- Checked read of tile memory inside its range. -/
def X.tileRead (x : X) (acm : Bool) (a n : Nat) : Res (List Byte × X) :=
  let sp := x.tileSpace acm
  let r := scanRange sp (if acm then x.tm.acm else x.tm.osp) x.c.ecc a n
  let x1 := { x with c := { x.c with ecc := r.2.1 }
                     tm := if acm then { x.tm with acm := r.1 } else { x.tm with osp := r.1 } }
  match r.2.2 with
  | some w =>
    .error (.fault { code := 0x0210, ecc := some r.2.1, detail := ueDetail x.env.dev (sp.shown w) (sp.unit w) false } none)
  | none => .ok (r.1.read a n, x1)

/-- Write of tile memory inside its range. -/
def X.tileWrite (x : X) (acm : Bool) (a : Nat) (bs : List Byte) : X :=
  let r := storeRange (x.tileSpace acm) (if acm then x.tm.acm else x.tm.osp) x.c.ecc a bs
  { x with c := { x.c with ecc := r.2 }
           tm := if acm then { x.tm with acm := r.1 } else { x.tm with osp := r.1 } }

def ospSize : Nat := 0x200000

/-- Read of the OSP, offsets modulo 2 MiB (R123); `n` is at most 2 MiB. -/
def X.ospRead (x : X) (o n : Nat) : Res (List Byte × X) := do
  let a := o % ospSize
  if a + n ≤ ospSize then x.tileRead false a n
  else
    let (b1, x1) ← x.tileRead false a (ospSize - a)
    let (b2, x2) ← x1.tileRead false 0 (a + n - ospSize)
    return (b1 ++ b2, x2)

/-- Bytes of the OSP as a write into part of a byte finds them, offsets modulo 2 MiB (R123). -/
def X.ospOld (x : X) (o n : Nat) : List Byte := (List.range n).map (fun k => x.tm.osp.get ((o + k) % ospSize))

/-- Write of the OSP, offsets modulo 2 MiB (R123). -/
def X.ospWrite (x : X) (o : Nat) (bs : List Byte) : X :=
  let a := o % ospSize
  if a + bs.length ≤ ospSize then x.tileWrite false a bs
  else (x.tileWrite false a (bs.take (ospSize - a))).tileWrite false 0 (bs.drop (ospSize - a))

/-- Little-endian words of `w` bytes in a byte string. -/
def wordsOf (w : Nat) : Nat → List Byte → List Nat
  | 0, _ => []
  | n + 1, bs => ofLE (bs.take w) :: wordsOf w n (bs.drop w)

/-- The 1,024 words of an ACM slot (R68). -/
def X.slotWords (x : X) (t : Nat) : Res (List Nat × X) := do
  let (bs, x1) ← x.tileRead true (4096 * t) 4096
  return (wordsOf 4 1024 bs, x1)

/-- An ACM slot written with 1,024 words. -/
def X.setSlotWords (x : X) (t : Nat) (ws : List Nat) : X := x.tileWrite true (4096 * t) (ws.flatMap (leBytes 4))

/-- The 1,024 64-bit encodings of a slot pair (R68). -/
def X.slotPair (x : X) (t : Nat) : Res (List Nat × X) := do
  let (lo, x1) ← x.slotWords t
  let (hi, x2) ← x1.slotWords (t + 1)
  return (List.zipWith (fun a b => a + b * 2 ^ 32) lo hi, x2)

/-- A slot pair written with 1,024 encodings. -/
def X.setSlotPair (x : X) (t : Nat) (es : List Nat) : X :=
  (x.setSlotWords t (es.map (· % 2 ^ 32))).setSlotWords (t + 1) (es.map (· / 2 ^ 32))

/-! ### Committing and stopping -/

/-- The core with the view's copies written back. -/
def X.commit (x : X) : Core :=
  let cx := { x.cx with
    strands := if x.ended then eraseKey x.i x.cx.strands else insertKey x.i x.r x.cx.strands
    tiles := insertKey x.i x.tm x.cx.tiles
    num := { x.num with fpflags := x.num.fpflags ||| x.flags } }
  x.c.setCtx x.k cx

/-- The packet of a remote flag operation (R278): ARG is the operand; the data give the operation (0 to 3 FWAIT's
comparisons, 4 FADD, 5 FCAS, 6 FSET) and FCAS's new value (log 23, DESIGN CHOICE). -/
def X.flagPacket (x : X) (a kind v v2 tag : Nat) : Packet := x.packet a 5 tag v (leBytes 8 kind ++ leBytes 8 v2)

/-- The request a wait on another module needs (R278), if it is one: its address, the bytes it asks for, and its packet. -/
def X.request (x : X) (w : Wait) : Option (Nat × Nat × (Nat → Packet)) :=
  match w with
  | .remote a n => some (a, n, fun t => x.packet a 1 t 0 (leBytes 4 n))
  | .panels a n => if x.here a then none else some (a, n, fun t => x.packet a 1 t 0 (leBytes 4 n))
  | .remoteFlag a kind v v2 => some (a, 8, x.flagPacket a kind v v2)
  | _ => none

/-- The view with the request of a wait sent for `who`; a request still on its way for the same wait is not repeated
(R108). -/
def X.askFor (x : X) (who : Asker) (w : Wait) : X :=
  match x.request w with
  | none => x
  | some (a, n, p) =>
    if x.c.reqs.any (fun q => q.who == who && q.wait == some w) then x
    else { x with c := { x.c with
      out := .packet (x.link a) (p (x.c.tagAt 0)) :: x.c.out, nextTag := x.c.tagAt 1
      reqs := x.c.reqs ++ [{ tag := x.c.tagAt 0, who := who, dest := devOf a, left := n, wait := some w, pc := x.r.pc.toNat }] } }

/-- The view with the request of its own wait sent. -/
def X.ask (x : X) (w : Wait) : X := x.askFor x.asker w

/-- The view with the instruction held at a wait; its pc stays and its request is sent. -/
def X.hold (x : X) (w : Wait) (body : Body) : Core :=
  ({ x with r := { x.r with held := some ⟨w, x.op, body, x.trapOn⟩ } }.ask w).commit

/-- The view after the instruction completed: pc advanced (R117), the wait and the returned bytes dropped. -/
def X.finish (x : X) : X :=
  { x with r := { x.r with pc := BitVec.ofNat 64 (x.jump.getD (x.r.pc.toNat + 16)), held := none, arrived := [], prg := 0, list := {} } }

/-- The view of a strand. -/
def viewOf (env : Env) (c : Core) (k i op : Nat) : Option X :=
  match lookup c.ctxs k with
  | none => none
  | some cx =>
    match lookup cx.strands i with
    | none => none
    | some r => some { c := c, env := env, k := k, i := i, cx := cx, r := r, tm := (lookup cx.tiles i).getD {}, num := cx.num, op := op,
                        trapOn := cx.num.nantrap }

/-- Whether a context's strands may issue: resident, not being stopped, not held by a fault or a trap (R58, R88, R107). -/
def Context.live (cx : Context) : Bool := cx.slot.isSome && cx.moving == .none && !cx.faulted && cx.trap.isNone

/-- Whether a strand may issue an instruction: its context is live, it is placed, and it waits for nothing. -/
def X.ready (x : X) : Bool := x.cx.live && x.r.me.isSome && x.r.held.isNone

end Sys2Proof.Machine
end

