-- ==== Sys2Proof/Machine/Float.lean ====
section
/-!
DEFINITION. Number formats (02_number_formats.md): codes, rounding (R46), conversions (R47 to R49, R420), zeros,
comparisons and ordering (R50 to R52), group scales (R40, R42), and the IEEE operations of the row unit and the engines.
-/
namespace Sys2Proof.Machine

/-- A floating value: a NaN, an infinity, or `(-1)^neg * m * 2^e` (R33). -/
inductive Num where
  | nan (sig : Bool)
  | inf (neg : Bool)
  | fin (neg : Bool) (m : Nat) (e : Int)
deriving DecidableEq, Repr

/-- The special codes of a floating format (R33). -/
inductive Specials where
  | ieee
  | nanOnly
  | absent
deriving DecidableEq, Repr

/-- Layout of a floating format (Table 2.1). -/
structure FloatFmt where
  ebits : Nat
  mbits : Nat
  bias : Int
  spec : Specials
deriving DecidableEq, Repr

def fp64 : FloatFmt := ⟨11, 52, 1023, .ieee⟩
def fp32 : FloatFmt := ⟨8, 23, 127, .ieee⟩
/-- The ACC format of the accumulators (R69). -/
def accFmt : FloatFmt := ⟨11, 40, 1023, .ieee⟩

/-- The floating format of FMT codes 0x0 to 0x8 (Table 2.1). -/
def floatFmt : Nat → FloatFmt
  | 0 => fp64
  | 1 => fp32
  | 2 => ⟨5, 10, 15, .ieee⟩
  | 3 => ⟨8, 7, 127, .ieee⟩
  | 4 => ⟨5, 2, 15, .ieee⟩
  | 5 => ⟨4, 3, 7, .nanOnly⟩
  | 6 => ⟨3, 2, 3, .absent⟩
  | 7 => ⟨2, 3, 1, .absent⟩
  | _ => ⟨2, 1, 1, .absent⟩

/-- Whether an FMT code names a floating format. -/
def isFloat (fmt : Nat) : Bool := fmt ≤ 8

/-- Width in bits of an element of an FMT code (Table 2.1); 0 for the reserved code. -/
def fmtWidth (fmt : Nat) : Nat := [64, 32, 16, 16, 8, 8, 6, 6, 4, 32, 16, 8, 8, 4, 8].getD fmt 0

/-- Least value of an integer format (Table 2.3); S8 converts as U8 (R420). -/
def intMin (fmt : Nat) : Int := if fmt = 12 ∨ fmt = 14 then 0 else -(2 : Int) ^ (fmtWidth fmt - 1)

/-- Greatest value of an integer format (Table 2.3). -/
def intMax (fmt : Nat) : Int := if fmt = 12 ∨ fmt = 14 then 255 else (2 : Int) ^ (fmtWidth fmt - 1) - 1

/-- Exponent field of the largest finite code (R46's emax_code). -/
def FloatFmt.emaxCode (f : FloatFmt) : Nat :=
  match f.spec with
  | .ieee => 2 ^ f.ebits - 2
  | _ => 2 ^ f.ebits - 1

/-- Fraction field of the largest finite code (R46's fmax). -/
def FloatFmt.fmax (f : FloatFmt) : Nat :=
  match f.spec with
  | .nanOnly => 2 ^ f.mbits - 2
  | _ => 2 ^ f.mbits - 1

/-- A code from its fields. -/
def FloatFmt.encode (f : FloatFmt) (neg : Bool) (ex fr : Nat) : Nat :=
  (if neg then 2 ^ (f.ebits + f.mbits) else 0) + ex * 2 ^ f.mbits + fr

/-- The largest finite code of a sign. -/
def FloatFmt.maxCode (f : FloatFmt) (neg : Bool) : Nat := f.encode neg f.emaxCode f.fmax

/-- The canonical NaN (Table 2.2, R36). -/
def FloatFmt.nanCode (f : FloatFmt) : Nat :=
  match f.spec with
  | .ieee => f.encode false (2 ^ f.ebits - 1) (2 ^ (f.mbits - 1))
  | .nanOnly => f.encode false (2 ^ f.ebits - 1) (2 ^ f.mbits - 1)
  | .absent => 0

/-- Infinity of a sign. -/
def FloatFmt.infCode (f : FloatFmt) (neg : Bool) : Nat := f.encode neg (2 ^ f.ebits - 1) 0

/-- The value of a code (R33 to R35). (log 81, DEDUCED) -/
def FloatFmt.decode (f : FloatFmt) (code : Nat) : Num :=
  let neg := bit code (f.ebits + f.mbits)
  let ex := bits code f.mbits f.ebits
  let fr := bits code 0 f.mbits
  let special : Bool := match f.spec with
    | .ieee => decide (ex = 2 ^ f.ebits - 1)
    | .nanOnly => decide (ex = 2 ^ f.ebits - 1 ∧ fr = 2 ^ f.mbits - 1)
    | .absent => false
  match f.spec, special with
  | .ieee, true => if fr = 0 then .inf neg else .nan (!bit fr (f.mbits - 1))
  | .nanOnly, true => .nan false
  | _, _ =>
    if ex = 0 then .fin neg fr (1 - f.bias - f.mbits)
    else .fin neg (2 ^ f.mbits + fr) ((ex : Int) - f.bias - f.mbits)

/-- The result of an overflow (Table 2.6) with its flags. -/
def overflowTo (f : FloatFmt) (mode : Nat) (sat neg : Bool) : Nat × Ev :=
  let base := fOVERFLOW ||| fINEXACT
  let away := mode = 0 ∨ mode = 4 ∨ (mode = 2 ∧ neg = false) ∨ (mode = 3 ∧ neg = true)
  if ¬ away then (f.maxCode neg, ⟨base, 0⟩)
  else match f.spec, sat with
    | .ieee, false => (f.infCode neg, ⟨base, 0⟩)
    | .nanOnly, false => (f.nanCode, ⟨base, 7⟩)
    | _, _ => (f.maxCode neg, ⟨base ||| fSATUR, 0⟩)

/-- Leading 64 significant bits with the rest folded into bit 0 (R46's sig); `m` is not 0. (log 42, DEDUCED) -/
def sig64 (m : Nat) : Nat :=
  let l := Nat.log2 m + 1
  if l ≤ 64 then m * 2 ^ (64 - l)
  else m / 2 ^ (l - 64) ||| (if m % 2 ^ (l - 64) = 0 then 0 else 1)

/-- Ulps kept and 64-bit remainder of an ulp for a right shift of `sig` (R46). (log 42, DEDUCED) -/
def keptRest (sig shift : Nat) : Nat × Nat :=
  if shift ≤ 63 then (sig / 2 ^ shift, sig * 2 ^ (64 - shift) % 2 ^ 64)
  else if shift = 64 then (0, sig)
  else (0, (sig / 2 ^ min (shift - 64) 63) ||| 1)

/-- Whether the kept ulps go up by one, by RMODE (Table 2.5, R46); `u` is the Tinder word of SR. -/
def roundUp (mode : Nat) (neg : Bool) (kept r64 u : Nat) : Bool :=
  match mode with
  | 0 => r64 > 2 ^ 63 || (r64 = 2 ^ 63 && kept % 2 = 1)
  | 2 => r64 ≠ 0 && !neg
  | 3 => r64 ≠ 0 && neg
  | 4 => r64 / 2 ^ 32 + u ≥ 2 ^ 32
  | _ => false

/-- round_to_format (R46) of an exact finite value into a floating format. (log 42, DEDUCED) -/
def roundFin (f : FloatFmt) (mode : Nat) (sat : Bool) (u : Nat) (neg : Bool) (m : Nat) (e : Int) : Nat × Ev :=
  if m = 0 then (f.encode neg 0 0, Ev.none) else
  let sig := sig64 m
  let lead : Int := e + (Nat.log2 m : Int)
  let emin : Int := 1 - f.bias
  let q0 := if lead < emin then emin else lead
  let shift := (63 - (f.mbits : Int) + (q0 - lead)).toNat
  let (k0, r64) := keptRest sig shift
  let k1 := k0 + (if roundUp mode neg k0 r64 u then 1 else 0)
  let (k, q) := if k1 = 2 ^ (f.mbits + 1) then (k1 / 2, q0 + 1) else (k1, q0)
  let ev : Ev := ⟨flagIf (r64 ≠ 0) fINEXACT ||| flagIf (lead < emin && r64 ≠ 0) fUNDERFLOW, 0⟩
  if k = 0 then (f.encode neg 0 0, ev)
  else if k < 2 ^ f.mbits then (f.encode neg 0 k, ev)
  else
    let ex := q + f.bias
    let fr := k - 2 ^ f.mbits
    if ex > f.emaxCode ∨ (ex = f.emaxCode ∧ fr > f.fmax) then overflowTo f mode sat neg
    else (f.encode neg ex.toNat fr, ev)

/-- Conversion into a floating format (R46, R47). -/
def roundNum (f : FloatFmt) (mode : Nat) (sat : Bool) (u : Nat) : Num → Nat × Ev
  | .fin neg m e => roundFin f mode sat u neg m e
  | .inf neg =>
    match f.spec, sat with
    | .ieee, _ => (f.infCode neg, Ev.none)
    | .nanOnly, false => (f.nanCode, ⟨0, 7⟩)
    | _, _ => (f.maxCode neg, ⟨fSATUR, 0⟩)
  | .nan sig =>
    match f.spec with
    | .absent => (0, ⟨fINVALID ||| fNANLOST, if sig then 6 else 0⟩)
    | _ => (f.nanCode, if sig then Ev.snan else Ev.none)

/-- A value rounded to an integer under RMODE, with INEXACT when it was rounded (R48). -/
def roundToInt (mode : Nat) (u : Nat) (neg : Bool) (m : Nat) (e : Int) : Int × FpFlags :=
  if 0 ≤ e then ((if neg then -1 else 1) * (m : Int) * 2 ^ e.toNat, 0)
  else
    let sh := (-e).toNat
    let kept := m / 2 ^ sh
    let rest := m % 2 ^ sh
    let r64 := if sh ≤ 64 then rest * 2 ^ (64 - sh)
      else rest / 2 ^ (sh - 64) ||| (if rest % 2 ^ (sh - 64) = 0 then 0 else 1)
    let k := kept + (if roundUp mode neg kept r64 u then 1 else 0)
    ((if neg then -1 else 1) * (k : Int), flagIf (r64 ≠ 0) fINEXACT)

/-- An integer brought into an integer format: clamp under SAT, else modulo (R48). -/
def narrowInt (fmt : Nat) (sat : Bool) (z : Int) : Nat × Ev :=
  if intMin fmt ≤ z ∧ z ≤ intMax fmt then (encInt (fmtWidth fmt) z, Ev.none)
  else if sat then (encInt (fmtWidth fmt) (if z < 0 then intMin fmt else intMax fmt), ⟨fSATUR, 0⟩)
  else (encInt (fmtWidth fmt) z, Ev.none)

/-- A floating value converted to an integer format (R47, R48). (log 69, DEDUCED) -/
def numToInt (fmt mode : Nat) (sat : Bool) (u : Nat) : Num → Nat × Ev
  | .nan sig => (0, ⟨fINVALID ||| fNANLOST, if sig then 6 else 0⟩)
  | .inf neg => (encInt (fmtWidth fmt) (if neg then intMin fmt else intMax fmt), ⟨fINVALID ||| fSATUR, 0⟩)
  | .fin neg m e =>
    let (z, fl) := roundToInt mode u neg m e
    let (c, ev) := narrowInt fmt sat z
    if intMin fmt ≤ z ∧ z ≤ intMax fmt then (c, ⟨fl, 0⟩) else (c, ⟨fl ||| fINVALID ||| ev.flags, 0⟩)

/-- A value on its way into a tensor element: floating or integer. -/
inductive Val where
  | f (x : Num)
  | i (z : Int)
deriving DecidableEq, Repr

/-- An integer as an exact floating value. -/
def numOfInt (z : Int) : Num := .fin (z < 0) z.natAbs 0

/-- The floating reading of a value. -/
def Val.num : Val → Num
  | .f x => x
  | .i z => numOfInt z

/-- Conversion of a value into an element of format `fmt` (R46 to R49, R420). -/
def convert (fmt mode : Nat) (sat : Bool) (u : Nat) (v : Val) : Nat × Ev :=
  if isFloat fmt then roundNum (floatFmt fmt) mode sat u v.num
  else match v with
    | .i z => narrowInt fmt sat z
    | .f x => numToInt fmt mode sat u x

/-- The value of an element code; S8 codes and integer codes are integers (R38, R420). -/
def elemVal (fmt code : Nat) : Val :=
  if isFloat fmt then .f ((floatFmt fmt).decode code)
  else if fmt = 12 ∨ fmt = 14 then .i (code % 256 : Nat)
  else .i (signed code (fmtWidth fmt))

/-- `x` times 2^k, exact. -/
def Num.scale (x : Num) (k : Int) : Num :=
  match x with
  | .fin n m e => .fin n m (e + k)
  | y => y

/-- A value times the factor of an S8 code; code 255 makes it a quiet NaN (R40). -/
def scaled (x : Num) (code : Nat) : Num := if code = 255 then .nan false else x.scale ((code : Int) - 127)

/-- Whether a value is a NaN. -/
def Num.isNan : Num → Bool
  | .nan _ => true
  | _ => false

/-- Whether a value is a signalling NaN. -/
def Num.isSnan : Num → Bool
  | .nan s => s
  | _ => false

/-- Whether a value is zero of either sign. -/
def Num.isZero : Num → Bool
  | .fin _ m _ => m = 0
  | _ => false

/-- Sign of a value that is not a NaN. -/
def Num.neg? : Num → Bool
  | .nan _ => false
  | .inf n => n
  | .fin n _ _ => n

/-- The value negated. -/
def Num.negate : Num → Num
  | .nan s => .nan s
  | .inf n => .inf (!n)
  | .fin n m e => .fin (!n) m e

/-- The magnitude of a value. -/
def Num.abs : Num → Num
  | .nan s => .nan s
  | .inf _ => .inf false
  | .fin _ m e => .fin false m e

/-- An exact sum of dyadic rationals as numerator and exponent. -/
def dyAdd (a b : Int × Int) : Int × Int :=
  if a.1 = 0 then b else if b.1 = 0 then a
  else
    let e := min a.2 b.2
    (a.1 * 2 ^ (a.2 - e).toNat + b.1 * 2 ^ (b.2 - e).toNat, e)

/-- Numerator and exponent of a finite value; (0, 0) for the others. -/
def Num.dy : Num → Int × Int
  | .fin n m e => (if n then -(m : Int) else (m : Int), e)
  | _ => (0, 0)

/-- Exact comparison of two dyadic rationals. -/
def dyLt (a b : Int × Int) : Bool :=
  let e := min a.2 b.2
  a.1 * 2 ^ (a.2 - e).toNat < b.1 * 2 ^ (b.2 - e).toNat

/-- A NaN result of operands that hold a NaN: INVALID and cause 6 for a signalling operand (R51, Table 2.14). -/
def nanOf (l : List Num) : Num × Ev := (.nan false, if l.any Num.isSnan then Ev.snan else Ev.none)

/-- The exact sum of a list of addends; an exact zero takes the sign of R71 under `rdn`; ∞ − ∞ creates a NaN of `cause`. -/
def sumN (rdn : Bool) (cause : Nat) (l : List Num) : Num × Ev :=
  if l.any Num.isNan then nanOf l
  else
    let pinf := l.any (· == .inf false)
    let ninf := l.any (· == .inf true)
    if pinf && ninf then (.nan false, ⟨fINVALID, cause⟩)
    else if pinf then (.inf false, Ev.none)
    else if ninf then (.inf true, Ev.none)
    else
      let s := l.foldl (fun a x => dyAdd a x.dy) (0, 0)
      if s.1 = 0 then (.fin (rdn || l.all (fun x => x.isZero && x.neg?)) 0 0, Ev.none)
      else (.fin (s.1 < 0) s.1.natAbs s.2, Ev.none)

/-- The exact product; 0 × ∞ creates a NaN of `cause` (Table 2.14). -/
def mulN (cause : Nat) (a b : Num) : Num × Ev :=
  match a, b with
  | .nan _, _ => nanOf [a, b]
  | _, .nan _ => nanOf [a, b]
  | .inf n, y => if y.isZero then (.nan false, ⟨fINVALID, cause⟩) else (.inf (n != y.neg?), Ev.none)
  | x, .inf n => if x.isZero then (.nan false, ⟨fINVALID, cause⟩) else (.inf (n != x.neg?), Ev.none)
  | .fin n m e, .fin n' m' e' => (.fin (n != n') (m * m') (e + e'), Ev.none)

/-- The exact fusedMultiplyAdd with the causes of its two invalid cases (0 × ∞, ∞ − ∞); a quiet NaN operand with no
signalling one is never an invalid operation (02, "The NaN trap"). -/
def fmaCause (cp cs : Nat) (rdn : Bool) (a b c : Num) : Num × Ev :=
  if a.isNan || b.isNan || c.isNan then nanOf [a, b, c]
  else
    let (p, ev) := mulN cp a b
    if p.isNan then (p, ev)
    else sumN (rdn && !(p.isZero && !p.neg? && c.isZero && !c.neg?)) cs [p, c]

/-- The row unit's fusedMultiplyAdd: both invalid cases have cause 0x0003 (Table 2.14). -/
def fmaN (rdn : Bool) (a b c : Num) : Num × Ev := fmaCause 3 3 rdn a b c

/-- The quotient with a sticky low bit, at least 66 significant bits. -/
def divN (a b : Num) : Num × Ev :=
  match a, b with
  | .nan _, _ => nanOf [a, b]
  | _, .nan _ => nanOf [a, b]
  | .inf _, .inf _ => (.nan false, ⟨fINVALID, 3⟩)
  | .inf n, y => (.inf (n != y.neg?), Ev.none)
  | x, .inf n => (.fin (n != x.neg?) 0 0, Ev.none)
  | .fin n m e, .fin n' m' e' =>
    if m' = 0 then
      if m = 0 then (.nan false, ⟨fINVALID, 3⟩) else (.inf (n != n'), ⟨fDIVZERO, 0⟩)
    else if m = 0 then (.fin (n != n') 0 0, Ev.none)
    else
      let k := 68 + Nat.log2 m' - min (Nat.log2 m) (67 + Nat.log2 m')
      let q := m * 2 ^ k / m'
      let st := if m * 2 ^ k % m' = 0 then 0 else 1
      (.fin (n != n') (2 * q + st) (e - e' - k - 1), Ev.none)

/-- The square root with a sticky low bit; a negative value is invalid (cause 3). -/
def sqrtN (a : Num) : Num × Ev :=
  match a with
  | .nan _ => nanOf [a]
  | .inf false => (a, Ev.none)
  | .inf true => (.nan false, ⟨fINVALID, 3⟩)
  | .fin n m e =>
    if m = 0 then (a, Ev.none)
    else if n then (.nan false, ⟨fINVALID, 3⟩)
    else
      let k : Nat := 140 + (if (e % 2) = 0 then 0 else 1)
      let m' := m * 2 ^ k
      let r := isqrt m'
      (.fin false (2 * r + (if r * r = m' then 0 else 1)) ((e - (k : Int)) / 2 - 1), Ev.none)

/-- IEEE 754-2019 order of two values that are not NaNs, −0 below +0 (R51's maximum and minimum). -/
def ltTotal (a b : Num) : Bool :=
  match a, b with
  | .inf true, .inf true => false
  | .inf true, _ => true
  | .inf false, _ => false
  | _, .inf false => true
  | _, .inf true => false
  | _, _ =>
    if a.isZero && b.isZero then a.neg? && !b.neg?
    else dyLt a.dy b.dy

/-- IEEE maximum (R51). -/
def maxN (a b : Num) : Num × Ev :=
  if a.isNan || b.isNan then nanOf [a, b] else (if ltTotal a b then b else a, Ev.none)

/-- IEEE minimum (R51). -/
def minN (a b : Num) : Num × Ev :=
  if a.isNan || b.isNan then nanOf [a, b] else (if ltTotal b a then b else a, Ev.none)

/-- The relation of two values: `none` when unordered; −0 equals +0 (R51). -/
def cmpN (a b : Num) : Option Ordering :=
  if a.isNan || b.isNan then none
  else if a.isZero && b.isZero then some .eq
  else if ltTotal a b then some .lt else if ltTotal b a then some .gt else some .eq

/-- Flags of a comparison: a signalling NaN operand sets INVALID (R51) and creates no value, cause 6. -/
def cmpEv (a b : Num) : Ev := if a.isSnan || b.isSnan then Ev.snan else Ev.none

/-- An exact result rounded with RNE into a format, its events joined. -/
def rne (f : FloatFmt) (x : Num × Ev) : Nat × Ev :=
  let (c, ev) := roundNum f 0 false 0 x.1
  (c, Ev.join x.2 ev)

/-- The value of an FP32 code. -/
def d32 (c : Nat) : Num := fp32.decode c
/-- The value of an FP64 code. -/
def d64 (c : Nat) : Num := fp64.decode c

/-- Addition of two codes of a format, RNE. -/
def addC (f : FloatFmt) (a b : Nat) : Nat × Ev := rne f (sumN false 3 [f.decode a, f.decode b])
/-- Subtraction of two codes. -/
def subC (f : FloatFmt) (a b : Nat) : Nat × Ev :=
  let (x, y) := (f.decode a, f.decode b)
  rne f (sumN false 3 [x, y.negate])
/-- Product of two codes. -/
def mulC (f : FloatFmt) (a b : Nat) : Nat × Ev := rne f (mulN 3 (f.decode a) (f.decode b))
/-- fusedMultiplyAdd of three codes. -/
def fmaC (f : FloatFmt) (a b c : Nat) : Nat × Ev := rne f (fmaN false (f.decode a) (f.decode b) (f.decode c))
/-- Quotient of two codes. -/
def divC (f : FloatFmt) (a b : Nat) : Nat × Ev := rne f (divN (f.decode a) (f.decode b))
/-- Square root of a code. -/
def sqrtC (f : FloatFmt) (a : Nat) : Nat × Ev := rne f (sqrtN (f.decode a))
/-- IEEE maximum of two codes. -/
def maxC (f : FloatFmt) (a b : Nat) : Nat × Ev := rne f (maxN (f.decode a) (f.decode b))
/-- IEEE minimum of two codes. -/
def minC (f : FloatFmt) (a b : Nat) : Nat × Ev := rne f (minN (f.decode a) (f.decode b))

/-- Position of an FP32 code under IEEE totalOrder, a number that rises with it (R52). -/
def totalKey32 (c : Nat) : Int := if bit c 31 then -((c % 2 ^ 31 : Nat) : Int) - 1 else (c : Int)

/-- The scale code chosen for a group of values (R42): `max` is the largest finite value of the destination format. -/
def chooseScale (fmt : Nat) (xs : List Num) : Nat :=
  if xs.any Num.isNan then 255
  else if xs.any (fun x => x == .inf false || x == .inf true) then 254
  else
    let a := xs.foldl (fun (acc : Int × Int) x => let y := x.abs.dy; if dyLt acc y then y else acc) (0, 0)
    if a.1 = 0 then 127
    else
      let mx : Int × Int := if isFloat fmt then ((floatFmt fmt).decode ((floatFmt fmt).maxCode false)).dy else (intMax fmt, 0)
      ((List.range 255).find? (fun (e : Nat) => !dyLt (mx.1, mx.2 + ((e : Int) - 127)) a)).getD 254

/-- The canonical tree of R73 over a list: adjacent pairs, an odd one carried up; `fuel` bounds the levels. -/
def treeLevel {α : Type} (op : α → α → α) : List α → List α
  | a :: b :: t => op a b :: treeLevel op t
  | l => l

/-- The canonical tree reduced to one value; `none` of an empty list. -/
def treeFold {α : Type} (op : α → α → α) : Nat → List α → Option α
  | 0, l => l.head?
  | fuel + 1, l => if l.length ≤ 1 then l.head? else treeFold op fuel (treeLevel op l)

/-- canonical_sum of R73 over codes with a rounding operation, its events joined. -/
def treeC (op : Nat → Nat → Nat × Ev) (l : List Nat) (dflt : Nat) : Nat × Ev :=
  (treeFold (fun (a b : Nat × Ev) => let r := op a.1 b.1; (r.1, Ev.join (Ev.join a.2 b.2) r.2)) l.length
    (l.map (fun x => (x, Ev.none)))).getD (dflt, Ev.none)

end Sys2Proof.Machine
end

