-- ==== Sys2Proof/Machine/Trans.lean ====
section
/-!
DEFINITION. The correctly rounded transcendental functions (R184, R185, R225) in fixed point of 320 fraction bits, and
Tinder-128 (R221, R224). The fixed-point error is far below what separates a result from a rounding boundary (log 11, DEDUCED).
-/
namespace Sys2Proof.Machine

/-- Fraction bits of the fixed-point values. -/
def fxP : Nat := 320

/-- Sum of z^(2k+1) / (2k+1), k from `k`, the terms alternating in sign when `alt`; `t` is z^(2k+1). -/
def oddSeries (alt : Bool) (z2 : Nat) : Nat → Nat → Nat → Int → Int
  | 0, _, _, acc => acc
  | fuel + 1, k, t, acc =>
    if t = 0 then acc
    else oddSeries alt z2 fuel (k + 1) (t * z2 / 2 ^ fxP)
      (if alt && k % 2 == 1 then acc - ((t / (2 * k + 1) : Nat) : Int) else acc + ((t / (2 * k + 1) : Nat) : Int))

/-- atanh of a fixed-point value in [0, 1/2]. -/
def atanhFx (z : Nat) : Nat := (oddSeries false (z * z / 2 ^ fxP) 200 0 z 0).toNat

/-- atan of 1/n. -/
def atanInv (n : Nat) : Int := oddSeries true (2 ^ fxP / (n * n)) 200 0 (2 ^ fxP / n) 0

/-- ln 2. -/
def ln2Fx : Nat := 2 * atanhFx (2 ^ fxP / 3)

/-- The square root of 2π. -/
def sqrt2pi : Nat := isqrt ((2 * (16 * atanInv 5 - 4 * atanInv 239)).toNat * 2 ^ fxP)

/-- Taylor sum of e^z from term `k`; `t` is z^k / k!. -/
def expSeries (z : Nat) : Nat → Nat → Nat → Nat → Nat
  | 0, _, _, acc => acc
  | fuel + 1, k, t, acc => if t = 0 then acc else expSeries z fuel (k + 1) (t * z / 2 ^ fxP / (k + 1)) (acc + t)

/-- 2^f of a fixed-point fraction, at least 1 and below 2. -/
def exp2Fx (f : Nat) : Nat := expSeries (f * ln2Fx / 2 ^ fxP) 120 0 (2 ^ fxP) 0

/-- VEXP2 of an FP32 code (R184, Table 8.1). (log 11, DEDUCED) -/
def vexp2 (c : Nat) : Nat × Ev :=
  match d32 c with
  | .nan s => (fp32.nanCode, if s then Ev.snan else Ev.none)
  | .inf true => (0, Ev.none)
  | .inf false => (fp32.infCode false, Ev.none)
  | .fin neg m e =>
    if m = 0 then (0x3F800000, Ev.none) else
    let mag : Nat := if 0 ≤ e then m * 2 ^ (min e 300).toNat * 2 ^ fxP else m * 2 ^ (fxP - (-e).toNat)
    -- every FP32 value is a multiple of 2^-149, so `mag` is exact
    if neg && 150 * 2 ^ fxP ≤ mag then (0, ⟨fUNDERFLOW ||| fINEXACT, 0⟩)
    else if !neg && 128 * 2 ^ fxP ≤ mag then (fp32.infCode false, ⟨fOVERFLOW ||| fINEXACT, 0⟩)
    else
      let z : Int := if neg then -(mag : Int) else mag
      let n : Int := z / 2 ^ fxP
      let f : Nat := (z % 2 ^ fxP).toNat
      if f = 0 then roundFin fp32 0 false 0 false 1 n
      else roundFin fp32 0 false 0 false (2 * exp2Fx f + 1) (n - fxP - 1)

/-- log2 of a fixed-point value in [1, 2). -/
def log2Fx (m : Nat) : Nat :=
  let l := 2 * atanhFx ((m - 2 ^ fxP) * 2 ^ fxP / (m + 2 ^ fxP))
  l * 2 ^ fxP / ln2Fx

/-- VLOG2 of an FP32 code (R185, Table 8.1). (log 11, DEDUCED) -/
def vlog2 (c : Nat) : Nat × Ev :=
  match d32 c with
  | .nan s => (fp32.nanCode, if s then Ev.snan else Ev.none)
  | .inf true => (fp32.nanCode, ⟨fINVALID, 4⟩)
  | .inf false => (fp32.infCode false, Ev.none)
  | .fin neg m e =>
    if m = 0 then (fp32.infCode true, ⟨fDIVZERO, 0⟩)
    else if neg then (fp32.nanCode, ⟨fINVALID, 4⟩)
    else
      let lg := Nat.log2 m
      let n : Int := e + lg
      let frac := log2Fx (m * 2 ^ (fxP - lg))
      if m = 2 ^ lg then roundFin fp32 0 false 0 (n < 0) n.natAbs 0
      else
        let v : Int := n * 2 ^ fxP + frac
        roundFin fp32 0 false 0 (v < 0) (2 * v.natAbs + 1) (-(fxP : Int) - 1)

/-- Sum of the series of Φ(x) − 1/2 times √(2π): Σ (−1)^k x^(2k+1) / (2^k k! (2k+1)). -/
def phiSeries (x2 : Nat) : Nat → Nat → Nat → Int → Int
  | 0, _, _, acc => acc
  | fuel + 1, k, t, acc =>
    if t = 0 then acc
    else phiSeries x2 fuel (k + 1) (t * x2 / 2 ^ fxP / (2 * (k + 1)))
      (if k % 2 = 1 then acc - ((t / (2 * k + 1) : Nat) : Int) else acc + ((t / (2 * k + 1) : Nat) : Int))

/-- Bisection for the largest multiple of 2^-128 whose series does not exceed the target. -/
def probitGo (target : Nat) : Nat → Nat → Nat
  | 0, x => x
  | b + 1, x =>
    let y := x + 2 ^ b
    let xf := y * 2 ^ (fxP - 128)
    if phiSeries (xf * xf / 2 ^ fxP) 400 0 xf 0 ≤ (target : Int) then probitGo target b y else probitGo target b x

/-- Uniform FP32 value of a Tinder word (R224). -/
def uniform32 (w : Nat) : Nat := (roundFin fp32 0 false 0 false (2 * (w / 2 ^ 9) + 1) (-24)).1

/-- Normal FP32 value of a Tinder word (R225): Φ⁻¹ of its uniform value; INEXACT. (log 11, DEDUCED) -/
def normal32 (w : Nat) : Nat × Ev :=
  let n := 2 * (w / 2 ^ 9) + 1
  let neg := n < 2 ^ 23
  let d := if neg then 2 ^ 23 - n else n - 2 ^ 23
  let x := probitGo (d * sqrt2pi / 2 ^ 24) 131 0
  ((roundFin fp32 0 false 0 neg (2 * x + 1) (-129)).1, ⟨fINEXACT, 0⟩)

/-- 32-bit left rotation. -/
def rotl32 (x n : Nat) : Nat := x * 2 ^ n % 2 ^ 32 + x / 2 ^ (32 - n)

/-- Words modulo 2^32. -/
def w32 (x : Nat) : Nat := x % 2 ^ 32

/-- One round of Tinder-128 (R221) on its four words, key words `k`. -/
def tinderRound (k : List Nat) (x : Nat × Nat × Nat × Nat) (rd : Nat) : Nat × Nat × Nat × Nat :=
  let rot := [(12, 20), (8, 24), (16, 4), (20, 28)].getD (rd % 4) (0, 0)
  let x0 := w32 (x.1 + x.2.1)
  let x1 := rotl32 x.2.1 rot.1 ^^^ x0
  let x2 := w32 (x.2.2.1 + x.2.2.2)
  let x3 := rotl32 x.2.2.2 rot.2 ^^^ x2
  if rd % 4 = 3 then
    let j := (rd + 1) / 4
    let kk := fun i => k.getD ((j + i) % 4) 0
    (w32 ((x0 + kk 0) * 0x01001001), w32 (x3 + kk 1), w32 ((x2 + kk 2) * 0x01001001), w32 (x1 + kk 3 + j))
  else (x0, x3, x2, x1)

/-- Tinder-128 (R221): the four output words. -/
def tinder (seed stream index draw : Nat) : List Nat :=
  let k0 := w32 seed
  let k1 := w32 (seed / 2 ^ 32)
  let k2 := w32 stream
  let k3 := k0 ^^^ k1 ^^^ k2 ^^^ 0x5A17C3E9
  let x := (w32 (index + k0), w32 (w32 (index / 2 ^ 32) + k1), w32 (draw + k2), k3)
  let r := (List.range 12).foldl (tinderRound [k0, k1, k2, k3]) x
  [r.1, r.2.1, r.2.2.1, r.2.2.2]

/-- One word of an evaluation. -/
def tinderWord (seed stream index draw word : Nat) : Nat := (tinder seed stream (index % 2 ^ 64) (draw % 2 ^ 32)).getD word 0

end Sys2Proof.Machine
end

