-- ==== Sys2Proof/Machine/Sieve.lean ====
section
/-!
DEFINITION. The compressed form (11_sieve_and_press.md): code lengths (R242), canonical codes (R240), the coded form of a
block, and decoding with its checks (R245, R249).
-/
namespace Sys2Proof.Machine

/-- Planes of a format (R239). -/
def planesOf (width : Nat) : Nat := if width ≤ 8 then 1 else width / 8

/-- A node of the Huffman forest: its key (weight, order) and the symbols under it with their depths. -/
abbrev HNode := Nat × Nat × List (Nat × Nat)

/-- Insertion by rising key (weight, order). -/
def hInsert (n : HNode) : List HNode → List HNode
  | [] => [n]
  | m :: t => if n.1 < m.1 ∨ (n.1 = m.1 ∧ n.2.1 ≤ m.2.1) then n :: m :: t else m :: hInsert n t

/-- Huffman merging (R242): the two least keys are replaced by their sum; `made` counts internal nodes. -/
def hMerge : Nat → Nat → List HNode → List (Nat × Nat)
  | _, _, [] => []
  | _, _, [n] => n.2.2
  | 0, _, _ => []
  | fuel + 1, made, a :: b :: t =>
    hMerge fuel (made + 1)
      (hInsert (a.1 + b.1, 256 + made, (a.2.2 ++ b.2.2).map (fun s => (s.1, s.2 + 1))) t)

/-- huffman_depths of R242 over weights: 256 lengths. -/
def huffmanDepths (w : List Nat) : List Nat :=
  let leaves := (List.range 256).filterMap (fun s => if w.getD s 0 = 0 then none else some ((w.getD s 0, s, [(s, 0)]) : HNode))
  let ds := hMerge 256 0 (leaves.foldl (fun l n => hInsert n l) [])
  (List.range 256).map (fun s => (lookup ds s).getD 0)

/-- The flattening loop of build_lengths (R242); weights shrink at each turn, so 64 turns suffice. -/
def flattenLens : Nat → List Nat → List Nat
  | 0, w => huffmanDepths w
  | fuel + 1, w =>
    let l := huffmanDepths w
    if l.all (· ≤ 15) then l else flattenLens fuel (w.map (fun x => if x = 0 then 0 else (x + 1) / 2))

/-- build_lengths of R242: code lengths of the 256 symbols from their counts. -/
def buildLengths (h : List Nat) : List Nat :=
  let present := ((List.range 256).filter (fun s => h.getD s 0 ≠ 0))
  match present with
  | [] => List.replicate 256 0
  | [s] => (List.replicate 256 0).set s 1
  | _ => flattenLens 64 h

/-- Canonical codes of RFC 1951, 3.2.2: (symbol, length, code) by rising length then symbol (R240). -/
def canonCodes (lens : List Nat) : List (Nat × Nat × Nat) :=
  ((List.range 15).foldl (fun (r : Nat × List (Nat × Nat × Nat)) l =>
    let len := l + 1
    let syms := (List.range 256).filter (fun s => lens.getD s 0 = len)
    (2 * (r.1 + syms.length), r.2 ++ (List.range syms.length).map (fun i => (syms.getD i 0, len, r.1 + i)))) (0, [])).2

/-- Bits of a code, most significant first. -/
def codeBits (len code : Nat) : List Bool := (List.range len).map (fun i => bit code (len - 1 - i))

/-- Bytes filled from bit 7 down to bit 0, the last padded with zeros (R240). -/
def packBits : Nat → List Bool → List Byte
  | 0, _ => []
  | fuel + 1, l =>
    if l.isEmpty then [] else
      BitVec.ofNat 8 ((List.range 8).foldl (fun a i => 2 * a + (if l.getD i false then 1 else 0)) 0) :: packBits fuel (l.drop 8)

/-- Bits of bytes, bit 7 first. -/
def unpackBits (bs : List Byte) : List Bool := bs.flatMap (fun b => (List.range 8).map (fun i => bit b.toNat (7 - i)))

/-- Decoding of one plane: `want` symbols; answers the symbols and the bits left, or none on an invalid code. -/
def decodePlane (codes : List (Nat × Nat × Nat)) : List Bool → Nat → Nat → Nat → List Nat → Option (List Nat × List Bool)
  | bs, 0, _, _, acc => some (acc.reverse, bs)
  | [], _ + 1, _, _, _ => none
  | b :: t, want + 1, len, code, acc =>
    let code' := 2 * code + (if b then 1 else 0)
    match codes.find? (fun c => c.2.1 == len + 1 && c.2.2 == code') with
    | some c => decodePlane codes t want 0 0 (c.1 :: acc)
    | none => if len + 1 ≥ 15 then none else decodePlane codes t (want + 1) (len + 1) code' acc

/-- Plane p of a block: bytes j · P + p (R239). -/
def planeOf (p planes : Nat) (l : List Byte) : List Byte := (List.range (4096 / planes)).map (fun j => l.getD (j * planes + p) 0)

/-- The coded form of a delta, or none when a symbol has no code or the form reaches 4,032 bytes (R239, R240). -/
def codeBlock (lens : List (List Nat)) (planes : Nat) (delta : List Byte) : Option (List Byte) :=
  let streams := (List.range planes).map (fun p =>
    let codes := canonCodes (lens.getD p [])
    let syms := (planeOf p planes delta).map BitVec.toNat
    if syms.all (fun s => (lens.getD p []).getD s 0 ≠ 0) then
      some (packBits 8192 (syms.flatMap (fun s =>
        match codes.find? (fun c => c.1 == s) with
        | some c => codeBits c.2.1 c.2.2
        | none => [])))
    else none)
  if streams.any Option.isNone then none
  else
    let ss := streams.map (fun s => s.getD [])
    let out := ss.flatMap (fun s => leBytes 2 s.length) ++ ss.flatten
    if out.length < 4032 then some out else none

/-- Decoding of a coded form (R249 check 3): the 4,096 bytes of Δ, or none when the stream is malformed. -/
def uncodeBlock (lens : List (List Nat)) (planes : Nat) (form : List Byte) : Option (List Byte) :=
  let pl := (List.range planes).map (fun p => fld form (2 * p) 2)
  if 2 * planes + pl.sum ≠ form.length then none else
  let ps := (List.range planes).map (fun p =>
    let s := slice form (2 * planes + (pl.take p).sum) (pl.getD p 0)
    match decodePlane (canonCodes (lens.getD p [])) (unpackBits s) (4096 / planes) 0 0 [] with
    | some (syms, rest) => if rest.length < 8 && rest.all (! ·) then some syms else none
    | none => none)
  if ps.any Option.isNone then none
  else
    let ss := ps.map (fun s => s.getD [])
    some ((List.range 4096).map (fun i => BitVec.ofNat 8 ((ss.getD (i % planes) []).getD (i / planes) 0)))

/-- Bytewise exclusive-or. -/
def xorBytes (a b : List Byte) : List Byte := List.zipWith (· ^^^ ·) a b

/-- The resident generation a block names (R245): sealed and current, or previous with a reference. -/
def TSlot.resident (t : TSlot) (gen : Nat) : Option Gen :=
  match t.cur, t.prev with
  | some g, p => if g.num = gen ∧ g.sealed then some g else
      (match p with | some q => if q.num = gen ∧ 0 < q.refs then some q else none | none => none)
  | none, some q => if q.num = gen ∧ 0 < q.refs then some q else none
  | none, none => none

/-- A slot's generation of a number, wherever it stands: the one an accepted request holds a reference on. -/
def TSlot.named (t : TSlot) (gen : Nat) : Option Gen :=
  match t.cur with
  | some g => if g.num = gen then some g else t.prev
  | none => t.prev

/-- Whether partition `part` may use a table slot now (R247). -/
def TSlot.usable (t : TSlot) (part : Nat) : Bool := t.owner == part && t.draining.isNone

/-- DETAIL of compression faults: block address, block index (R249). -/
def blkDetail (a i : Nat) : List Byte := leBytes 8 a ++ leBytes 4 i

/-- Metadata check of R249, item 1. -/
def metaOk (m : List Byte) : Bool :=
  let len := fld m 0 2
  let mode := fld m 2 1
  zeroAt m 5 3 && zeroAt m 12 4 && fld m 3 1 < 16 &&
  (match mode with
   | 0 => len == 0 && zeroAt m 3 2 && zeroAt m 8 4
   | 1 => len == 0 && zeroAt m 3 2
   | 2 => len == 4096 && zeroAt m 3 2
   | 3 => 1 ≤ len && len ≤ 4031 && fld m 4 1 != 0
   | _ => false)

/-- Block `i` of the base: zero beyond F (R236). -/
def Comp.baseBlock (x : X) (p : Comp) (i : Nat) : Res (List Byte × X) := do
  if p.noBase then return (List.replicate 4096 0, x)
  let (b, x1) ← x.load (p.baseRef + 4096 * i) 4096 0 true
  return (slice (b.take (p.size - 4096 * i)) 0 4096, x1)

/-- A decode request's checks as it is accepted (R244, R247, R249 items 1 and 2): its metadata, and the generation it refers
to under MODE 3. -/
def decodeCheck (x : X) (p : Comp) (i : Nat) : Res (List Byte × Option Gen × X) := do
  let det := blkDetail (p.place + 4096 * i) i
  let (m, x1) ← x.load (p.meta' + 16 * i) 16 0 true
  x1.need (metaOk m) 0x0602 0 det
  if fld m 2 1 ≠ 3 then return (m, none, x1)
  let slot := x.c.tslots.toList.getD (fld m 3 1) {}
  x1.need (slot.usable x.cx.part) 0x0606 0 det
  let gen := slot.resident (fld m 4 1)
  x1.need gen.isSome 0x0603 0 det
  return (m, gen, x1)

/-- The block an accepted request delivers (R249 items 3 and 4): stored bytes and base read, the form decoded, the CRC
checked. -/
def decodeBody (x : X) (p : Comp) (i : Nat) (m : List Byte) (gen : Option Gen) : Res (List Byte × X) := do
  let at' := p.place + 4096 * i
  let det := blkDetail at' i
  let mode := fld m 2 1
  if mode = 0 then return (List.replicate 4096 0, x)
  let (st, x2) ← x.load at' (if mode = 1 then 0 else ceilDiv (fld m 0 2) 64 * 64) 0 true
  let (b, x3) ← if mode = 2 then .ok (List.replicate 4096 0, x2) else p.baseBlock x2 i
  let lens := (gen.map Gen.lens).getD []
  let delta := if mode = 3 then uncodeBlock lens p.planes (st.take (fld m 0 2)) else some (List.replicate 4096 0)
  match delta with
  | none => x3.fault 0x0602 0 det
  | some dl =>
    let out := if mode = 1 then b else if mode = 2 then st else xorBytes dl b
    x3.need (crc32c out = fld m 8 4) 0x0604 0 det
    return (out, x3)

/-- A decoded block (R249): the checks in order, then the restored bytes. -/
def decodeBlock (x : X) (p : Comp) (i : Nat) : Res (List Byte × X) := do
  let (m, gen, x1) ← decodeCheck x p i
  decodeBody x1 p i m gen

/-- Bytes `o` to `o + n − 1` of the dense image, decoded block by block; `fuel` bounds the blocks. -/
def Comp.bytes (p : Comp) : Nat → X → Nat → Nat → Res (List Byte × X)
  | 0, x, _, _ => .ok ([], x)
  | fuel + 1, x, o, n => do
    if n = 0 then return ([], x)
    let (blk, x1) ← decodeBlock x p (o / 4096)
    let take := min n (4096 - o % 4096)
    let (rest, x2) ← p.bytes fuel x1 (o + take) (n - take)
    return (slice blk (o % 4096) take ++ rest, x2)

end Sys2Proof.Machine
end

