-- ==== Sys2Proof/Machine/Operands.lean ====
section
/-!
DEFINITION. Instruction fields and their checks (05, R117 to R122, Tables 5.1 to 5.21), tensor descriptors and their checks
(04, R93 to R96), and elements of tensors: addresses, group scales (R41), loads with widening and stores with rounding. (log 20, DEDUCED) -/
namespace Sys2Proof.Machine

/-! ### Instruction fields -/

/-- The fields of an instruction word (Tables 5.1, 5.3 to 5.5). -/
structure Ins where
  cls : Nat
  pred : Nat
  psense : Bool
  op1 : Nat
  op2 : Nat
  op3 : Nat
  op4 : Nat
  res : Nat
  mask : Bool
  func : Nat
  imm : Nat
  ospa : Nat
  ospb : Nat
  n : Nat
  afmt : Nat
  bfmt : Nat
  sca : Bool
  scb : Bool
  recipe : Nat
  rcpen : Bool
  ext : Nat
deriving DecidableEq, Repr

/-- Field `w` bits from bit `lo` of the instruction word, read from its body (bit 8 first). -/
def ib (b : Body) (lo w : Nat) : Nat := bits b.toNat (lo - 8) w

/-- The fields of a body. -/
def insOf (b : Body) : Ins :=
  { cls := ib b 8 4, pred := ib b 12 4, psense := ib b 16 1 == 1, op1 := ib b 17 7, op2 := ib b 24 7, op3 := ib b 31 7,
    op4 := ib b 38 7, res := ib b 45 2, mask := ib b 47 1 == 1, func := ib b 48 8, imm := ib b 56 64, ospa := ib b 56 21,
    ospb := ib b 77 21, n := ib b 98 5 + 1, afmt := ib b 103 4, bfmt := ib b 107 4, sca := ib b 111 1 == 1,
    scb := ib b 112 1 == 1, recipe := ib b 113 6, rcpen := ib b 119 1 == 1, ext := ib b 120 8 }

/-- Kinds of operand registers (R121); `unused` fields are 0, `any` fields are checked by the instruction. -/
inductive Kind where
  | unused | s | d | v | p | t | any | mask
deriving DecidableEq, Repr

/-- The highest register of a kind. -/
def Kind.top : Kind → Nat
  | .unused => 0
  | .s => 31
  | .d => 15
  | .v => 31
  | .p => 7
  | .t => 127
  | .any => 127
  | .mask => 31

/-- What the tables say of an opcode: class, operand kinds, FUNC values, fields of class T it uses, recipes. -/
structure OpSpec where
  cls : Nat
  k1 : Kind := .unused
  k2 : Kind := .unused
  k3 : Kind := .unused
  k4 : Kind := .unused
  func : Nat → Bool := (· == 0)
  tile : Bool := false
  rcp : Bool := false

/-- FUNC values of VALU (Table 5.12). -/
def valuFunc (f : Nat) : Bool := f ≤ 0x0B || (0x10 ≤ f && f ≤ 0x1A) || (0x80 ≤ f && f ≤ 0x89) || f == 0x8C || f == 0x8D

/-- FUNC values of VCMP (Table 5.13). -/
def vcmpFunc (f : Nat) : Bool := f ≤ 6 || (0x10 ≤ f && f ≤ 0x15) || (0x80 ≤ f && f ≤ 0x86)

/-- Tables 5.7, 5.11, 5.14, 5.16, 5.18, 5.19 and 5.21, by opcode. -/
def opSpec (op : Nat) : Option OpSpec :=
  match op with
  | 0x00 => some { cls := 0 }
  | 0x01 => some { cls := 0, k1 := .s, k2 := .s, k3 := .s, func := (· ≤ 0x12) }
  | 0x02 => some { cls := 1, k1 := .s, k2 := .s, func := (· ≤ 0x12) }
  | 0x03 => some { cls := 0, k1 := .p, k2 := .s, k3 := .s, func := (· ≤ 5) }
  | 0x04 => some { cls := 1, k1 := .p, k2 := .s, func := (· ≤ 5) }
  | 0x05 => some { cls := 0, k1 := .p, k2 := .p, k3 := .p, func := (· ≤ 4) }
  | 0x06 => some { cls := 1, k1 := .s }
  | 0x07 => some { cls := 1, k1 := .s, k2 := .s, func := (· ≤ 6) }
  | 0x08 => some { cls := 1, k2 := .s, k3 := .s, func := (· ≤ 3) }
  | 0x10 => some { cls := 1 }
  | 0x11 => some { cls := 1, k1 := .s }
  | 0x12 => some { cls := 0, k2 := .s }
  | 0x13 => some { cls := 0 }
  | 0x20 => some { cls := 0, k1 := .v, k2 := .v, k3 := .v, k4 := .mask, func := valuFunc }
  | 0x21 => some { cls := 0, k1 := .v, k2 := .v, k3 := .v, k4 := .v, func := fun f => f == 0 || f == 0x80 }
  | 0x22 => some { cls := 0, k1 := .v, k2 := .v, k3 := .v, k4 := .mask, func := vcmpFunc }
  | 0x23 => some { cls := 0, k1 := .v, k2 := .v, k3 := .v, k4 := .v }
  | 0x24 => some { cls := 0, k1 := .v, k2 := .v, k4 := .mask, func := fun f => f ≤ 3 || f == 0x80 }
  | 0x25 => some { cls := 0, k1 := .v, k2 := .v, k3 := .v, k4 := .mask }
  | 0x26 => some { cls := 0, k1 := .v, k2 := .s, k4 := .mask }
  | 0x27 => some { cls := 0, k1 := .s, k2 := .v, k3 := .s }
  | 0x28 => some { cls := 0, k1 := .v, k2 := .v, k4 := .mask }
  | 0x29 => some { cls := 0, k1 := .v, k2 := .v, k4 := .mask }
  | 0x2A => some { cls := 0, k1 := .v, k2 := .v, k4 := .mask, func := (· ≤ 3) }
  | 0x2B => some { cls := 0, k1 := .v, k2 := .v, k4 := .mask }
  | 0x30 => some { cls := 0, k1 := .v, k2 := .d, k3 := .s, k4 := .s, func := (· ≤ 1) }
  | 0x31 => some { cls := 0, k1 := .v, k2 := .d, k3 := .s, k4 := .s, func := (· ≤ 1) }
  | 0x32 => some { cls := 0, k1 := .v, k2 := .t, k3 := .s }
  | 0x33 => some { cls := 0, k1 := .v, k2 := .t, k3 := .s, k4 := .mask }
  | 0x40 => some { cls := 1, k1 := .d, k2 := .s }
  | 0x41 => some { cls := 1, k2 := .s, k3 := .d }
  | 0x42 => some { cls := 0, k1 := .d, k2 := .s, func := (· ≤ 7) }
  | 0x43 => some { cls := 0, k1 := .s, k2 := .d, func := (· ≤ 7) }
  | 0x44 => some { cls := 2, k2 := .d, k3 := .s, k4 := .s, func := (· ≤ 2), tile := true }
  | 0x45 => some { cls := 2, k1 := .t, k2 := .d, k3 := .s, k4 := .s, func := (· ≤ 4), tile := true, rcp := true }
  | 0x50 => some { cls := 1, k1 := .t, k2 := .s, k3 := .s }
  | 0x51 => some { cls := 2, k1 := .t, k2 := .s, k3 := .s, k4 := .s, tile := true }
  | 0x52 => some { cls := 2, k1 := .t, k2 := .s, k3 := .s, k4 := .s, tile := true }
  | 0x53 => some { cls := 0, k1 := .t }
  | 0x54 => some { cls := 0, k1 := .t, k2 := .s, k3 := .s }
  | 0x55 => some { cls := 0, k1 := .t, k2 := .s }
  | 0x56 => some { cls := 0, k1 := .t, k2 := .s, k3 := .s }
  | 0x60 => some { cls := 3, k1 := .d, k2 := .d, k3 := .d, k4 := .s, rcp := true }
  | 0x61 => some { cls := 3, k1 := .d, k2 := .d, k3 := .d, k4 := .s, rcp := true }
  | 0x62 => some { cls := 3, k1 := .d, k2 := .d, k3 := .d, k4 := .s, rcp := true }
  | 0x63 => some { cls := 3, k1 := .d, k2 := .d, k3 := .d, k4 := .s, rcp := true }
  | 0x68 => some { cls := 3, k1 := .d, k2 := .d, k4 := .s, rcp := true }
  | 0x70 => some { cls := 0, k2 := .s }
  | 0x71 => some { cls := 3, k1 := .d, k2 := .d, k4 := .s }
  | 0x72 => some { cls := 3, k1 := .d, k2 := .d }
  | 0x73 => some { cls := 3, k1 := .d, k2 := .d, k4 := .s }
  | 0x78 => some { cls := 0, k1 := .v, k2 := .s, k3 := .s, k4 := .s, func := (· ≤ 3) }
  | 0x79 => some { cls := 0, k1 := .v, k2 := .s, k3 := .s, k4 := .s, func := (· ≤ 3) }
  | 0x7A => some { cls := 0, k1 := .v, k2 := .s, k3 := .s, k4 := .s, func := (· ≤ 3) }
  | 0x7B => some { cls := 3, k1 := .d, func := (· ≤ 2) }
  | 0x7C => some { cls := 3, k1 := .s, k2 := .d, k4 := .s }
  | 0x80 => some { cls := 3, k1 := .d, k2 := .d, k3 := .d, k4 := .s }
  | 0x81 => some { cls := 3, k2 := .d, k3 := .d, func := (· ≤ 15) }
  | 0x82 => some { cls := 0, k1 := .s, func := (· ≤ 15) }
  | 0x88 => some { cls := 3, k1 := .d, k2 := .d, k4 := .s, func := (· ≤ 3) }
  | 0x89 => some { cls := 0, k2 := .s, k3 := .s }
  | 0x8A => some { cls := 3, k1 := .d, k2 := .d, k3 := .s, k4 := .s }
  | 0x8B => some { cls := 3, k1 := .d, k2 := .d, k3 := .d, k4 := .s }
  | 0x8C => some { cls := 3, k1 := .d, k2 := .d, k3 := .d, k4 := .s }
  | 0xA0 => some { cls := 0, k2 := .s, k3 := .s, func := (· ≤ 1) }
  | 0xA1 => some { cls := 0, k1 := .s, k2 := .s, k3 := .s, func := (· ≤ 3) }
  | 0xA2 => some { cls := 0, k1 := .s, k2 := .s, k3 := .s, k4 := .s, func := (· ≤ 3) }
  | 0xA3 => some { cls := 0, k2 := .s, k3 := .s, func := fun f => f ≤ 15 && f % 2 == 0 }
  | 0xA4 => some { cls := 1 }
  | 0xA5 => some { cls := 0, func := (· ≤ 1) }
  | 0xB0 => some { cls := 1 }
  | 0xC0 => some { cls := 0, k1 := .s }
  | 0xC1 => some { cls := 0, k1 := .s, func := (· ≤ 2) }
  | 0xC2 => some { cls := 0, k1 := .s, k2 := .s }
  | 0xC3 => some { cls := 0, k2 := .s, k3 := .s }
  | 0xC4 => some { cls := 0 }
  | _ => none

/-- Whether an operand field lies in its kind's range (R121); a mask register is read only with MASK = 1. -/
def kindOk (k : Kind) (mask : Bool) (f : Nat) : Bool :=
  match k with
  | .unused => f == 0
  | .mask => if mask then f ≤ 31 else f == 0
  | k => f ≤ k.top

/-- Operand rules of VALU: one-operand functions have OP3 = 0, FP64 operands are even pairs (R128). -/
def valuChk (i : Ins) : Res Unit := do
  let f := i.func
  let one := f = 5 ∨ f = 6 ∨ f = 8 ∨ f = 0xA ∨ f = 0xB ∨ f = 0x85 ∨ f = 0x86 ∨ f = 0x88 ∨ f = 0x8C ∨ f = 0x8D
  need (!one || i.op3 == 0) 0x0404 3
  let e1 := (0x80 ≤ f ∧ f ≤ 0x89) ∨ f = 0x8C
  let e2 := (0x80 ≤ f ∧ f ≤ 0x89) ∨ f = 0x8D
  let e3 := 0x80 ≤ f ∧ f ≤ 0x89 ∧ ¬ one
  need (!e1 || i.op1 % 2 == 0) 0x0404 1
  need (!e2 || i.op2 % 2 == 0) 0x0404 2
  need (!e3 || i.op3 % 2 == 0) 0x0404 3

/-- Operand fields that name even register pairs (R128): those listed, when `b` holds. -/
def evenPairs (b : Bool) (i : Ins) (ks : List Nat) : Res Unit :=
  ks.forM (fun k => need (!b || [i.op1, i.op2, i.op3, i.op4].getD (k - 1) 0 % 2 == 0) 0x0404 k)

/-- Encoding rules of single instructions beside the kinds of their operands: PLOG's NOT (Table 5.9), CALL (R126), FP64 pairs
and VSTAT (R128, R130), the fields TLD, TST, MMA and MCONV do not use (R121, R132, R133, R135), BAR and OPHINT. (log 82, DEDUCED) -/
def ownCheck (op : Nat) (i : Ins) : Res Unit :=
  match op with
  | 0x05 => need (i.func ≠ 4 || i.op3 == 0) 0x0404 3
  | 0x11 => need (i.op1 != 0) 0x0404 1
  | 0x20 => valuChk i
  | 0x21 => evenPairs (i.func == 0x80) i [1, 2, 3, 4]
  | 0x22 => evenPairs (0x80 ≤ i.func) i [2, 3]
  | 0x24 => evenPairs (i.func == 0x80) i [1, 2]
  | 0x2B => evenPairs true i [1]
  | 0x30 | 0x31 => evenPairs (i.func == 1) i [1]
  | 0x44 => need (i.afmt == 0 && i.bfmt == 0 && !i.sca && !i.scb && !i.rcpen) 0x0404
  | 0x45 => do
    let osp := 3 ≤ i.func
    need (i.n == 1 && !i.sca && !i.scb && (osp || i.ospa == 0) && (i.rcpen || i.ospb == 0) && !(osp && i.rcpen)) 0x0404
    need ((i.func == 3 || i.afmt == 0) && (i.func == 4 || i.bfmt == 0)) 0x0404
  | 0x51 => do
    need (i.sca || i.op3 == 0) 0x0404 3
    need (i.scb || i.op4 == 0) 0x0404 4
  | 0x52 => need (!i.sca) 0x0404
  | 0xA4 => need (i.imm < 256 && bits i.imm 2 2 == 0) 0x0404
  | 0xB0 => need (i.imm < 16) 0x0404
  | _ => return ()

/-- Check 1 of R111 for an opcode: class (0x0406), then reserved and operand fields (0x0404). (log 62, DEDUCED; log 70, DEDUCED) -/
def encCheck (op : Nat) (i : Ins) : Res Unit :=
  match opSpec op with
  | none => fIssue 0x0406
  | some sp => do
    need (i.cls == sp.cls) 0x0406
    need (i.ext == 0 && i.pred ≤ 7 && i.res == 0) 0x0404
    need (!i.mask || (sp.cls == 0 && sp.k4 == .mask)) 0x0404
    need (sp.func i.func) 0x0404
    need (kindOk sp.k1 i.mask i.op1) 0x0404 1
    need (kindOk sp.k2 i.mask i.op2) 0x0404 2
    need (kindOk sp.k3 i.mask i.op3) 0x0404 3
    need (kindOk sp.k4 i.mask i.op4) 0x0404 4
    ownCheck op i
    match sp.cls with
    | 0 => need (i.imm == 0) 0x0404
    | 1 => return ()
    | 2 => do
      need (i.ospa % 64 == 0 && i.ospb % 64 == 0) 0x0404
      need (if i.rcpen then sp.rcp && i.recipe < 32 else i.recipe == 0) 0x0404
    | _ => do
      need (i.imm % 2 ^ 57 == 0) 0x0404
      need (if i.rcpen then sp.rcp && i.recipe < 32 else i.recipe == 0) 0x0404

/-- An instruction: its checks 1 to 3 of R111 (`chk` holds those of its descriptors), then, if its predicate condition holds,
its execution, which begins with the checks that follow (R111, R122; log 70, DEDUCED). -/
def X.guard {α : Type} (x : X) (b : Body) (chk : Ins → Res α) (run : Ins → α → Res X) : Res X := do
  let i := insOf b
  encCheck x.op i
  let a ← chk i
  if x.p i.pred != i.psense then run i a else return x

/-! ### Descriptors -/

/-- A tensor descriptor's fields (Table 4.2), with the parameters of a compressed pair, and a view of it: its first matrix
row (R169) and the extents of a pointer-list entry (R155). -/
structure Td where
  base : Nat
  fmt : Nat
  rmode : Nat
  sat : Bool
  rank : Nat
  scaled : Bool
  histen : Bool
  histset : Nat
  stream : Nat
  e0 : Nat
  e1 : Nat
  e2 : Nat
  e3 : Nat
  s1 : Nat
  s2 : Nat
  s3 : Nat
  draw : Nat
  scale : Nat
  seed : Nat
  comp : Option Comp := none
  reg : Nat := 0
  idx0 : Nat := 0
  row0 : Nat := 0
  rowCap : Option Nat := none
  colCap : Option Nat := none
deriving DecidableEq, Repr

/-- The fields of a descriptor word; extents of absent dimensions read as 1. -/
def tdOf (d : Nat) : Td :=
  let rk := bits d 82 2 + 1
  { base := bits d 0 64, fmt := bits d 64 4, rmode := bits d 72 3, sat := bit d 75, rank := rk, scaled := bit d 84,
    histen := bit d 85, histset := bits d 86 2, stream := bits d 96 32, e0 := bits d 128 32,
    e1 := if rk < 2 then 1 else bits d 160 32, e2 := if rk < 3 then 1 else bits d 192 32, e3 := if rk < 4 then 1 else bits d 224 32,
    s1 := bits d 256 40, s2 := bits d 296 40, s3 := bits d 336 40, draw := bits d 376 32,
    scale := bits d 48 16 % 2 ^ 16 * 2 ^ 48 + bits d 408 40 * 256, seed := bits d 448 64 }

/-- Rows and columns of the view (R94). -/
def Td.rows (t : Td) : Nat := t.rowCap.getD (t.e3 * t.e2 * t.e1)
def Td.cols (t : Td) : Nat := t.colCap.getD t.e0
/-- Elements of the view. -/
def Td.size (t : Td) : Nat := t.rows * t.cols

/-- Bytes of the innermost row of `n` elements (R38, R39). -/
def rowLen (fmt n : Nat) : Nat :=
  let w := fmtWidth fmt
  if w = 4 then ceilDiv n 2 else if w = 6 then ceilDiv n 4 * 3 else n * (w / 8)

/-- Byte offset of matrix row `r` from BASE (R94). -/
def Td.rowOff (t : Td) (row : Nat) : Nat :=
  let r := t.row0 + row
  let i1 := r % t.e1
  let q := r / t.e1
  (q / t.e2) * t.s3 + (q % t.e2) * t.s2 + i1 * t.s1

/-- Address of matrix row `r`. -/
def Td.rowAddr (t : Td) (r : Nat) : Nat := t.base + t.rowOff r

/-- Logical index of an element (R94), counted from the view's first index (R156). -/
def Td.logical (t : Td) (r c : Nat) : Nat := t.idx0 + (t.row0 + r) * t.e0 + c

/-- Whether a tensor is dense (R235). -/
def Td.dense (t : Td) : Bool :=
  let l := rowLen t.fmt t.e0
  (t.rank < 2 || t.s1 == l) && (t.rank < 3 || t.s2 == t.e1 * t.s1) && (t.rank < 4 || t.s3 == t.e2 * t.s2)

/-- Byte length F of a dense tensor. -/
def Td.bytes (t : Td) : Nat := t.rows * rowLen t.fmt t.e0

/-- Whether some difference of indices below the extents puts two distinct rows less than `l` bytes apart. -/
def rowsClash (t : Td) (l : Nat) : Bool :=
  if l = 0 then false else
  let nested := l ≤ t.s1 ∨ t.e1 ≤ 1
  let span1 := (t.e1 - 1) * t.s1 + l
  let nested2 := span1 ≤ t.s2 ∨ t.e2 ≤ 1
  let span2 := (t.e2 - 1) * t.s2 + span1
  let nested3 := span2 ≤ t.s3 ∨ t.e3 ≤ 1
  if nested ∧ nested2 ∧ nested3 then false
  else
    -- exact search over index differences: d3 ≥ 0, d2 of either sign, d1 solved for
    (List.range t.e3).any (fun d3 => (List.range (2 * t.e2 - 1)).any (fun k2 =>
      let d2 : Int := (k2 : Int) - (t.e2 - 1 : Int)
      let c : Int := d3 * t.s3 + d2 * t.s2
      let zero := d3 == 0 && d2 == 0
      if t.s1 = 0 then c.natAbs < l && (!zero || 2 ≤ t.e1)
      else
        let q := c / (t.s1 : Int)
        -- the least distance lies beside the zero of c − m S1, or at an end of m's range
        [q - 1, q, q + 1, q + 2, 1 - (t.e1 : Int), (t.e1 : Int) - 1].any (fun m =>
          let d1 : Int := -m
          d1.natAbs < t.e1 && (c + d1 * t.s1).natAbs < l && !(zero && d1 == 0))
          || (zero && 2 ≤ t.e1 && t.s1 < l)))

/-- How an instruction uses a descriptor: formats it takes, whether it may be scaled or compressed, whether it stores. -/
structure Use where
  fmt : Nat → Bool := fun _ => true
  scaled : Bool := true
  comp : Bool := false
  dest : Bool := false

/-- Bytes of one element, for alignment (R95). -/
def elemBytes (fmt : Nat) : Nat := max 1 (fmtWidth fmt / 8)

/-- Geometry of a descriptor (R95). -/
def Td.geometry (t : Td) (dest : Bool) : Bool :=
  let e := elemBytes t.fmt
  t.base % e == 0 && t.s1 % e == 0 && t.s2 % e == 0 && t.s3 % e == 0 &&
  !(dest && 0 < t.size && rowsClash t (rowLen t.fmt t.e0))

/-- Fault of a descriptor word itself, in the order of R111: 0 when none. `even` says its register is even. -/
def descFault (d : Nat) (u : Use) (even : Bool) : Nat :=
  let t := tdOf d
  let ver := bits d 92 4
  let rk := t.rank
  if ver = 0 then 0x0405
  else if ver ≠ 1 then 0x0403
  else if bits d 88 2 ≠ 0 ∨ bits d 76 6 ≠ 0 ∨ bits d 68 4 ≠ 0 ∨ 2 ≤ bits d 90 2 ∨ (bits d 90 2 = 1 ∧ ¬ even) ∨
      (rk < 2 ∧ (bits d 160 32 ≠ 0 ∨ t.s1 ≠ 0)) ∨ (rk < 3 ∧ (bits d 192 32 ≠ 0 ∨ t.s2 ≠ 0)) ∨
      (rk < 4 ∧ (bits d 224 32 ≠ 0 ∨ t.s3 ≠ 0)) then 0x0405
  else if t.fmt = 15 then 0x0102
  else if 5 ≤ t.rmode then 0x0103
  else if (t.scaled ∧ 8 < fmtWidth t.fmt) ∨ ¬ u.fmt t.fmt ∨ (t.scaled ∧ ¬ u.scaled) ∨ (bits d 90 2 = 1 ∧ ¬ u.comp) then 0x0104
  else if ¬ t.geometry u.dest then 0x0407
  else 0

/-- Fault of a compressed pair's parameters (R235), apart from readability: 0 when none. -/
def compFault (t : Td) (pd : Nat) : Nat :=
  let f := t.bytes
  let nblk := bits pd 128 32
  if bits pd 192 4 ≠ 1 ∨ pd / 2 ^ 200 ≠ 0 ∨ bits pd 196 3 ≠ 0 ∨ bits pd 160 32 ≠ 0 then 0x0601
  else if t.base % 4096 ≠ 0 ∨ bits pd 0 64 % 4096 ≠ 0 ∨ bits pd 64 64 % 64 ≠ 0 then 0x0601
  else if (bit pd 199 ∧ bits pd 0 64 ≠ 0) then 0x0601
  else if ¬ t.dense ∨ nblk ≠ ceilDiv f 4096 then 0x0601
  else 0

/-- The parameters of a compressed pair. -/
def compOf (t : Td) (pd : Nat) : Comp :=
  { noBase := bit pd 199, nblk := bits pd 128 32, meta' := bits pd 64 64, baseRef := bits pd 0 64, size := t.bytes,
    planes := planesOf (fmtWidth t.fmt), place := t.base }

/-- A condition on memory a compressed pair names: readable by the partition (R235). -/
def X.readable (x : X) (a n : Nat) : Bool :=
  if x.here a then x.c.access x.cx.part x.cx.pantry (localOf a) n false == 0 else (x.env.route (devOf a)).isSome

/-- A descriptor word checked for a use (R96, R111 check 3); `reg` numbers its register, 16 or more when it lies elsewhere;
`pd` is the word after it. -/
def X.desc (x : X) (d pd reg : Nat) (u : Use) : Res Td :=
  let operand := if reg < 16 then 0x10 + reg else 0
  let code := descFault d u (reg % 2 == 0)
  if code ≠ 0 then x.refuse code operand
  else
    let t := tdOf d
    if bits d 90 2 = 1 then
      let cc := compFault t pd
      let p := compOf t pd
      if cc ≠ 0 then x.refuse cc operand
      else if ¬ (x.readable p.place (4096 * p.nblk) && x.readable p.meta' (16 * p.nblk) &&
          (p.noBase || x.readable p.baseRef (4096 * p.nblk))) then x.refuse 0x0601 operand
      else .ok { t with comp := some p, reg := reg }
    else .ok { t with reg := reg }

/-- A descriptor register checked for a use. -/
def X.dreg (x : X) (n : Nat) (u : Use) : Res Td := x.desc (x.d n) (x.d (n + 1)) n u

/-- OPERAND field for faults of a descriptor register. -/
def Td.operand (t : Td) : Nat := if t.reg < 16 then 0x10 + t.reg else 0

/-! ### Elements -/

/-- Codes of `n` elements from column `c` in a row's bytes, which start at the byte `rowByte fmt c`. -/
def codesIn (fmt c n : Nat) (bs : List Byte) : List Nat :=
  let w := fmtWidth fmt
  if w = 4 then (span c n).map (fun i => bits ((bs.getD (i / 2 - c / 2) 0).toNat) (4 * (i % 2)) 4)
  else if w = 6 then (span c n).map (fun i => bits (fld bs (3 * (i / 4 - c / 4)) 3) (6 * (i % 4)) 6)
  else wordsOf (w / 8) n bs

/-- First byte and byte count of columns `c` to `c + n − 1` in a row. -/
def rowBytes (fmt c n : Nat) : Nat × Nat :=
  if n = 0 then (0, 0) else
  let w := fmtWidth fmt
  if w = 4 then (c / 2, (c + n - 1) / 2 - c / 2 + 1)
  else if w = 6 then (c / 4 * 3, ((c + n - 1) / 4 - c / 4 + 1) * 3)
  else (c * (w / 8), n * (w / 8))

/-- Bytes at an offset from BASE, decoded when the tensor is compressed (R249; a pointer-list entry's base is a place in the
same image, log 20, DEDUCED); the sum never wraps (R94). -/
def X.fetch (x : X) (t : Td) (o n : Nat) : Res (List Byte × X) :=
  match t.comp with
  | some p => p.bytes (n / 4096 + 2) x (t.base - p.place + o) n
  | none =>
    if n ≠ 0 ∧ 2 ^ 48 < localOf t.base + o + n then x.fault 0x0201 t.operand
    else x.load (t.base + o) n t.operand true

/-- Codes of row `r`, columns `c` to `c + n − 1`, those outside the extents left out (they come after the others). -/
def X.rowCodes (x : X) (t : Td) (r c n : Nat) : Res (List Nat × X) :=
  if r < t.rows ∧ c < t.cols then do
    let m := min n (t.cols - c)
    let (o, len) := rowBytes t.fmt c m
    let (bs, x1) ← x.fetch t (t.rowOff r + o) len
    return (codesIn t.fmt c m bs, x1)
  else .ok ([], x)

/-- Grouping of a scaled tensor in a use (R41). -/
inductive Grouping where
  | col | row
deriving DecidableEq, Repr

/-- Scale codes of row `r`, columns `c` to `c + n − 1` (R41), one per element; `stride` is E0 of the scale layout. -/
def X.scaleCodes (x : X) (t : Td) (g : Grouping) (r c n : Nat) : Res (List Nat × X) :=
  if ¬ t.scaled ∨ n = 0 then .ok (List.replicate n 127, x)
  else match g with
    | .col => do
      let ge := ceilDiv t.e0 32
      let lo := c / 32
      let k := (c + n - 1) / 32 - lo + 1
      let (bs, x1) ← x.load (t.scale + (t.row0 + r) * ge + lo) k t.operand true
      return ((span c n).map (fun j => (bs.getD (j / 32 - lo) 0).toNat), x1)
    | .row => do
      let (bs, x1) ← x.load (t.scale + (t.row0 + r) / 32 * t.e0 + c) n t.operand true
      return (bs.map BitVec.toNat, x1)

/-- Codes and scale codes of row `r`, columns `c` to `c + n − 1` within the extents. -/
def X.scaledRow (x : X) (t : Td) (g : Grouping) (r c n : Nat) : Res ((List Nat × List Nat) × X) := do
  let (cs, x1) ← x.rowCodes t r c n
  let (ss, x2) ← x1.scaleCodes t g r c cs.length
  return ((cs, ss), x2)

/-- Values of row `r`, columns `c` to `c + n − 1` within the extents: scaled floating values, or elements as they are. -/
def X.rowVals (x : X) (t : Td) (g : Grouping) (r c n : Nat) : Res (List Val × X) := do
  if t.scaled then
    let (q, x1) ← if t.comp.isSome then x.scaledRow t g r c n else x.mapFirst (fun y => y.scaledRow t g r c n)
    return (List.zipWith (fun cd s => Val.f (scaled (elemVal t.fmt cd).num s)) q.1 q.2, x1)
  else
    let (cs, x1) ← x.rowCodes t r c n
    return (cs.map (elemVal t.fmt), x1)

/-- The stochastic-rounding word of an element (R45); 0 under the other modes. -/
def Td.word (t : Td) (r c : Nat) : Nat :=
  if t.rmode = 4 then tinderWord t.seed t.stream (t.logical r c) t.draw 0 else 0

/-- A value converted for element (r, c) of a destination. -/
def Td.conv (t : Td) (r c : Nat) (v : Val) : Nat × Ev := convert t.fmt t.rmode t.sat (t.word r c) v

/-- Bytes that place codes at columns `c` on into a row over its old bytes (from the byte `rowBytes` gives). -/
def placeCodes (fmt c : Nat) (codes : List Nat) (old : List Byte) : List Byte :=
  let w := fmtWidth fmt
  if w = 4 ∨ w = 6 then
    let per := if w = 4 then 2 else 4
    let grp := if w = 4 then 1 else 3
    let v0 := ofLE old
    let v := (List.range codes.length).foldl (fun a i =>
      let j := c + i
      setBits a (8 * grp * (j / per - c / per) + w * (j % per)) w (codes.getD i 0)) v0
    leBytes old.length v
  else codes.flatMap (leBytes (w / 8))

/-- Store of codes at row `r`, columns `c` on, all inside the extents: neighbours sharing a byte keep their bits, padding
bits of the row's end become 0 (R39). -/
def X.putCodes (x : X) (t : Td) (r c : Nat) (codes : List Nat) : Res X := do
  if codes.isEmpty then return x
  let (o, len) := rowBytes t.fmt c codes.length
  let a := t.rowAddr r + o
  if 2 ^ 48 < localOf t.base + t.rowOff r + o + len then x.fault 0x0201 t.operand
  let w := fmtWidth t.fmt
  let per := if w = 4 then 2 else if w = 6 then 4 else 1
  let ends := c + codes.length
  let (old, x1) ←
    if c % per = 0 ∧ (ends % per = 0 ∨ ends = t.cols) then .ok (List.replicate len 0, x)
    else if x.here a then .ok (x.c.mem.read (localOf a) len, x.used (localOf a) len)
    else x.load a len t.operand true
  let pad := if ends = t.cols then List.replicate ((per - ends % per) % per) 0 else []
  x1.store a (placeCodes t.fmt c (codes ++ pad) old) t.operand

/-- Bin of a stored element (Table 2.10). -/
def histBin (base : Nat) (fmt code : Nat) (ev : Ev) : Nat :=
  let b : Int := signed base 16
  let ofExp : Int → Nat := fun e => if e ≤ b then 1 else if b + 59 ≤ e then 60 else (e - b + 1).toNat
  if ev.flags &&& fSATUR ≠ 0 then 61
  else if ev.flags &&& fNANLOST ≠ 0 then 63
  else match elemVal fmt code with
    | .f (.nan _) => 63
    | .f (.inf _) => 62
    | .f (.fin _ m e) => if m = 0 then 0 else ofExp (e + Nat.log2 m)
    | .i z => if z = 0 then 0 else ofExp (Nat.log2 z.natAbs)

/-- Histogram set `n` of the slot registers. -/
def NumRegs.hist (r : NumRegs) (n : Nat) : Hist := match n with | 0 => r.h0 | 1 => r.h1 | 2 => r.h2 | _ => r.h3
/-- Histogram set `n` replaced. -/
def NumRegs.setHist (r : NumRegs) (n : Nat) (h : Hist) : NumRegs :=
  match n with | 0 => { r with h0 := h } | 1 => { r with h1 := h } | 2 => { r with h2 := h } | _ => { r with h3 := h }

/-- One tile's update of a histogram set (R55, R56). -/
def Hist.update (h : Hist) (fmt : Nat) (els : List (Nat × Ev)) : Hist :=
  if ¬ h.en then h else
  { h with
    tiles := satInc h.tiles 0xFFFFFFFF
    bins := els.foldl (fun b e =>
      let k := histBin h.base fmt e.1 e.2
      insertKey k (((lookup b k).getD 0 + 1) % 2 ^ 64) b) h.bins }

/-- A counted store of one tile through a descriptor. -/
def X.count (x : X) (t : Td) (els : List (Nat × Ev)) : X :=
  if t.histen then { x with num := x.num.setHist t.histset ((x.num.hist t.histset).update t.fmt els) } else x

/-- Conversion and store of a row of values at (r, c): positions outside the extents are not written (R130, R133). A scaled
destination chooses a code per group of 32 columns (R42, R424). Answers the elements written and their events. -/
def X.putRow (x : X) (t : Td) (r c : Nat) (vals : List Val) (loc : Nat → NanInfo) : Res (List (Nat × Ev) × X) := do
  if ¬ (r < t.rows ∧ c < t.cols) then return ([], x)
  let vs := vals.take (t.cols - c)
  let groups := if t.scaled then (span (c / 32) (ceilDiv (c + vs.length) 32 - c / 32)).map (fun g =>
      (g, chooseScale t.fmt (((vs.drop (32 * g - c)).take (32 * (g + 1) - max c (32 * g))).map Val.num))) else []
  let els := vs.zipIdx.map (fun v =>
    if t.scaled then
      let e := (lookup groups ((c + v.2) / 32)).getD 127
      t.conv r (c + v.2) (.f (v.1.num.scale (127 - (e : Int))))
    else t.conv r (c + v.2) v.1)
  let x1 := els.zipIdx.foldl (fun (y : X) e => y.note e.1.2 (loc e.2)) x
  let x2 ← x1.putCodes t r c (els.map Prod.fst)
  let x3 ← if t.scaled ∧ ¬ groups.isEmpty then
      x2.store (t.scale + (t.row0 + r) * ceilDiv t.e0 32 + c / 32) (groups.map (fun g => BitVec.ofNat 8 g.2)) t.operand
    else .ok x2
  return (els, x3)

/-- The bytes of `n` rows of `m` columns at (r, c), those outside the extents left out. -/
def Td.rectRanges (t : Td) (r c n m : Nat) : List (Nat × Nat) :=
  let w := min m (t.cols - c)
  let q := rowBytes t.fmt c w
  (span r (min n (t.rows - r))).map (fun i => (t.rowAddr i + q.1, q.2))

/-- Fold of a step over a list, threading the view. -/
def foldRes {α : Type} (x : X) (l : List α) (f : X → α → Res X) : Res X := l.foldlM f x

/-- Map of a step over a list, threading the view. -/
def mapRes {α β : Type} (x : X) (l : List α) (f : X → α → Res (β × X)) : Res (List β × X) := do
  let (rs, x1) ← l.foldlM (fun (p : List β × X) a => do
    let (b, y) ← f p.2 a
    return (b :: p.1, y)) ([], x)
  return (rs.reverse, x1)

end Sys2Proof.Machine
end

