-- ==== Sys2Proof/Machine/Journal.lean ====
section
/-!
DEFINITION. The journal (19, R386 to R392): the ring in LPDDR5X region 1,023, its hash chain, the flash copy, and the
registers of a context slot (02, 04, 06, 07) that strands and the management path reach.
-/
namespace Sys2Proof.Machine

/-! ### The journal -/

/-- The party a journal entry names (Table 19.4): type, id, port, and the partition acted for (0xFFFF the operator). -/
structure Src where
  typ : Nat := 0
  id : Nat := 0
  port : Nat := 0xFF
  part : Nat := 0xFFFF
deriving DecidableEq, Repr

/-- Lantern itself. -/
def Src.lantern : Src := {}
/-- The boot ROM, on whose behalf Lantern writes (Table 19.4). -/
def Src.rom : Src := { typ := 6 }
/-- A strand's RGWR (Table 19.4). -/
def Src.strand (k part : Nat) : Src := { typ := 5, id := k, part := part }

/-- What a journal entry records (Table 19.3). -/
structure JEntry where
  kind : Nat
  code : Nat := 0
  addr : Nat := 0
  old : Nat := 0
  new : Nat := 0
  detail : List Byte := []
deriving DecidableEq, Repr

/-- Address of the ring's slot of an entry (R386). -/
def ringSlot (seq : Nat) : Nat := 0x01FFC0000000 + seq % 65536 * 128

/-- The number of the next entry (R391). -/
def Journal.next (j : Journal) : Nat := j.head + 1

/-- The first 96 bytes of an entry (Table 19.3). -/
def jHead (seq lcount bootn : Nat) (s : Src) (e : JEntry) : List Byte :=
  patch (layout 96 [(0, 8, seq), (8, 8, lcount), (0x10, 8, bootn), (0x18, 1, e.kind), (0x19, 1, s.typ), (0x1A, 1, s.port),
    (0x1C, 4, s.id), (0x20, 2, s.part), (0x22, 2, e.code), (0x28, 8, e.addr), (0x30, 8, e.old), (0x38, 8, e.new)])
    0x40 (slice e.detail 0 32)

/-- Entries kept in flash: the newest 4,096 (R391). -/
def keepFlash (l : List (Nat × List Byte)) : List (Nat × List Byte) := l.drop (l.length - 4096)

/-- An entry written to the journal (R387, R389, R391): to the ring, or to flash while the ring cannot be written (R392).
The reservation mark rises by 1,024 before the first number beyond it is used. UART_TXD carries JSEQ and KIND (R417). (log 50, DEDUCED) -/
def Core.journal (c : Core) (s : Src) (e : JEntry) : Core :=
  let (t, c1) := c.readWclk
  let seq := c1.jnl.next
  let hd := jHead seq t c1.jnl.bootn s e
  let h := sha3 (c1.jnl.hash ++ hd)
  let ent := hd ++ h
  let low := decide (c1.jnl.mark < seq)
  let j := { c1.jnl with head := seq, hash := h, mark := if low then c1.jnl.mark + 1024 else c1.jnl.mark
                         wear := if low then c1.jnl.wear.write 8 else c1.jnl.wear }
  let c2 := c1.send (.event "UART_TXD journal entry" seq e.kind)
  if j.ringLost then { c2 with jnl := { j with copied := seq, flash := keepFlash (j.flash ++ [(seq, ent)]), wear := j.wear.write 128 } }
  else { c2.store (ringSlot seq) ent with jnl := j }

/-- The number the flash copy takes next (R391): the oldest entry not copied, or the newest less 4,095. -/
def Journal.copyNext (j : Journal) : Option Nat :=
  if j.head ≤ j.copied then none
  else some (if 4096 < j.head - j.copied then j.head - 4095 else j.copied + 1)

/-- One entry copied from the ring to flash (R391); of one with an uncorrectable word nothing is delivered (R262; log 80, DESIGN
CHOICE). -/
def Core.copyEntry (c : Core) : Core :=
  match c.jnl.copyNext with
  | none => c
  | some n =>
    let r := scanRange c.space c.mem c.ecc (ringSlot n) 128
    let got := if r.2.2.isSome then [] else [(n, r.1.read (ringSlot n) 128)]
    { c with mem := r.1, ecc := r.2.1, jnl := { c.jnl with copied := n, flash := keepFlash (c.jnl.flash ++ got), wear := c.jnl.wear.write (128 * got.length) } }

/-- JNL_STAT (Table 19.6). -/
def Journal.stat (j : Journal) : Nat := (if j.ringLost then 2 ^ 32 else 0) + j.bootn % 2 ^ 32

/-! ### Registers of a context slot -/

/-- Registers of a context slot, by the tables that name them (R54, R56, R61, R110, R153, R177). -/
inductive SlotReg where
  | numctl | fpflags | nanrec | fltring | fltstat
  | histctl (h : Nat) | histstat (h : Nat) | histbin (h n : Nat)
  | fitstat | rcpstat
deriving DecidableEq, Repr

/-- Value a read returns (R10). -/
def NumRegs.read (r : NumRegs) : SlotReg → Nat
  | .numctl => if r.nantrap then 1 else 0
  | .fpflags => r.fpflags.toNat
  | .nanrec => r.nanrec
  | .fltring => r.ringAddr + r.ringLog
  | .fltstat => r.dropped * 2 ^ 32 + r.tail * 2 ^ 16 + r.head
  | .histctl h => (r.hist h).base * 2 ^ 32 + (if (r.hist h).en then 1 else 0)
  | .histstat h => (r.hist h).tiles
  | .histbin h n => (lookup (r.hist h).bins n).getD 0
  | .fitstat => r.fitLast * 2 ^ 32 + r.fitCount
  | .rcpstat => r.rcpLast * 2 ^ 32 + r.rcpCount

/-- A write checked and applied (R10, R11); none when it is refused with 0x0401. -/
def NumRegs.write (r : NumRegs) (g : SlotReg) (v : Nat) : Option NumRegs :=
  match g with
  | .numctl => if v < 2 then some { r with nantrap := v = 1 } else none
  | .fpflags => if v < 128 then some { r with fpflags := r.fpflags &&& ~~~(BitVec.ofNat 7 v) } else none
  | .nanrec => if v % 256 = 0 then some { r with nanrec := v } else none
  | .fltring =>
    if bits v 4 8 = 0 ∧ 4 ≤ v % 16 ∧ v % 16 ≤ 12 then
      some { r with ringAddr := v / 4096 * 4096, ringLog := v % 16, head := 0, tail := 0, dropped := 0 }
    else none
  | .fltstat =>
    if bits v 48 16 = 0 ∧ (r.head + 65536 - bits v 16 16) % 65536 ≤ 2 ^ r.ringLog then some { r with tail := bits v 16 16 } else none
  | .histctl h =>
    if bits v 48 16 = 0 ∧ bits v 2 30 = 0 ∧ -1074 ≤ signed (bits v 32 16) 16 ∧ signed (bits v 32 16) 16 ≤ 1023 then
      let old := r.hist h
      let new := { old with base := bits v 32 16, en := bit v 0 }
      some (r.setHist h (if bit v 1 then { new with tiles := 0, bins := [] } else new))
    else none
  | .histstat _ => if v < 2 ^ 32 then some r else none
  | .histbin _ _ => some r
  | .fitstat =>
    if bits v 40 23 = 0 then some (if bit v 63 then { r with fitCount := 0, fitLast := 0 } else r) else none
  | .rcpstat =>
    if bits v 40 23 = 0 then some (if bit v 63 then { r with rcpCount := 0, rcpLast := 0 } else r) else none

/-- Offset of a register within its block's base (R98). -/
def blockOff (n : Nat) : Nat := mgmtBase + n * 0x1000000

/-- The alias a strand names (Table 2.18a). -/
def aliasOf (a : Nat) : Option SlotReg :=
  let s := blockOff 0x0B + 0x20400
  let l := blockOff 0x02 + 0x50000
  if a = s then some .numctl
  else if a = s + 8 then some .fpflags
  else if a = s + 16 then some .nanrec
  else if l ≤ a ∧ a < l + 0x1000 then
    let h := (a - l) / 0x400
    let o := (a - l) % 0x400
    if o = 0 then some (.histctl h) else if o = 8 then some (.histstat h)
    else if 0x100 ≤ o ∧ o < 0x300 ∧ o % 8 = 0 then some (.histbin h ((o - 0x100) / 8)) else none
  else none

/-- The slot register at an absolute address, with its slot (R53, R56, R109, R153, R177). -/
def slotRegOf (a : Nat) : Option (Nat × SlotReg) :=
  let sch := a - blockOff 0x0B
  let ldl := a - blockOff 0x02
  if blockOff 0x0B + 0x20000 ≤ a ∧ a < blockOff 0x0B + 0x20200 then
    let o := sch % 0x20
    let s := (sch - 0x20000) / 0x20
    if o = 0 then some (s, .numctl) else if o = 8 then some (s, .fpflags) else if o = 16 then some (s, .nanrec) else none
  else if blockOff 0x0B + 0x30000 ≤ a ∧ a < blockOff 0x0B + 0x30100 then
    let s := (sch - 0x30000) / 0x10
    if sch % 0x10 = 0 then some (s, .fltring) else if sch % 0x10 = 8 then some (s, .fltstat) else none
  else if blockOff 0x02 + 0x10000 ≤ a ∧ a < blockOff 0x02 + 0x10080 ∧ a % 8 = 0 then some ((ldl - 0x10000) / 8, .fitstat)
  else if blockOff 0x02 + 0x10800 ≤ a ∧ a < blockOff 0x02 + 0x10880 ∧ a % 8 = 0 then some ((ldl - 0x10800) / 8, .rcpstat)
  else if blockOff 0x02 + 0x40000 ≤ a ∧ a < blockOff 0x02 + 0x50000 then
    let s := (ldl - 0x40000) / 0x1000
    let h := ldl % 0x1000 / 0x400
    let o := ldl % 0x400
    if o = 0 then some (s, .histctl h) else if o = 8 then some (s, .histstat h)
    else if 0x100 ≤ o ∧ o < 0x300 ∧ o % 8 = 0 then some (s, .histbin h ((o - 0x100) / 8)) else none
  else none

/-- Registers of slot `s` as they stand: those of the context that holds it, else the empty slot's (log 24, DESIGN CHOICE). -/
def Core.slotNum (c : Core) (s : Nat) : NumRegs :=
  match c.ctxs.find? (fun p => p.2.slot == some s) with
  | some p => p.2.num
  | none => (lookup c.slotRegs s).getD {}

/-- Registers of slot `s` replaced. (log 24, DESIGN CHOICE) -/
def Core.setSlotNum (c : Core) (s : Nat) (r : NumRegs) : Core :=
  match c.ctxs.find? (fun p => p.2.slot == some s) with
  | some p => c.setCtx p.1 { p.2 with num := r }
  | none => { c with slotRegs := insertKey s r c.slotRegs }

end Sys2Proof.Machine
end

