-- ==== Sys2Proof/Machine/RowFns.lean ====
section
/-!
DEFINITION. Row functions (08_row_functions.md): function tables (R186 to R190), softmax, RMS and layer normalisation
(R194 to R198) and the Welford merge. Values are FP32 codes; every operation reports its events.
-/
namespace Sys2Proof.Machine

/-- A value with the events of the operations that made it. -/
abbrev Ve := Nat × Ev

/-- An FP32 operation on codes with events joined. -/
def op2 (f : Nat → Nat → Nat × Ev) (a b : Ve) : Ve :=
  let r := f a.1 b.1
  (r.1, (a.2.join b.2).join r.2)

/-- An FP32 operation on three codes with events joined. -/
def op3 (f : Nat → Nat → Nat → Nat × Ev) (a b c : Ve) : Ve :=
  let r := f a.1 b.1 c.1
  (r.1, ((a.2.join b.2).join c.2).join r.2)

/-- An FP32 operation on one code with events joined. -/
def op1 (f : Nat → Nat × Ev) (a : Ve) : Ve := let r := f a.1; (r.1, a.2.join r.2)

def fadd := addC fp32
def fsub := subC fp32
def fmul := mulC fp32
def ffma := fmaC fp32
def fdiv := divC fp32
def fsqrt := sqrtC fp32
def fmax := maxC fp32
def fmin := minC fp32

/-- A code with no event. -/
def pureV (c : Nat) : Ve := (c, Ev.none)

/-- The addition of a reduction (R129, R194): ∞ − ∞ in it has cause 0x0002 (Table 2.14; log 73, DEDUCED). -/
def addR (f : FloatFmt) (a b : Nat) : Nat × Ev := rne f (sumN false 2 [f.decode a, f.decode b])

/-- A count converted to FP32, RNE. -/
def f32OfNat (n : Nat) : Ve := roundFin fp32 0 false 0 false n 0

/-- A signed integer as an FP32 code with its events. -/
def f32OfInt (z : Int) : Nat × Ev := roundFin fp32 0 false 0 (z < 0) z.natAbs 0

/-! ### Function tables -/

/-- Fields of a function-table image (Table 8.2). -/
structure FTab where
  spacing : Nat
  flags : Nat
  below : Nat
  above : Nat
  sub : Nat
  xlo : Nat
  hexp : Int
  ebase : Int
  loval : Nat
  hival : Nat
  seg : List Byte
deriving DecidableEq, Repr

/-- The fields of an image. -/
def ftabOf (l : List Byte) : FTab :=
  { spacing := fld l 2 1, flags := fld l 3 1, below := fld l 4 1, above := fld l 5 1, sub := fld l 6 1, xlo := fld l 8 4,
    hexp := signed (fld l 0xC 2) 16, ebase := signed (fld l 0xE 2) 16, loval := fld l 0x10 4, hival := fld l 0x14 4,
    seg := l.drop 0x40 }

def FTab.mono (t : FTab) : Nat := bits t.flags 1 2
def FTab.symm (t : FTab) : Nat := bits t.flags 3 2
/-- Coefficient c_j of segment k. -/
def FTab.coef (t : FTab) (k j : Nat) : Nat := fld t.seg (16 * k + 4 * j) 4

/-- Breakpoint x_k as an exact value (Table 8.3). -/
def FTab.point (t : FTab) (k : Nat) : Int × Int :=
  if t.spacing = 0 then dyAdd (d32 t.xlo).dy ((k : Int), t.hexp)
  else (((2 ^ t.sub + k % 2 ^ t.sub : Nat) : Int), t.ebase + ((k / 2 ^ t.sub : Nat) : Int) - t.sub)

/-- The FP32 code of a breakpoint. -/
def FTab.pointC (t : FTab) (k : Nat) : Nat :=
  let p := t.point k
  (roundFin fp32 0 false 0 (p.1 < 0) p.1.natAbs p.2).1

/-- poly of R188. -/
def FTab.poly (t : FTab) (k : Nat) (a : Ve) : Ve :=
  op3 ffma (op3 ffma (pureV (t.coef k 2)) a (pureV (t.coef k 1))) a (pureV (t.coef k 0))

/-- End value E[k] (R188). The roundings made when a slot is loaded set no flag of a context. (log 95, DESIGN CHOICE) -/
def FTab.endVal (t : FTab) (k : Nat) : Nat :=
  if k = 0 then t.coef 0 0
  else
    let w := dyAdd (t.point k) ((-(t.point (k - 1)).1), (t.point (k - 1)).2)
    (t.poly (k - 1) (pureV (roundFin fp32 0 false 0 (w.1 < 0) w.1.natAbs w.2).1)).1

/-- Segment of a value that is not a NaN (R187): −1 below the domain, 256 above. -/
def FTab.segment (t : FTab) (a : Num) : Int :=
  match a with
  | .inf true => -1
  | .inf false => 256
  | .nan _ => -1
  | .fin _ _ _ =>
    if dyLt a.dy (t.point 0) then -1
    else if !dyLt a.dy (t.point 256) then 256
    else
      -- the last breakpoint not above the value, by halving
      (([128, 64, 32, 16, 8, 4, 2, 1].foldl (fun k s => if !dyLt a.dy (t.point (k + s)) then k + s else k) 0 : Nat) : Int)

/-- vtab of R188: a slot with no image answers the canonical NaN with cause 5 for every input (R128; log 74, DEDUCED). A NaN of cause
5 that no operation of the evaluation made sets no INVALID (log 95, DESIGN CHOICE). -/
def vtab (img : Option (List Byte)) (c : Nat) : Nat × Ev :=
  match img with
  | none => (fp32.nanCode, ⟨if (d32 c).isSnan then fINVALID else 0, 5⟩)
  | some l =>
    let t := ftabOf l
    let x := d32 c
    if x.isNan then (fp32.nanCode, if x.isSnan then Ev.snan else Ev.none)
    else
      let flip := t.symm = 2 ∧ bit c 31
      let a := if t.symm ≠ 0 then c % 2 ^ 31 else c
      let k := t.segment (d32 a)
      let e := fun i => pureV (t.endVal i)
      let from' := fun i => op2 fsub (pureV a) (pureV (t.pointC i))
      let v : Ve :=
        if k = -1 then
          if t.below = 2 then pureV t.loval
          else if t.below = 0 ∨ (d32 a == .inf true) ∨ (d32 a == .inf false) then e 0
          else
            let p := t.poly 0 (from' 0)
            if t.mono = 1 then op2 fmin p (e 0) else if t.mono = 2 then op2 fmax p (e 0) else p
        else if k = 256 then
          if t.above = 2 then pureV t.hival
          else if t.above = 0 ∨ (d32 a == .inf true) ∨ (d32 a == .inf false) then e 256
          else
            let p := t.poly 255 (from' 255)
            if t.mono = 1 then op2 fmax p (e 256) else if t.mono = 2 then op2 fmin p (e 256) else p
        else
          let n := k.toNat
          let p := t.poly n (from' n)
          if t.mono = 1 then op2 fmin (op2 fmax p (e n)) (e (n + 1))
          else if t.mono = 2 then op2 fmax (op2 fmin p (e n)) (e (n + 1))
          else p
      if (d32 v.1).isNan then (fp32.nanCode, ⟨v.2.flags, 5⟩)
      else (if flip then v.1 ^^^ 2 ^ 31 else v.1, ⟨v.2.flags, 0⟩)

/-- The first check of R190 an image fails: its DETAIL bytes 9 and 10 to 11 (header field offset, or 0x40 and an index). LOVAL and
HIVAL are tested with the header, SYMM and they before the segments of checks 5 and 6, and a fall between E[k] and E[k + 1] is that of k.
(log 95, DESIGN CHOICE) -/
def ftabFault (l : List Byte) : Option (Nat × Nat) :=
  let t := ftabOf l
  let hd := fun (ok : Bool) (o : Nat) => if ok then none else some (o, 0)
  let lin := t.spacing = 0
  let isNum := fun (c : Nat) => match d32 c with | .fin _ _ _ => true | _ => false
  let notNan := fun (c : Nat) => !(d32 c).isNan
  let le := fun (a b : Nat) => cmpN (d32 a) (d32 b) == some .lt || cmpN (d32 a) (d32 b) == some .eq
  let seg := fun (p : Nat → Bool) => ((List.range 256).find? (fun k => !p k)).map (fun k => (0x40, k))
  let exact := fun (k : Nat) => let p := t.point k; (roundFin fp32 0 false 0 (p.1 < 0) p.1.natAbs p.2).2 == Ev.none
  let width := fun (k : Nat) => dyAdd (t.point (k + 1)) ((-(t.point k).1), (t.point k).2)
  -- c1 + 2 c2 w of segment k, exact
  let slopeEnd := fun (k : Nat) =>
    let c2 := (d32 (t.coef k 2)).dy
    let w := width k
    dyAdd (d32 (t.coef k 1)).dy (c2.1 * w.1, c2.2 + w.2 + 1)
  let neg := fun (d : Int × Int) => d.1 < 0
  let pos := fun (d : Int × Int) => 0 < d.1
  -- codes in value order, the two zeros equal
  let rank := fun (c : Nat) => if bit c 31 then -((c % 2 ^ 31 : Nat) : Int) else ((c % 2 ^ 31 : Nat) : Int)
  let adjacent := fun (a b : Nat) => notNan a && notNan b && (rank a - rank b).natAbs ≤ 1
  let up := t.mono = 1
  let monoSeg := fun (k : Nat) =>
    (if up then le (t.endVal k) (t.endVal (k + 1)) else le (t.endVal (k + 1)) (t.endVal k)) &&
    (if up then !neg (d32 (t.coef k 1)).dy && !neg (slopeEnd k) else !pos (d32 (t.coef k 1)).dy && !pos (slopeEnd k)) &&
    (k ≠ 0 || t.below ≠ 1 || (if up then !pos (d32 (t.coef 0 2)).dy else !neg (d32 (t.coef 0 2)).dy)) &&
    (k ≠ 255 || t.above ≠ 1 || (if up then !neg (d32 (t.coef 255 2)).dy else !pos (d32 (t.coef 255 2)).dy))
  [ hd (l.length == 4160 && fld l 0 2 == 1) 0, hd (t.spacing ≤ 1) 2, hd (t.flags < 32 && t.mono ≤ 2 && t.symm ≤ 2) 3,
    hd (t.below ≤ 2) 4, hd (t.above ≤ 2) 5, hd (if lin then t.sub == 0 else t.sub ≤ 4) 6, hd (zeroAt l 7 1) 7,
    hd (lin || t.xlo == 0) 8, hd (if lin then decide (-149 ≤ t.hexp ∧ t.hexp ≤ 119) else t.hexp == 0) 0xC,
    hd (if lin then t.ebase == 0 else decide (-149 + (t.sub : Int) ≤ t.ebase ∧ t.ebase ≤ 128 - ((256 / 2 ^ t.sub : Nat) : Int))) 0xE,
    hd (t.below == 2 || t.loval == 0) 0x10, hd (t.above == 2 || t.hival == 0) 0x14, hd (zeroAt l 0x18 40) 0x18,
    hd (notNan t.loval) 0x10, hd (notNan t.hival) 0x14, hd (!lin || isNum t.xlo) 8,
    (if lin then
      (let q := (d32 t.xlo).dy
       if q.1 = 0 ∨ t.hexp ≤ q.2 ∨ q.1 % 2 ^ (t.hexp - q.2).toNat = 0 then none else some (8, 0)) else none),
    (if lin then ((List.range 257).find? (fun k => !exact k)).map (fun k => (0x40, k)) else none),
    seg (fun k => isNum (t.coef k 0) && isNum (t.coef k 1) && isNum (t.coef k 2) && fld t.seg (16 * k + 12) 4 == 0),
    (if bit t.flags 0 then ((span 1 255).find? (fun k => !adjacent (t.endVal k) (t.coef k 0))).map (fun k => (0x40, k)) else none),
    (if t.mono = 0 then none else
      if t.symm = 1 then some (3, 0)
      else if t.below = 2 ∧ !(if up then le t.loval (t.endVal 0) else le (t.endVal 0) t.loval) then some (0x10, 0)
      else if t.above = 2 ∧ !(if up then le (t.endVal 256) t.hival else le t.hival (t.endVal 256)) then some (0x14, 0)
      else seg monoSeg) ].findSome? id

/-! ### Row statistics -/

/-- canonical_sum of R73 over values with an FP32 operation (R194). (log 73, DEDUCED) -/
def rowTree (op : Nat → Nat → Nat × Ev) (l : List Ve) (dflt : Nat) : Ve :=
  (treeFold (op2 op) l.length l).getD (pureV dflt)

/-- A Welford node (R197). -/
structure WNode where
  n : Nat
  m : Ve
  m2 : Ve
deriving DecidableEq, Repr

/-- The empty node. -/
def WNode.empty : WNode := ⟨0, pureV 0, pureV 0⟩

/-- wmerge of R197. -/
def wmerge (a b : WNode) : WNode :=
  if a.n = 0 then b else if b.n = 0 then a else
  let n := (a.n + b.n) % 2 ^ 32
  let d := op2 fsub b.m a.m
  let fb := op2 fdiv (f32OfNat b.n) (f32OfNat n)
  { n := n
    m := op3 ffma d fb a.m
    m2 := op2 fadd (op2 fadd a.m2 b.m2) (op2 fmul (op2 fmul d d) (op2 fmul (f32OfNat a.n) fb)) }

def one32 : Nat := 0x3F800000
def negInf32 : Nat := 0xFF800000

/-- 1 / sqrt(v + eps), each operation correctly rounded (R196, R197). -/
def rsqrtEps (v : Ve) (eps : Nat) : Ve := op2 fdiv (pureV one32) (op1 fsqrt (op2 fadd v (pureV eps)))

/-- A value as an operand of a later step, its events reported where it was made. -/
def Ve.quiet (v : Ve) : Ve := pureV v.1

/-- The results of a row, each with the events of its own column; those of the row's statistic stand with column 0. -/
def withStat (stat : Ev) (own : Nat → Ev) (out : List Ve) : List Ve :=
  out.zipIdx.map fun v => (v.1.1, ((if v.2 = 0 then stat else Ev.none).join (own v.2)).join v.1.2)

/-- RMS normalisation of a row (R196). -/
def rmsRow (y : List Ve) (eps : Nat) (g : Nat → Ve) : List Ve :=
  let q := y.map (fun v => op2 fmul v.quiet v.quiet)
  let ms := op2 fdiv (rowTree (addR fp32) (q.map Ve.quiet) 0) (f32OfNat y.length)
  let rr := rsqrtEps ms eps
  withStat rr.2 (fun c => (y.getD c (pureV 0)).2.join (q.getD c (pureV 0)).2)
    ((List.range y.length).map (fun c => op2 fmul (op2 fmul (y.getD c (pureV 0)).quiet rr.quiet) (g c)))

/-- Layer normalisation of a row (R197). -/
def layerRow (y : List Ve) (eps : Nat) (g b : Nat → Ve) : List Ve :=
  let p := (y.headD (pureV 0)).quiet
  let dev := y.map (fun v => op2 fsub v.quiet p)
  let w := (treeFold wmerge y.length (dev.map (fun v => (⟨1, v.quiet, pureV 0⟩ : WNode)))).getD WNode.empty
  let var := op2 fmax (op2 fdiv w.m2 (f32OfNat y.length)) (pureV 0)
  let rr := rsqrtEps var eps
  withStat (w.m.2.join rr.2) (fun c => (y.getD c (pureV 0)).2.join (dev.getD c (pureV 0)).2)
    ((List.range y.length).map (fun c => op3 ffma (op2 fmul (op2 fsub (dev.getD c (pureV 0)).quiet w.m.quiet) rr.quiet) (g c) (b c)))

/-- Softmax of a row of scaled scores (R195). -/
def smaxRow (t : List Ve) : List Ve :=
  let mx := rowTree fmax (t.map Ve.quiet) negInf32
  if mx.1 = negInf32 then t.map (fun v => (0, v.2))
  else
    let e := t.map (fun v => op1 vexp2 (op2 fsub v mx.quiet))
    let l := rowTree (addR fp32) (e.map Ve.quiet) 0
    withStat (mx.2.join l.2) (fun c => (e.getD c (pureV 0)).2) (e.map (fun v => op2 fdiv v.quiet l.quiet))

/-- VSTAT (R199): the new state and the node, from the state's words and the 64 elements, none for one not selected, which
is an empty node of the tree. -/
def vstat (st : List Nat) (els : List (Option Nat)) : List Ve × List Ve :=
  let n0 := st.getD 0 0
  let first := els.findSome? id
  let p := if n0 = 0 then first.getD (st.getD 3 0) else st.getD 3 0
  let leaf := fun (e : Option Nat) => (match e with
    | some x => ⟨1, op2 fsub (pureV x) (pureV p), pureV 0⟩
    | none => WNode.empty : WNode)
  let node := (treeFold wmerge els.length (els.map leaf)).getD WNode.empty
  let w := wmerge ⟨n0, pureV (st.getD 1 0), pureV (st.getD 2 0)⟩ node
  (if first.isNone then st.map pureV else [pureV (w.n % 2 ^ 32), w.m, w.m2, pureV p],
   [pureV node.n, node.m, node.m2, pureV p])

end Sys2Proof.Machine
end

