-- ==== Sys2Proof/Machine/Issue.lean ====
section
/-!
DEFINITION. Issuing an instruction of a strand: its effects, its fault (R88, R124), its wait (R107) or the NaN trap (R58).
-/
namespace Sys2Proof.Machine

/-- The descriptor an operand field names, zero for another kind of operand (R60). -/
def trapDesc (x : X) (k : Kind) (f : Nat) : Desc :=
  if k = .d then x.r.d.toList.getD f 0 else 0

/-- The trap of an instruction that created a NaN when the counter was `cc` (R58, Table 2.15): its operand descriptors, then
its destination, which VST and TST name in OP2; KVPUT's two are sources (R214). -/
def trapOf (x : X) (body : Body) (n : NanInfo) (cc : Nat) : Trap :=
  let i := insOf body
  let (k1, k2, k3) := match opSpec x.op with
    | some s => (s.k1, s.k2, s.k3)
    | none => (.unused, .unused, .unused)
  let (d1, d2, d3) := (trapDesc x k1 i.op1, trapDesc x k2 i.op2, trapDesc x k3 i.op3)
  let (da, db, dd) := if x.op = 0x31 ∨ x.op = 0x45 then (0, 0, d2) else if x.op = 0x71 then (d1, d2, 0) else (d2, d3, d1)
  { strand := x.i, rank := x.r.rank, me := x.r.me, path := x.op == 0x7C, pc := x.r.pc.toNat, cc := cc, info := n, da := da, db := db,
    dd := dd }

/-- The view `x` held by a NaN trap: nothing of the instruction is written (R58, R124; log 12, DEDUCED), and its resumption
starts it afresh. -/
def takeTrap (x : X) (body : Body) (n : NanInfo) : Core :=
  let cc := match x.r.me with
    | some m => x.c.readCclk (m / 16)
    | none => x.c.readWclk
  { x with c := cc.2, cx := { x.cx with trap := some (trapOf x body n cc.1) }, r := { x.r with held := none, arrived := [], prg := 0, list := {} } }.commit

/-- The core after an instruction that faults, with what its reads did to the error state (R261, R265). -/
def Core.keepReads (c : Core) (f : FaultInfo) : Core :=
  match f.ecc with
  | some e => { c with ecc := c.ecc.afterStop e }
  | none => c

/-- What an instruction leaves behind. (log 12, DEDUCED) -/
def settle (x0 : X) (body : Body) (res : Res X) : Core :=
  match res with
  | .ok x =>
    match x.nan, x0.trapOn with
    | some n, true => takeTrap { x0 with c := { x0.c with ecc := x0.c.ecc.afterStop x.c.ecc } } body n
    | _, _ => x.finish.commit
  | .error (.fault f keep) =>
    ((keep.getD x0).commit.keepReads f).raise x0.env.dev x0.k x0.i f
  | .error (.hold w keep) => (keep.getD x0).hold w body
  | .error (.trap n keep) => takeTrap (keep.getD x0) body n

/-- The fetch of an instruction (R20, R117, R262): its address names this module, lies in the pack's code region, and its word
is readable. (log 2, DESIGN CHOICE) -/
def fetchCheck (x : X) : Res X := do
  let a := x.r.pc.toNat
  match lookup x.c.packs x.cx.pack with
  | none => fExec 0x0202
  | some p =>
    if x.here a ∧ p.codeBase ≤ localOf a ∧ localOf a + 16 ≤ p.codeBase + p.codeLen then
      let (_, x1) ← x.load a 16
      return x1
    else fExec 0x0202

/-- One instruction of strand `i` of context `k` by its opcode and body, when the strand may issue; else nothing happens
(log 2, DESIGN CHOICE, log 13, DESIGN CHOICE). -/
def issueCore (env : Env) (f : Body → X → Res X) (op k i : Nat) (b : Body) (c : Core) : Core :=
  match viewOf env c k i op with
  | none => c
  | some x =>
    if x.ready then
      match fetchCheck x with
      | .ok y => settle y b (f b y)
      | .error e => settle x b (.error e)
    else c

/-- A waiting instruction taken up again: `f` is the meaning of its opcode. -/
def resumeCore (env : Env) (f : Nat → Body → X → Res X) (k i : Nat) (c : Core) : Core :=
  match viewOf env c k i 0 with
  | none => c
  | some x0 =>
    match x0.r.held with
    | none => c
    | some h =>
      if x0.cx.live && x0.r.me.isSome then
        let x := { x0 with op := h.op, trapOn := h.trapOn, r := { x0.r with held := none } }
        settle x h.body (f h.op h.body x)
      else c

end Sys2Proof.Machine
end

