-- ==== Sys2Proof/Machine/Scalar.lean ====
section
/-!
DEFINITION. The scalar and control instructions (R126, R127, Tables 5.7 to 5.10) and the system instructions that touch
only the strand (R107, R114, R141, R333).
-/
namespace Sys2Proof.Machine

/-- SALU functions (Table 5.8) on 64-bit operands. -/
def salu (f a b : Nat) : Nat :=
  let sa := signed a 64
  let sb := signed b 64
  match f with
  | 0x00 => (a + b) % 2 ^ 64
  | 0x01 => (a + 2 ^ 64 - b) % 2 ^ 64
  | 0x02 => a * b % 2 ^ 64
  | 0x03 => a * b / 2 ^ 64
  | 0x04 => encInt 64 (sa * sb / 2 ^ 64)
  | 0x05 => if b = 0 then 2 ^ 64 - 1 else a / b
  | 0x06 => if b = 0 then 2 ^ 64 - 1 else encInt 64 (sa.tdiv sb)
  | 0x07 => if b = 0 then a else a % b
  | 0x08 => if b = 0 then a else encInt 64 (sa.tmod sb)
  | 0x09 => a &&& b
  | 0x0A => a ||| b
  | 0x0B => a ^^^ b
  | 0x0C => a * 2 ^ (b % 64) % 2 ^ 64
  | 0x0D => a / 2 ^ (b % 64)
  | 0x0E => encInt 64 (sa / 2 ^ (b % 64))
  | 0x0F => if sa ≤ sb then a else b
  | 0x10 => if sa ≤ sb then b else a
  | 0x11 => if a ≤ b then a else b
  | _ => if a ≤ b then b else a

/-- SCMP functions (Table 5.9). -/
def scmp (f a b : Nat) : Bool :=
  match f with
  | 0 => a == b
  | 1 => a != b
  | 2 => signed a 64 < signed b 64
  | 3 => signed b 64 ≤ signed a 64
  | 4 => a < b
  | _ => b ≤ a

/-- PLOG functions (Table 5.9). -/
def plog (f : Nat) (a b : Bool) : Bool :=
  match f with
  | 0 => a && b
  | 1 => a || b
  | 2 => a != b
  | 3 => a && !b
  | _ => !a

/-- No check beyond the encoding. -/
def noChk (_ : Ins) : Res Unit := .ok ()

def nopFn (b : Body) (x : X) : Res X := x.guard b noChk fun _ _ => .ok x
def saluFn (b : Body) (x : X) : Res X := x.guard b noChk fun i _ => .ok (x.setS i.op1 (salu i.func (x.s i.op2) (x.s i.op3)))
def saluiFn (b : Body) (x : X) : Res X := x.guard b noChk fun i _ => .ok (x.setS i.op1 (salu i.func (x.s i.op2) i.imm))
def scmpFn (b : Body) (x : X) : Res X := x.guard b noChk fun i _ => .ok (x.setP i.op1 (scmp i.func (x.s i.op2) (x.s i.op3)))
def scmpiFn (b : Body) (x : X) : Res X := x.guard b noChk fun i _ => .ok (x.setP i.op1 (scmp i.func (x.s i.op2) i.imm))
def plogFn (b : Body) (x : X) : Res X :=
  x.guard b noChk fun i _ =>
    .ok (x.setP i.op1 (plog i.func (x.p i.op2) (x.p i.op3)))
def smoviFn (b : Body) (x : X) : Res X := x.guard b noChk fun i _ => .ok (x.setS i.op1 i.imm)

/-- Bytes of a load or store size (Table 5.10). -/
def sldSize (f : Nat) : Nat := [8, 4, 4, 2, 2, 1, 1].getD f 8
def sstSize (f : Nat) : Nat := [8, 4, 2, 1].getD f 8

/-- SLD's value from its bytes: odd FUNC values zero-extend, even ones from 2 sign-extend. -/
def sldExtend (f v : Nat) : Nat := if f = 2 ∨ f = 4 ∨ f = 6 then encInt 64 (signed v (8 * sldSize f)) else v

/-- SLD (R127). -/
def sldFn (b : Body) (x : X) : Res X :=
  x.guard b noChk fun i _ => do
    let (bs, x1) ← x.load ((x.s i.op2 + i.imm) % 2 ^ 64) (sldSize i.func) 2
    return x1.setS i.op1 (sldExtend i.func (ofLE bs))

/-- SST (R127). -/
def sstFn (b : Body) (x : X) : Res X :=
  x.guard b noChk fun i _ => x.store ((x.s i.op2 + i.imm) % 2 ^ 64) (leBytes (sstSize i.func) (x.s i.op3)) 2

/-- pc + 16 × IMM with IMM signed. -/
def branchTo (x : X) (imm : Nat) : Nat := (x.r.pc.toNat + 16 * imm) % 2 ^ 64

def brFn (b : Body) (x : X) : Res X := x.guard b noChk fun i _ => .ok { x with jump := some (branchTo x i.imm) }
/-- CALL: the link register is never s0 (R126). -/
def callFn (b : Body) (x : X) : Res X :=
  x.guard b noChk fun i _ =>
    .ok { x.setS i.op1 (x.r.pc.toNat + 16) with jump := some (branchTo x i.imm) }
def briFn (b : Body) (x : X) : Res X := x.guard b noChk fun i _ => .ok { x with jump := some (x.s i.op2 / 16 * 16) }
/-- END: the strand ends (R87). -/
def endFn (b : Body) (x : X) : Res X := x.guard b noChk fun _ _ => .ok { x with ended := true }

/-- OPHINT: the preferred operating point (R333); IMM[63:4] must be 0. -/
def ophintFn (b : Body) (x : X) : Res X :=
  x.guard b noChk fun i _ => .ok { x with r := { x.r with prefer := i.imm } }
/-- CCNT: the CCLK counter of the strand's die (R141). -/
def ccntFn (b : Body) (x : X) : Res X :=
  x.guard b noChk fun i _ =>
    let r := x.c.readCclk x.die
    .ok ({ x with c := r.2 }.setS i.op1 r.1)

/-- CAP_VERSION, CAP_MASK0 and CAP_MASK1 (R114). -/
def capReg (n : Nat) : Nat := [0x400A0100, 0x7FFF, 0].getD n 0

def caprdFn (b : Body) (x : X) : Res X := x.guard b noChk fun i _ => .ok (x.setS i.op1 (capReg i.func))
def yieldFn (b : Body) (x : X) : Res X := x.guard b noChk fun _ _ => .ok x

/-- FENCE (R105): with every access of the model performed in order it waits only for remote acknowledgements. -/
def fenceFn (b : Body) (x : X) : Res X :=
  x.guard b noChk fun _ _ => if x.r.acks = 0 then .ok x else .error (.hold .acks none)

end Sys2Proof.Machine
end

