-- ==== Sys2Proof/Machine/Vector.lean ====
section
/-!
DEFINITION. The vector and row-unit instructions (R128 to R130, R184 to R188, R199, R423) and the descriptor instructions
(R131).
-/
namespace Sys2Proof.Machine

/-- Whether element `i` is selected: MASK = 0, or element i of v[OP4] is non-zero. -/
def X.sel (x : X) (i : Ins) : Nat → Bool :=
  let m := x.v i.op4
  fun k => !i.mask || m.getD k 0 != 0

/-- Where a NaN of lane `k` is reported (Table 2.15). (log 42, DEDUCED) -/
def laneLoc (k : Nat) : NanInfo := { cause := 0, row := 0, col := k }

/-- Events of the selected lanes recorded. -/
def X.noteLanes (x : X) (sel : Nat → Bool) (rs : List (Nat × Ev)) : X :=
  (List.range rs.length).foldl (fun (y : X) k => if sel k then y.note (rs.getD k (0, Ev.none)).2 (laneLoc k) else y) x

/-- Lane results merged into old lanes where selected. -/
def mergeLanes (sel : Nat → Bool) (old : List Nat) (rs : List (Nat × Ev)) : List Nat :=
  (List.range 64).map (fun k => if sel k then (rs.getD k (0, Ev.none)).1 else old.getD k 0)

/-- Result of a vector operation into a single register. -/
def X.putLanes (x : X) (n : Nat) (sel : Nat → Bool) (rs : List (Nat × Ev)) : X :=
  (x.noteLanes sel rs).setV n (mergeLanes sel (x.v n) rs)

/-- Result of a vector operation into an FP64 pair. -/
def X.putPairs (x : X) (n : Nat) (sel : Nat → Bool) (rs : List (Nat × Ev)) : X :=
  (x.noteLanes sel rs).setPair n (mergeLanes sel (x.pair n) rs)

/-- Per-lane map of a two-operand function. -/
def lanes2 (f : Nat → Nat → Nat × Ev) (a b : List Nat) : List (Nat × Ev) := List.zipWith f a b

/-- FP32 VALU functions 0x00 to 0x0B and integer functions 0x10 to 0x1A (Table 5.12). -/
def valu32 (f a b : Nat) : Nat × Ev :=
  let sa := signed a 32
  let sb := signed b 32
  match f with
  | 0x00 => fadd a b
  | 0x01 => fsub a b
  | 0x02 => fmul a b
  | 0x03 => fmin a b
  | 0x04 => fmax a b
  | 0x05 => (a % 2 ^ 31, Ev.none)
  | 0x06 => (a ^^^ 2 ^ 31, Ev.none)
  | 0x07 => (a % 2 ^ 31 + b / 2 ^ 31 * 2 ^ 31, Ev.none)
  | 0x08 => fsqrt a
  | 0x09 => fdiv a b
  | 0x0A => numToInt 9 0 true 0 (d32 a)
  | 0x0B => f32OfInt sa
  | 0x10 => ((a + b) % 2 ^ 32, Ev.none)
  | 0x11 => ((a + 2 ^ 32 - b) % 2 ^ 32, Ev.none)
  | 0x12 => (a * b % 2 ^ 32, Ev.none)
  | 0x13 => (a &&& b, Ev.none)
  | 0x14 => (a ||| b, Ev.none)
  | 0x15 => (a ^^^ b, Ev.none)
  | 0x16 => (a * 2 ^ (b % 32) % 2 ^ 32, Ev.none)
  | 0x17 => (a / 2 ^ (b % 32), Ev.none)
  | 0x18 => (encInt 32 (sa / 2 ^ (b % 32)), Ev.none)
  | 0x19 => (if sa ≤ sb then a else b, Ev.none)
  | _ => (if sa ≤ sb then b else a, Ev.none)

/-- FP64 VALU functions 0x80 to 0x89. -/
def valu64 (f a b : Nat) : Nat × Ev :=
  match f with
  | 0x80 => addC fp64 a b
  | 0x81 => subC fp64 a b
  | 0x82 => mulC fp64 a b
  | 0x83 => minC fp64 a b
  | 0x84 => maxC fp64 a b
  | 0x85 => (a % 2 ^ 63, Ev.none)
  | 0x86 => (a ^^^ 2 ^ 63, Ev.none)
  | 0x87 => (a % 2 ^ 63 + b / 2 ^ 63 * 2 ^ 63, Ev.none)
  | 0x88 => sqrtC fp64 a
  | _ => divC fp64 a b

def valuFn (b : Body) (x : X) : Res X :=
  x.guard b noChk fun i _ =>
    let sel := x.sel i
    .ok (if i.func < 0x80 then x.putLanes i.op1 sel (lanes2 (valu32 i.func) (x.v i.op2) (x.v i.op3))
    else if i.func = 0x8C then x.putPairs i.op1 sel ((x.v i.op2).map (fun a => roundNum fp64 0 false 0 (d32 a)))
    else if i.func = 0x8D then x.putLanes i.op1 sel ((x.pair i.op2).map (fun a => roundNum fp32 0 false 0 (d64 a)))
    else x.putPairs i.op1 sel (lanes2 (valu64 i.func) (x.pair i.op2) (x.pair i.op3)))

/-- VFMA: OP4 is a source, so MASK is 0 (R128). -/
def vfmaFn (b : Body) (x : X) : Res X :=
  x.guard b noChk fun i _ =>
    let all := fun _ => true
    .ok (if i.func = 0 then
      x.putLanes i.op1 all (List.zipWith (fun ab c => ffma ab.1 ab.2 c) ((x.v i.op2).zip (x.v i.op3)) (x.v i.op4))
    else x.putPairs i.op1 all
      (List.zipWith (fun ab c => fmaC fp64 ab.1 ab.2 c) ((x.pair i.op2).zip (x.pair i.op3)) (x.pair i.op4)))

/-- A floating comparison (Table 5.13, R51). -/
def fcmp (f : Nat) (a b : Num) : Bool :=
  let o := cmpN a b
  match f with
  | 0 => o == some .eq
  | 1 => o != some .eq
  | 2 => o == some .lt
  | 3 => o == some .lt || o == some .eq
  | 4 => o == some .gt
  | 5 => o == some .gt || o == some .eq
  | _ => o == none

/-- An integer comparison (Table 5.13), signed. -/
def icmp (f : Nat) (a b : Nat) : Bool :=
  let x := signed a 32
  let y := signed b 32
  match f with
  | 0 => a == b
  | 1 => a != b
  | 2 => x < y
  | 3 => x ≤ y
  | 4 => y < x
  | _ => y ≤ x

/-- An all-ones or zero lane. -/
def boolLane (b : Bool) : Nat := if b then 2 ^ 32 - 1 else 0

/-- A comparison raises INVALID for a signalling operand and creates no NaN value (R51). -/
def cmpLane (f : Nat) (a b : Num) : Nat × Ev := (boolLane (fcmp f a b), ⟨(cmpEv a b).flags, (cmpEv a b).cause⟩)

def vcmpFn (b : Body) (x : X) : Res X :=
  x.guard b noChk fun i _ =>
    let sel := x.sel i
    .ok (x.putLanes i.op1 sel
      (if i.func < 0x10 then lanes2 (fun a c => cmpLane i.func (d32 a) (d32 c)) (x.v i.op2) (x.v i.op3)
       else if i.func < 0x80 then lanes2 (fun a c => (boolLane (icmp (i.func - 0x10) a c), Ev.none)) (x.v i.op2) (x.v i.op3)
       else lanes2 (fun a c => cmpLane (i.func - 0x80) (d64 a) (d64 c)) (x.pair i.op2) (x.pair i.op3)))

def vselFn (b : Body) (x : X) : Res X :=
  x.guard b noChk fun i _ =>
    let c := x.v i.op4
    .ok (x.setV i.op1 ((List.range 64).map (fun k =>
      if c.getD k 0 ≠ 0 then (x.v i.op2).getD k 0 else (x.v i.op3).getD k 0)))

/-- The operation of VRED by FUNC (R129). -/
def vredOp (f : Nat) : Nat → Nat → Nat × Ev :=
  match f with
  | 0 => addR fp32 | 1 => fmax | 2 => fmin | 3 => valu32 0x10 | _ => addR fp64

/-- VRED (R129): unselected elements take the identity, the rest of the destination becomes +0. (log 73, DEDUCED) -/
def vredFn (b : Body) (x : X) : Res X :=
  x.guard b noChk fun i _ =>
    let sel := x.sel i
    let ident := match i.func with
      | 0 => 0x80000000 | 1 => negInf32 | 2 => 0x7F800000 | 3 => 0 | _ => 2 ^ 63
    let src := if i.func = 0x80 then x.pair i.op2 else x.v i.op2
    let els := (List.range 64).map (fun k => if sel k then src.getD k 0 else ident)
    let r := treeC (vredOp i.func) els 0
    let y := x.note r.2 (laneLoc 0)
    .ok (if i.func = 0x80 then y.setPair i.op1 [r.1] else y.setV i.op1 [r.1])

def vpermFn (b : Body) (x : X) : Res X :=
  x.guard b noChk fun i _ =>
    let src := x.v i.op2
    .ok (x.putLanes i.op1 (x.sel i) ((x.v i.op3).map (fun k => (src.getD (k % 64) 0, Ev.none))))

def vbcastFn (b : Body) (x : X) : Res X :=
  x.guard b noChk fun i _ => .ok (x.putLanes i.op1 (x.sel i) (List.replicate 64 (x.s i.op2 % 2 ^ 32, Ev.none)))

def vmovsFn (b : Body) (x : X) : Res X :=
  x.guard b noChk fun i _ => .ok (x.setS i.op1 ((x.v i.op2).getD (x.s i.op3 % 64) 0))

def vexp2Fn (b : Body) (x : X) : Res X := x.guard b noChk fun i _ => .ok (x.putLanes i.op1 (x.sel i) ((x.v i.op2).map vexp2))
def vlog2Fn (b : Body) (x : X) : Res X := x.guard b noChk fun i _ => .ok (x.putLanes i.op1 (x.sel i) ((x.v i.op2).map vlog2))

/-- The image that a launch of the context binds to a table slot (R191). -/
def Core.bound (c : Core) (cx : Context) (slot : Nat) : Option (List Byte) :=
  match lookup c.packs cx.pack with
  | none => none
  | some p =>
    (cx.launches.filter (fun l => l.base.isSome)).findSome? (fun l =>
      match (p.entries[l.entry]?).bind (fun e => (e.tables.getD slot none)) with
      | some k => p.tables[k]?
      | none => none)

/-- Key of a slot of a quad as context `k` has it there (R22, R191, R192; log 14, DEDUCED). -/
def ftabKey (k quad slot : Nat) : Nat := k * 128 + quad * 4 + slot

/-- The table in a slot of the strand's quad, loaded for its context (R191). (log 14, DEDUCED) -/
def X.table (x : X) (slot : Nat) : Option (List Byte) := lookup x.c.ftab (ftabKey x.k (x.me / 4) slot)

def vtabFn (b : Body) (x : X) : Res X :=
  x.guard b noChk fun i _ => .ok (x.putLanes i.op1 (x.sel i) ((x.v i.op2).map (vtab (x.table i.func))))

def vstatFn (b : Body) (x : X) : Res X :=
  x.guard b noChk fun i _ =>
    let sel := x.sel i
    let src := x.v i.op2
    let r := vstat (x.v i.op1) ((List.range 64).map (fun k => if sel k then some (src.getD k 0) else none))
    let y := (r.1 ++ r.2).foldl (fun (y : X) e => y.note e.2 (laneLoc 0)) x
    .ok ((y.setV i.op1 (r.1.map Prod.fst)).setV (i.op1 + 1) (r.2.map Prod.fst))

/-- Format rule of VLD and VST: FUNC 1 moves FP64 through an even pair (R130). -/
def vmemUse (i : Ins) (dest : Bool) : Use :=
  { fmt := fun f => if i.func = 1 then f == 0 else f != 0, comp := !dest, dest := dest }

/-- Checks of VLD. -/
def vldChk (x : X) (i : Ins) : Res Td := x.dreg i.op2 (vmemUse i false)

/-- What VLD does once its checks pass. -/
def vldRun (x : X) (i : Ins) (t : Td) : Res X := do
  let all := fun _ => true
  if t.fmt ≤ 1 then
    -- no format change: every bit is kept (R36)
    let (cs, x1) ← x.rowCodes t (x.s i.op3) (x.s i.op4) 64
    let rs := cs.map (fun c => (c, Ev.none))
    return if t.fmt = 0 then x1.putPairs i.op1 all rs else x1.putLanes i.op1 all rs
  else
    let (vals, x1) ← x.rowVals t .col (x.s i.op3) (x.s i.op4) 64
    return x1.putLanes i.op1 all (vals.map (fun v => match v with
    | .f n => roundNum fp32 0 false 0 n
    | .i z => (encInt 32 z, Ev.none)))

/-- VLD (R92, R130). -/
def vldFn (b : Body) (x : X) : Res X := x.guard b (vldChk x) (vldRun x)

/-- Lanes read as the source of a vector store (R130): FP32 for floating and scaled destinations, else I32. -/
def vstVals (t : Td) (l : List Nat) : List Val :=
  if isFloat t.fmt ∨ t.scaled then l.map (fun c => .f (d32 c)) else l.map (fun c => .i (signed c 32))

/-- Checks of VST; a scaled destination takes whole groups (R424). -/
def vstChk (x : X) (i : Ins) : Res Td := do
  let t ← x.dreg i.op2 (vmemUse i true)
  need (!t.scaled || x.s i.op4 % 32 == 0) 0x0407 t.operand
  return t

/-- What VST does once its checks pass. -/
def vstRun (x : X) (i : Ins) (t : Td) : Res X := do
  let c := x.s i.op4
  let r := x.s i.op3
  if t.fmt ≤ 1 then
    -- no format change: every bit is kept (R36)
    let cs := if t.fmt = 0 then x.pair i.op1 else x.v i.op1
    return ← if r < t.rows ∧ c < t.e0 then x.putCodes t r c (cs.take (t.e0 - c)) else .ok x
  let (_, x1) ← x.putRow t r c (vstVals t (x.v i.op1)) (fun k => { cause := 0, row := r % 2 ^ 32, col := (c + k) % 2 ^ 32 })
  return x1

/-- VST (R130, R424). -/
def vstFn (b : Body) (x : X) : Res X := x.guard b (vstChk x) (vstRun x)

/-- A slot must lie in the strand's ACM allocation (R145). -/
def slotChk (x : X) (t : Nat) (k : Nat) : Res Unit := need (t < x.r.acmAlloc) 0x0314 k

/-- The accumulation, and its base slot, that covers a slot. -/
def X.accAt (x : X) (t : Nat) : Option (Nat × Acc) := x.tm.accs.find? (fun a => a.1 ≤ t && t < a.1 + 2 * (a.2.depth + 1))

/-- VTRD (R423). -/
def vtrdFn (b : Body) (x : X) : Res X :=
  x.guard b noChk fun i _ => do
    slotChk x i.op2 2
    let (ws, x1) ← x.slotWords i.op2
    return x1.setV i.op1 ((ws.drop (64 * (x.s i.op3 % 16))).take 64)

/-- Checks of VTWR's slot (R423). -/
def vtwrChk (x : X) (i : Ins) : Res Unit := do
  slotChk x i.op2 2
  need ((x.accAt i.op2).all (fun a => a.2.finished)) 0x0314 2

/-- What VTWR does once its encoding is checked. -/
def vtwrRun (x : X) (i : Ins) (_ : Unit) : Res X := do
  vtwrChk x i
  let (ws, x1) ← x.slotWords i.op2
  let o := 64 * (x.s i.op3 % 16)
  let sel := x.sel i
  let new := (List.range 64).map (fun k => if sel k then (x.v i.op1).getD k 0 else ws.getD (o + k) 0)
  let x2 := x1.tileWrite true (4096 * i.op2 + 4 * o) (new.flatMap (leBytes 4))
  return { x2 with tm := { x2.tm with accs := match x.accAt i.op2 with
    | some a => eraseKey a.1 x2.tm.accs
    | none => x2.tm.accs } }

/-- VTWR (R423): a write into a finished accumulation ends it. -/
def vtwrFn (b : Body) (x : X) : Res X := x.guard b noChk (vtwrRun x)

/-- Address of DLD and DST: 64-byte aligned (R131). -/
def dAddr (x : X) (i : Ins) : Nat := (x.s i.op2 + i.imm) % 2 ^ 64
def dAddrChk (x : X) (i : Ins) : Res Unit := need (dAddr x i % 64 == 0) 0x0405 2

def dldFn (b : Body) (x : X) : Res X :=
  x.guard b (dAddrChk x) fun i _ => do
    let (bs, x1) ← x.load (dAddr x i) 64 2
    return x1.setD i.op1 (ofLE bs)
def dstFn (b : Body) (x : X) : Res X :=
  x.guard b (dAddrChk x) fun i _ => x.store (dAddr x i) (leBytes 64 (x.d i.op3)) 2
def dsetFn (b : Body) (x : X) : Res X :=
  x.guard b noChk fun i _ => .ok (x.setD i.op1 (setBits (x.d i.op1) (64 * i.func) 64 (x.s i.op2)))
def dgetFn (b : Body) (x : X) : Res X :=
  x.guard b noChk fun i _ => .ok (x.setS i.op1 (bits (x.d i.op2) (64 * i.func) 64))

end Sys2Proof.Machine
end

