-- ==== Sys2Proof/Machine/Accum.lean ====
section
/-!
DEFINITION. Accumulation (03_matrix_engines.md): encodings (R68, R69), classes of operand pairs (R67), the beat update
(R70, R71, R78), chain steps (R77), tree merges and push_node and finish (R74), node records (Table 3.6), and the
canonical result of a whole reduction (R73).
-/
namespace Sys2Proof.Machine

/-! ### Encodings and additions -/

/-- The floating format of a kind (R69, R76); INT has none. -/
def AccKind.fmt : AccKind → FloatFmt
  | .acc => accFmt
  | _ => fp64

/-- −0 of a kind, the starting value of a grain accumulator (R70); 0 for INT. -/
def AccKind.negZero : AccKind → Nat
  | .acc => 2 ^ 51
  | .int => 0
  | _ => 2 ^ 63

/-- Code of a kind (Table 3.3). -/
def AccKind.code : AccKind → Nat
  | .acc => 1 | .f64 => 2 | .int => 3 | .chain => 4

/-- The kind a code names. -/
def AccKind.ofCode : Nat → Option AccKind
  | 1 => some .acc | 2 => some .f64 | 3 => some .int | 4 => some .chain | _ => none

/-- The value of an encoding. -/
def AccKind.val (k : AccKind) (c : Nat) : Val :=
  match k with
  | .int => .i (signed c 32)
  | _ => .f (k.fmt.decode c)

/-- The value an empty reduction has (R73). -/
def AccKind.zero (k : AccKind) (rdnz : Bool) : Nat := if rdnz then k.negZero else 0

/-- An integer addition of R78: wraps or saturates at 32 bits. -/
def iadd (sat : Bool) (z : Int) : Nat × Ev :=
  if intMin 9 ≤ z ∧ z ≤ intMax 9 then (encInt 32 z, Ev.none)
  else if sat then (encInt 32 (if z < 0 then intMin 9 else intMax 9), ⟨fOVERFLOW ||| fSATUR, 0⟩)
  else (encInt 32 z, ⟨fOVERFLOW, 0⟩)

/-- acc_add of two encodings (R72 to R74, R78). (log 42, DEDUCED) -/
def accAdd (k : AccKind) (sat rdnz : Bool) (a b : Nat) : Nat × Ev :=
  match k with
  | .int => iadd sat (signed a 32 + signed b 32)
  | _ => rne k.fmt (sumN rdnz 2 [k.fmt.decode a, k.fmt.decode b])

/-! ### Classes -/

/-- Formats a matrix operation takes (R67). -/
def matFmt (f : Nat) : Bool := f ≤ 8 || f == 11 || f == 12 || f == 13

/-- The lane expander (Table 2.4). -/
def laneFmt (f : Nat) : Nat := if f = 6 ∨ f = 7 ∨ f = 8 then 5 else if f = 13 then 11 else f

/-- Working classes (Table 3.1). -/
inductive MClass where
  | f8 | i8 | c16 | c32 | c64
deriving DecidableEq, Repr

/-- Class of an operand pair (Table 3.2). -/
def classOf (a b : Nat) : MClass :=
  let x := laneFmt a
  let y := laneFmt b
  let isI := fun f => f = 11 ∨ f = 12
  if x = 0 ∨ y = 0 then .c64
  else if x = 1 ∨ y = 1 then .c32
  else if (x = 2 ∧ y = 3) ∨ (x = 3 ∧ y = 2) then .c32
  else if isI x ∧ isI y then .i8
  else if (x = 4 ∨ x = 5) ∧ x = y then .f8
  else .c16

/-- Kind of accumulation a product goes into (Tables 3.1, 3.3). -/
def kindOf (c : MClass) (scaled chain : Bool) : AccKind :=
  match c with
  | .c64 => if chain then .chain else .f64
  | .i8 => if scaled then .acc else .int
  | _ => .acc

/-! ### Beats -/

/-- The beat update of one element (R70, R71, R78): lanes are pairs of operand values with their scales applied. A NaN
created in it has cause 0x0001 (0 × ∞) or 0x0002 (∞ − ∞), chain steps included (R72). -/
def beatElem (k : AccKind) (sat rdnz : Bool) (acc : Nat) (lanes : List (Val × Val)) : Nat × Ev :=
  match k with
  | .int =>
    iadd sat (lanes.foldl (fun z p => match p.1, p.2 with
      | .i a, .i b => z + a * b
      | _, _ => z) (signed acc 32))
  | .chain =>
    let r := lanes.foldl (fun (r : Nat × Ev) p =>
      let (v, ev) := fmaCause 1 2 rdnz p.1.num p.2.num (d64 r.1)
      let (c, e2) := roundNum fp64 (if rdnz then 3 else 0) false 0 v
      (c, (r.2.join ev).join e2)) (acc, Ev.none)
    r
  | _ =>
    let ps := lanes.map (fun p => mulN 1 p.1.num p.2.num)
    let (v, ev) := sumN rdnz 2 (k.fmt.decode acc :: ps.map Prod.fst)
    rne k.fmt (v, (Ev.all (ps.map Prod.snd)).join ev)

/-- grain_partial of R73 for one element: beats of 32 lanes in ascending order from −0. -/
def beatsFrom (k : AccKind) (sat rdnz : Bool) : Nat → Nat × Ev → List (Val × Val) → Nat × Ev
  | 0, a, _ => a
  | fuel + 1, a, ls =>
    if ls.isEmpty then a
    else
      let r := beatElem k sat rdnz a.1 (ls.take 32)
      beatsFrom k sat rdnz fuel (r.1, a.2.join r.2) (ls.drop 32)

/-- A grain partial. -/
def grainPartial (k : AccKind) (sat rdnz : Bool) (ls : List (Val × Val)) : Nat × Ev :=
  beatsFrom k sat rdnz 33 (k.negZero, Ev.none) ls

/-- Lists of at most 1,024 lanes, one per grain. -/
def grainsOf : Nat → List (Val × Val) → List (List (Val × Val))
  | 0, _ => []
  | fuel + 1, ls => if ls.isEmpty then [] else ls.take 1024 :: grainsOf fuel (ls.drop 1024)

/-- canonical_result of R73 before its final rounding: a reduction over lanes given in ascending k. -/
def canonical (k : AccKind) (sat rdnz : Bool) (ls : List (Val × Val)) : Nat × Ev :=
  if ls.isEmpty then (k.zero rdnz, Ev.none)
  else match k with
    | .chain => beatElem .chain sat rdnz k.negZero ls
    | _ =>
      let ps := (grainsOf (ls.length / 1024 + 1) ls).map (grainPartial k sat rdnz)
      (treeFold (fun (a b : Nat × Ev) => let r := accAdd k sat rdnz a.1 b.1; (r.1, (a.2.join b.2).join r.2))
        ps.length ps).getD (k.zero rdnz, Ev.none)

/-! ### Tags and the tree stack -/

/-- push_node on tags only (R149): the stack is given top first. -/
def pushTag : List (Nat × Nat) → Nat → Nat → List (Nat × Nat)
  | [], j, a => [(j, a)]
  | (l, i) :: t, j, a => if a % 2 = 1 ∧ l = j ∧ i + 1 = a then pushTag t (j + 1) (a / 2) else (j, a) :: (l, i) :: t

/-- stack_need of R149. -/
def stackNeed (gstart count : Nat) (pushLast : Bool) : Nat :=
  ((List.range (if pushLast then count else count - 1)).foldl (fun (r : List (Nat × Nat) × Nat) i =>
    let st := pushTag r.1 0 (gstart + i)
    (st, max r.2 st.length)) ([], 0)).2

/-- A node with its 1,024 encodings. -/
structure Node where
  level : Nat
  index : Nat
  vals : List Nat
deriving DecidableEq, Repr

/-- acc_add over a whole tile. -/
def tileAdd (k : AccKind) (sat rdnz : Bool) (a b : List Nat) : List (Nat × Ev) := List.zipWith (accAdd k sat rdnz) a b

/-- push_node (R74) on a stack given top first; answers the stack and the events by element. -/
def pushNode (k : AccKind) (sat rdnz : Bool) : List Node → Node → List (Nat × Ev) → List Node × List (Nat × Ev)
  | [], v, evs => ([v], evs)
  | t :: rest, v, evs =>
    if v.index % 2 = 1 ∧ t.level = v.level ∧ t.index + 1 = v.index then
      let r := tileAdd k sat rdnz t.vals v.vals
      pushNode k sat rdnz rest ⟨v.level + 1, v.index / 2, r.map Prod.fst⟩ (evs ++ r.zipIdx.map (fun e => (e.2, e.1.2)))
    else (v :: t :: rest, evs)

/-- finish (R74): the last value merged with the stack from the top down. -/
def finishNode (k : AccKind) (sat rdnz : Bool) (st : List Node) (last : List Nat) : List Nat × List (Nat × Ev) :=
  st.foldl (fun (r : List Nat × List (Nat × Ev)) n =>
    let q := tileAdd k sat rdnz n.vals r.1
    (q.map Prod.fst, r.2 ++ q.zipIdx.map (fun e => (e.2, e.1.2)))) (last, [])

/-- Events by element of a tile recorded; `place` is where its first element stands (Table 2.15). -/
def X.noteTile (x : X) (place : NanInfo) (grain : Nat) (evs : List (Nat × Ev)) : X :=
  evs.foldl (fun (y : X) e => y.note e.2 { place with row := place.row + e.1 / 32, col := place.col + e.1 % 32, grain := grain }) x

/-! ### Node records -/

/-- A node record (Table 3.6). -/
structure NodeRec where
  kind : AccKind
  level : Nat
  index : Nat
  ngrain : Nat
  row : Nat
  col : Nat
  flags : Nat
  vals : List Nat
deriving DecidableEq, Repr

/-- The bytes of a record. -/
def NodeRec.bytes (r : NodeRec) : List Byte :=
  layout 64 [(0, 2, 1), (2, 1, r.kind.code), (3, 1, r.level), (4, 4, r.index), (8, 4, r.ngrain), (0xC, 4, r.row),
    (0x10, 4, r.col), (0x14, 1, r.flags)] ++ r.vals.flatMap (leBytes 8)

/-- A record's fields, or none where it breaks Table 3.6 (fault 0x0315). -/
def nodeRecOf (b : List Byte) : Option NodeRec :=
  match AccKind.ofCode (fld b 2 1) with
  | none => none
  | some k =>
    let fl := fld b 0x14 1
    if fld b 0 2 = 1 ∧ k ≠ .chain ∧ fld b 3 1 ≤ 31 ∧ fl < 4 ∧ (fl % 2 = 0 ∨ k = .int) ∧ zeroAt b 0x15 43 then
      some ⟨k, fld b 3 1, fld b 4 4, fld b 8 4, fld b 0xC 4, fld b 0x10 4, fl, wordsOf 8 1024 (b.drop 64)⟩
    else none

def nodeLen : Nat := 8256

/-- Records sorted by their first grain. -/
def insertRec (r : NodeRec) : List NodeRec → List NodeRec
  | [] => [r]
  | q :: t => if r.index * 2 ^ r.level ≤ q.index * 2 ^ q.level then r :: q :: t else q :: insertRec r t

/-- Whether sorted records exactly cover grains `g` to NGRAIN − 1 and agree on their common fields (R75). -/
def coverFrom (h : NodeRec) : Nat → List NodeRec → Bool
  | g, [] => g == h.ngrain
  | g, r :: t =>
    r.index * 2 ^ r.level == g && r.kind == h.kind && r.ngrain == h.ngrain && r.row == h.row && r.col == h.col &&
    r.flags == h.flags && g + 2 ^ r.level ≤ h.ngrain && coverFrom h (g + 2 ^ r.level) t

/-- GRED's arithmetic (R75): the finished tile of a set of records, or none when they are not an exact cover. -/
def gredOf (rs : List NodeRec) : Option (NodeRec × List Nat × List (Nat × Ev)) :=
  match rs.foldl (fun l r => insertRec r l) [] with
  | [] => none
  | h :: t =>
    if ¬ coverFrom h 0 (h :: t) then none else
    let sat := bit h.flags 0
    let rdnz := bit h.flags 1
    let (st, ev1) := (h :: t).foldl (fun (s : List Node × List (Nat × Ev)) r =>
      pushNode h.kind sat rdnz s.1 ⟨r.level, r.index, r.vals⟩ s.2) ([], [])
    match st with
    | [] => none
    | top :: rest =>
      let (v, ev2) := finishNode h.kind sat rdnz rest top.vals
      some (h, v, ev1 ++ ev2)

end Sys2Proof.Machine
end

