-- ==== Sys2Proof/Machine/Matrix.lean ====
section
/-!
DEFINITION. The accumulation and matrix instructions (R134 to R136, R74, R75, R79, R80): AOPEN, MMA, MCONV, AFIN, AEXP,
AIMP and GRED. (log 15, DESIGN CHOICE; log 16, DESIGN CHOICE) -/
namespace Sys2Proof.Machine

/-- Accumulations with those that share a slot with slots `t` to `hi` dropped. -/
def dropAccs (l : List (Nat × Acc)) (t hi : Nat) : List (Nat × Acc) :=
  l.filter (fun a => a.1 + 2 * a.2.depth + 1 < t || hi < a.1)

/-- An accumulation set at a base slot. -/
def X.setAcc (x : X) (t : Nat) (a : Acc) : X := { x with tm := { x.tm with accs := insertKey t a x.tm.accs } }

/-- Where the first element of an accumulation's tile stands, by its tags (R135, Table 2.15). -/
def Acc.place (a : Acc) : NanInfo := { cause := 0, row := 32 * a.row, col := 32 * a.col }

/-- The open accumulation whose base slot is `t` (0x0314 where there is none). -/
def X.openAcc (x : X) (t : Nat) : Res Acc :=
  match lookup x.tm.accs t with
  | some a => if a.finished then fIssue 0x0314 1 else .ok a
  | none => fIssue 0x0314 1

/-- An accumulation opened at a slot (R135 item 1). -/
def X.openAt (x : X) (t : Nat) (kind : AccKind) (sat rdnz : Bool) (depth gstart kext row col : Nat) : X :=
  let x1 := { x with tm := { x.tm with accs := dropAccs x.tm.accs t (t + 2 * depth + 1) } }
  (x1.setSlotPair t (List.replicate 1024 kind.negZero)).setAcc t
    { kind := kind, depth := depth, kext := kext, gstart := gstart, next := 32 * gstart, dirty := false, stack := [],
      sat := sat, rdnz := rdnz, row := row, col := col, finished := false }

/-- AOPEN's immediate (Table 5.17): KIND, RDNZ, SAT, S, GSTART, KEXT, with `acm` slots allocated. -/
def aopenRule (acm : Nat) (i : Ins) : Res AccKind := do
  let depth := bits i.imm 54 5
  let gstart := bits i.imm 32 22
  let kext := bits i.imm 0 32
  match AccKind.ofCode (bits i.imm 61 3) with
  | none => fIssue 0x0314
  | some k => do
    need (!bit i.imm 59 || k == .int) 0x0314
    need (i.op1 % 2 == 0 && i.op1 + 2 * depth + 1 < acm) 0x0314 1
    need (k != .chain || (depth == 0 && gstart == 0)) 0x0314
    need (kext == 0 || gstart < ceilDiv kext 1024) 0x0314
    return k

/-- AOPEN (R134, R135). -/
def aopenFn (b : Body) (x : X) : Res X :=
  x.guard b noChk fun i _ => do
    let k ← aopenRule x.r.acmAlloc i
    return (x.openAt i.op1 k (bit i.imm 59) (bit i.imm 60) (bits i.imm 54 5) (bits i.imm 32 22) (bits i.imm 0 32)
      (x.s i.op2 % 2 ^ 32) (x.s i.op3 % 2 ^ 32))

/-! ### Beats of a tile -/

/-- Whether a lane product is gated (R79): one zero operand and the other finite. -/
def gated (a b : Num) : Bool :=
  match a, b with
  | .fin _ m _, .fin _ m' _ => m == 0 || m' == 0
  | _, _ => false

/-- Counts of one beat of one DPU: lane products gated, and adder trees skipped (R79); a chain has no adder tree (R77). -/
def gateCount (k : AccKind) (lanes : List (Val × Val)) : Nat × Nat :=
  let g := (lanes.filter (fun p => gated p.1.num p.2.num)).length
  (g, if g = lanes.length ∧ k ≠ .chain then 1 else 0)

/-- Activity counters of an ME advanced (R80). (log 61, DEDUCED) -/
def Core.countBeats (c : Core) (me beats gate skip : Nat) : Core :=
  let a := (lookup c.acts me).getD {}
  { c with acts := insertKey me ⟨(a.beat + beats) % 2 ^ 64, (a.gate + gate) % 2 ^ 64, (a.skip + skip) % 2 ^ 64⟩ c.acts }

/-- Element of its grain that a NaN of a beat is reported at: the first lane whose product made it, else any lane of the
beat (Table 2.15; log 16, DESIGN CHOICE). -/
def nanLane (seq beat : Nat) (lanes : List (Option (Val × Val))) : Nat :=
  let hit := lanes.findIdx? (fun l => l.any (fun p => (mulN 1 p.1.num p.2.num).2.cause != 0))
  32 * (beat % 32) + hit.getD (Config.freeNat seq % 32)

/-- The counts of beats of ACC, given by their lanes, added to those of the strand's ME (R80). -/
def X.countLanes (x : X) (beats : List (List (Val × Val))) : X :=
  let g := beats.foldl (fun (a : Nat × Nat) ls => let r := gateCount .acc ls; (a.1 + r.1, a.2 + r.2)) (0, 0)
  { x with c := x.c.countBeats x.me 0 g.1 g.2 }

/-- The lanes of each element of a tile, by row and column. -/
abbrev Lanes := Nat → Nat → List (Val × Val)

/-- The lanes that A rows and B columns form. -/
def lanesOf (as bs : List (List Val)) : Lanes := fun i j => (as.getD i []).zip (bs.getD j [])

/-- One beat over a whole tile: new encodings, with the events and the NaN place of each element. -/
def tileBeat (k : AccKind) (sat rdnz : Bool) (seq beat : Nat) (acc : List Nat) (lanes : Lanes) : List (Nat × Ev × Nat) :=
  acc.zipIdx.map (fun e =>
    let ls := lanes (e.2 / 32) (e.2 % 32)
    let r := beatElem k sat rdnz e.1 ls
    (r.1, r.2, if r.2.cause = 0 then 0 else nanLane seq beat (ls.map some)))

/-- Gate and skip counts of one beat over a whole tile. -/
def tileGates (k : AccKind) (lanes : Lanes) : Nat × Nat :=
  (List.range 1024).foldl (fun (g : Nat × Nat) e =>
    let r := gateCount k (lanes (e / 32) (e % 32))
    (g.1 + r.1, g.2 + r.2)) (0, 0)

/-- Thirty-two rows of 32 elements of an OSP operand block's beat (R132), lanes beyond `live` left out; scale codes come
from the OSP offset `sc`. -/
def X.ospBeat (x : X) (off fmt : Nat) (sc : Option Nat) (live : Nat) : Res (List (List Val) × X) := do
  let len := 4 * fmtWidth fmt
  let (bs, x1) ← x.ospRead off (32 * len)
  let (ss, x2) ← match sc with
    | some o => x1.ospRead o 32
    | none => .ok ([], x1)
  return ((List.range 32).map (fun i =>
    let vs := (codesIn fmt 0 32 (slice bs (i * len) len)).map (elemVal fmt)
    ((match sc with
      | some _ => vs.map (fun v => Val.f (scaled v.num (ss.getD i 0).toNat))
      | none => vs) : List Val).take live), x2)

/-- The formats of MMA and MCONV (R31, R32, R67). -/
def mmaFormats (i : Ins) : Res Unit := do
  need (i.afmt != 15 && i.bfmt != 15) 0x0102
  need (matFmt i.afmt && matFmt i.bfmt) 0x0104
  need (!i.sca || fmtWidth i.afmt ≤ 8) 0x0104 2
  need (!i.scb || fmtWidth i.bfmt ≤ 8) 0x0104 3

/-- The class check of MMA and MCONV (R135 item 4). -/
def mmaClass (i : Ins) (a : Acc) : Res Unit := do
  need (kindOf (classOf i.afmt i.bfmt) (i.sca || i.scb) (a.kind == .chain) == a.kind) 0x0314 1

/-- The order of beats (R135 item 5). -/
def beatOrder (x : X) (i : Ins) (a : Acc) : Res Unit :=
  let s := x.s i.op2
  need (s == a.next && a.next / 32 == (a.next + i.n - 1) / 32 && a.next + i.n ≤ ceilDiv a.kext 32) 0x0313 1

/-- Whether the beats up to `next` complete a grain that is pushed: not the reduction's last (R135 item 6). -/
def Acc.pushes (a : Acc) (next : Nat) : Bool := a.kind != .chain && next % 32 == 0 && next < ceilDiv a.kext 32

/-- The stack's tags, top first. -/
def Acc.tags (a : Acc) : List (Nat × Nat) := a.stack.reverse

/-- A push that would not fit the stack faults with 0x0312 (R74). -/
def stackChk (a : Acc) (level index : Nat) : Res Unit := need ((pushTag a.tags level index).length ≤ a.depth) 0x0312 1

/-- Nodes of the tree stack of the accumulation at slot `t`, top first (R68). -/
def X.stackNodes (x : X) (t : Nat) (a : Acc) : Res (List Node × X) := do
  let (ns, x1) ← mapRes x (List.range a.stack.length) (fun y n => do
    let (vs, y1) ← y.slotPair (t + 2 * (n + 1))
    let tag := a.stack.getD n (0, 0)
    return ((⟨tag.1, tag.2, vs⟩ : Node), y1))
  return (ns.reverse, x1)

/-- A node pushed on the accumulation at slot `t` (R74); the caller has checked the depth. -/
def X.push (x : X) (t : Nat) (a : Acc) (place : NanInfo) (n : Node) : Res (Acc × X) := do
  let (st, x1) ← x.stackNodes t a
  let (st', evs) := pushNode a.kind a.sat a.rdnz st n []
  let x2 := x1.noteTile place (n.index * 2 ^ n.level) evs
  let low := st'.reverse
  let x3 := (List.range low.length).foldl (fun (y : X) j =>
    match low[j]? with
    | some nd => if j + 1 = low.length then y.setSlotPair (t + 2 * (j + 1)) nd.vals else y
    | none => y) x2
  return ({ a with stack := low.map (fun nd => (nd.level, nd.index)) }, x3)

/-- `n` beats of the accumulation at slot `t`: `lanes` gives the lanes of each. The tile's first element stands at `place`. -/
def X.beats (x : X) (t : Nat) (a : Acc) (place : NanInfo) (n : Nat) (lanes : X → Nat → Res (Lanes × X)) : Res (Acc × X) := do
  let (acc0, x1) ← x.slotPair t
  let start := if a.kind != .chain && a.next % 32 == 0 then List.replicate 1024 a.kind.negZero else acc0
  let (acc, x2) ← (List.range n).foldlM (fun (p : List Nat × X) j => do
    let beat := a.next + j
    let (ls, y) ← lanes p.2 j
    let rs := tileBeat a.kind a.sat a.rdnz y.c.seq beat p.1 ls
    let g := tileGates a.kind ls
    let y1 := { y with c := y.c.countBeats y.me 1 g.1 g.2 }
    let y2 := rs.zipIdx.foldl (fun (z : X) e =>
      z.note e.1.2.1 { place with row := place.row + e.2 / 32, col := place.col + e.2 % 32, grain := beat / 32, koff := e.1.2.2 }) y1
    return (rs.map Prod.fst, y2)) (start, x1)
  return ({ a with next := a.next + n, dirty := true }, x2.setSlotPair t acc)

/-- An MMA of `n` beats (R135): the beats, then the push of a completed grain that is not the reduction's last. -/
def X.mma (x : X) (t : Nat) (a : Acc) (place : NanInfo) (n : Nat) (lanes : X → Nat → Res (Lanes × X)) : Res X := do
  let (a1, x1) ← x.beats t a place n lanes
  if a.pushes a1.next then
    let (acc, x2) ← x1.slotPair t
    let (a2, x3) ← x2.push t a1 place ⟨0, a1.next / 32 - 1, acc⟩
    return x3.setAcc t { a2 with dirty := false }
  else return x1.setAcc t a1

/-- The lanes of a beat whose operand blocks lie in the OSP at `oa` and `ob`, with the scale codes at `sa` and `sb`. -/
def X.ospLanes (x : X) (oa fa : Nat) (sa : Option Nat) (ob fb : Nat) (sb : Option Nat) (live : Nat) : Res (Lanes × X) := do
  let (as, x1) ← x.ospBeat oa fa sa live
  let (bs, x2) ← x1.ospBeat ob fb sb live
  return (lanesOf as bs, x2)

/-- Checks of MMA that come after its predicate: class, order and stack (R74, R135). -/
def mmaChk (x : X) (i : Ins) : Res Acc := do
  need (i.op1 < x.r.acmAlloc) 0x0314 1
  let a ← x.openAcc i.op1
  mmaClass i a
  beatOrder x i a
  if a.pushes (a.next + i.n) then stackChk a 0 ((a.next + i.n) / 32 - 1)
  return a

/-- What MMA does once its predicate condition holds. -/
def mmaRun (x : X) (i : Ins) (_ : Unit) : Res X := do
  let a ← mmaChk x i
  x.mma i.op1 a a.place i.n (fun y j =>
    y.ospLanes (i.ospa + j * 128 * fmtWidth i.afmt) i.afmt (if i.sca then some (x.s i.op3 + 32 * j) else none)
      (i.ospb + j * 128 * fmtWidth i.bfmt) i.bfmt (if i.scb then some (x.s i.op4 + 32 * j) else none)
      (min 32 (a.kext - 32 * (a.next + j))))

/-- MMA (R134, R135). -/
def mmaFn (b : Body) (x : X) : Res X := x.guard b mmaFormats (mmaRun x)

/-! ### Convolution -/

/-- A convolution word's fields (Table 3.8). -/
structure ConvW where
  groups : Nat
  repl : Bool
  padR : Nat
  padL : Nat
  padB : Nat
  padT : Nat
  dw : Nat
  dh : Nat
  sw : Nat
  sh : Nat
  kw : Nat
  kh : Nat
deriving DecidableEq, Repr

/-- The fields of a convolution word. -/
def convOf (w : Nat) : ConvW :=
  { groups := bits w 40 16 + 1, repl := bit w 39, padR := bits w 34 5, padL := bits w 29 5, padB := bits w 24 5,
    padT := bits w 19 5, dw := bits w 17 2 + 1, dh := bits w 15 2 + 1, sw := bits w 13 2 + 1, sh := bits w 11 2 + 1,
    kw := bits w 8 3, kh := bits w 5 3 }

/-- Whether a convolution word is legal (R81). -/
def convWordOk (w : Nat) : Bool := bits w 0 5 == 0 && bits w 56 8 == 0 && bits w 5 3 != 0 && bits w 8 3 != 0

/-- Output extent of one dimension (R82): 0 where it would be below 1. -/
def convOut (ext pad k d s : Nat) : Nat := if ext + pad < (k - 1) * d + 1 then 0 else (ext + pad - (k - 1) * d - 1) / s + 1

def ConvW.hout (w : ConvW) (h : Nat) : Nat := convOut h (w.padT + w.padB) w.kh w.dh w.sh
def ConvW.wout (w : ConvW) (wd : Nat) : Nat := convOut wd (w.padL + w.padR) w.kw w.dw w.sw

/-- A coordinate of the input (R82): clamped under replicate padding; none outside the input under zero padding. -/
def convCoord (repl : Bool) (ext : Nat) (pos : Int) : Option Nat :=
  if 0 ≤ pos ∧ pos < ext then some pos.toNat
  else if repl then some (if pos < 0 then 0 else ext - 1) else none

/-- Input position (row, column, channel) of reduction index `k` at output (y, x) of group `q` (R82). -/
def ConvW.pos (w : ConvW) (h wd cg q y x k : Nat) : Option (Nat × Nat × Nat) :=
  let ky := k / (w.kw * cg)
  let kx := k / cg % w.kw
  match convCoord w.repl h ((y * w.sh + ky * w.dh : Nat) - (w.padT : Int)),
        convCoord w.repl wd ((x * w.sw + kx * w.dw : Nat) - (w.padL : Int)) with
  | some r, some c => some (r, c, q * cg + k % cg)
  | _, _ => none

/-- The band word's fields (R136). -/
structure Band where
  h0 : Nat
  bh : Nat
  h : Nat
  w : Nat
  c : Nat

def bandOf (v : Nat) : Band := ⟨bits v 0 12, bits v 12 12, bits v 24 12, bits v 36 12, bits v 48 16⟩

/-- Input positions of the lanes of beat `beat` of an MCONV for its 32 output positions; where they straddle two images, both read
the one band (log 75, DESIGN CHOICE). -/
def mconvPos (w : ConvW) (bd : Band) (cg q row kext beat : Nat) : List (List (Option (Nat × Nat × Nat))) :=
  let wo := w.wout bd.w
  let live := min 32 (kext - 32 * beat)
  (List.range 32).map (fun i =>
    let p := (32 * row + i) % (w.hout bd.h * wo)
    (List.range live).map (fun l => w.pos bd.h bd.w cg q (p / wo) (p % wo) (32 * beat + l)))

/-- The convolution and band words of MCONV agree: the band lies in the input, the groups divide the channels, and there is an output
(R82, R136). -/
def mconvWords (w : ConvW) (bd : Band) : Bool :=
  bd.bh != 0 && bd.h != 0 && bd.w != 0 && bd.c != 0 && bd.h0 + bd.bh ≤ bd.h && bd.c % w.groups == 0 && w.hout bd.h != 0 && w.wout bd.w != 0

/-- Checks of MCONV that come after its predicate (R81, R136); a band that reaches past the last input row is inconsistent (log 75,
DESIGN CHOICE). -/
def mconvChk (x : X) (i : Ins) : Res (Acc × ConvW × Band × Nat × Nat) := do
  need (i.op1 < x.r.acmAlloc) 0x0314 1
  let a ← x.openAcc i.op1
  mmaClass i a
  let cw := x.s i.op3
  need (convWordOk cw) 0x0310 3
  let w := convOf cw
  let bd := bandOf (x.s i.op4)
  let cg := bd.c / w.groups
  need (mconvWords w bd && a.kext == w.kh * w.kw * cg) 0x0311 4
  beatOrder x i a
  let q := if w.groups = 1 then 0 else Config.convGroup a.col w.groups bd.c % w.groups
  need ((span a.next i.n).all (fun bt => (mconvPos w bd cg q a.row a.kext bt).all (fun r => r.all (fun p =>
    match p with
    | some (r, _, _) => bd.h0 ≤ r && r < bd.h0 + bd.bh
    | none => true)))) 0x0311 4
  if a.pushes (a.next + i.n) then stackChk a 0 ((a.next + i.n) / 32 - 1)
  return (a, w, bd, cg, q)

/-- One element of an OSP band: rows of C elements, packed by R39. -/
def X.bandElem (x : X) (osp fmt : Nat) (bd : Band) (r c ch : Nat) : Res (Val × X) := do
  let (o, len) := rowBytes fmt ch 1
  let (bs, x1) ← x.ospRead (osp + ((r - bd.h0) * bd.w + c) * rowLen fmt bd.c + o) len
  return (elemVal fmt ((codesIn fmt ch 1 bs).headD 0), x1)

/-- +0 of a format as an operand. -/
def zeroVal (fmt : Nat) : Val := elemVal fmt 0

/-- What MCONV does once its predicate condition holds. -/
def mconvRun (x : X) (i : Ins) (_ : Unit) : Res X := do
  let (a, w, bd, cg, q) ← mconvChk x i
  x.mma i.op1 a a.place i.n (fun y j => do
    let beat := a.next + j
    let (as, y1) ← mapRes y (mconvPos w bd cg q a.row a.kext beat) (fun z row => mapRes z row (fun u p =>
      match p with
      | some (r, c, ch) => u.bandElem i.ospa i.afmt bd r c ch
      | none => .ok (zeroVal i.afmt, u)))
    let sc := i.ospb + i.n * 128 * fmtWidth i.bfmt + 32 * j
    let (bs, y2) ← y1.ospBeat (i.ospb + j * 128 * fmtWidth i.bfmt) i.bfmt (if i.scb then some sc else none)
      (min 32 (a.kext - 32 * beat))
    return (lanesOf as bs, y2))

/-- MCONV (R136). -/
def mconvFn (b : Body) (x : X) : Res X := x.guard b mmaFormats (mconvRun x)

/-! ### Finish, export, import and grain reduce -/

/-- AFIN (R74, R135 item 7). -/
def afinChk (x : X) (i : Ins) : Res Acc := do
  need (i.op1 < x.r.acmAlloc) 0x0314 1
  let a ← x.openAcc i.op1
  need (ceilDiv a.kext 32 ≤ a.next) 0x0314 1
  return a

/-- The finished values of the accumulation at slot `t`: the grain accumulator, or the last node added, merged with the
stack; the zero of R73 for an empty reduction. -/
def X.finished (x : X) (t : Nat) (a : Acc) (place : NanInfo) : Res X := do
  let (st, x1) ← x.stackNodes t a
  let (acc, x2) ← x1.slotPair t
  let (v, evs) := if a.kext = 0 then (List.replicate 1024 (a.kind.zero a.rdnz), []) else
    if a.dirty then finishNode a.kind a.sat a.rdnz st acc
    else match st with
      | [] => (acc, [])
      | top :: rest => finishNode a.kind a.sat a.rdnz rest top.vals
  return ((x2.noteTile place (a.ngrain - 1) evs).setSlotPair t v).setAcc t { a with finished := true, stack := [], dirty := false }

def afinFn (b : Body) (x : X) : Res X := x.guard b noChk fun i _ => do
  let a ← afinChk x i
  x.finished i.op1 a a.place

/-- FLAGS byte of a node record (Table 3.6). -/
def recFlags (a : Acc) : Nat := (if a.sat then 1 else 0) + (if a.rdnz then 2 else 0)

/-- Checks of AEXP: at a grain boundary, an aligned address, room for the last grain (R135 items 8, 13). -/
def aexpChk (x : X) (i : Ins) : Res Acc := do
  need (i.op1 < x.r.acmAlloc) 0x0314 1
  let a ← x.openAcc i.op1
  need (a.kind != .chain && (a.next % 32 == 0 || a.next == ceilDiv a.kext 32)) 0x0314 1
  need (x.s i.op2 % 64 == 0) 0x0314 2
  if a.dirty then stackChk a 0 (ceilDiv a.next 32 - 1)
  return a

/-- The accumulation at slot `t` exported from address `adr` and closed (R135 item 8): a completed final grain is pushed, then
the records of its nodes are stored in ascending grain order. Answers their number. -/
def X.exportAcc (x : X) (t : Nat) (a : Acc) (place : NanInfo) (adr operand : Nat) : Res (Nat × X) := do
  let (a1, x1) ← if a.dirty then do
      let (acc, y) ← x.slotPair t
      y.push t a place ⟨0, ceilDiv a.next 32 - 1, acc⟩
    else .ok (a, x)
  let (st, x2) ← x1.stackNodes t a1
  let recs := st.reverse.map (fun n => (⟨a.kind, n.level, n.index, a.ngrain, a.row, a.col, recFlags a, n.vals⟩ : NodeRec).bytes)
  let x3 ← foldRes x2 (List.range recs.length) (fun y j => y.store (adr + nodeLen * j) (recs.getD j []) operand)
  return (recs.length, { x3 with tm := { x3.tm with accs := eraseKey t x3.tm.accs } })

/-- What AEXP does once its predicate condition holds. -/
def aexpRun (x : X) (i : Ins) (_ : Unit) : Res X := do
  let a ← aexpChk x i
  let (n, x1) ← x.exportAcc i.op1 a a.place (x.s i.op2) 2
  return x1.setS i.op3 n

/-- AEXP (R134, R135): node records from the bottom of the stack, in ascending grain order. -/
def aexpFn (b : Body) (x : X) : Res X := x.guard b noChk (aexpRun x)

/-- Checks of AIMP. (log 55, DEDUCED) -/
def aimpChk (x : X) (i : Ins) : Res Acc := do
  need (i.op1 < x.r.acmAlloc) 0x0314 1
  let a ← x.openAcc i.op1
  need (a.kind != .chain) 0x0314 1
  return a

/-- What AIMP does once its predicate condition holds. -/
def aimpRun (x : X) (i : Ins) (_ : Unit) : Res X := do
  let a ← aimpChk x i
  needX (x.s i.op2 % 64 == 0) 0x0315 2
  let (bs, x1) ← x.load (x.s i.op2) nodeLen 2
  match nodeRecOf bs with
  | none => x1.fault 0x0315 2
  | some r => do
    x1.need (r.kind == a.kind && r.ngrain == a.ngrain && r.row == a.row && r.col == a.col && r.flags == recFlags a &&
      (r.index + 1) * 2 ^ r.level ≤ a.ngrain) 0x0315 2
    x1.need (a.next == 32 * (r.index * 2 ^ r.level)) 0x0313 2
    x1.need ((pushTag a.tags r.level r.index).length ≤ a.depth) 0x0312 1
    let (a1, x2) ← x1.push i.op1 a a.place ⟨r.level, r.index, r.vals⟩
    return x2.setAcc i.op1 { a1 with next := 32 * ((r.index + 1) * 2 ^ r.level) }

/-- AIMP (R135 item 9): the record agrees with the accumulation, and its first grain is the next expected one. -/
def aimpFn (b : Body) (x : X) : Res X := x.guard b noChk (aimpRun x)

/-- The node records at a list of addresses; a bad one, or a misaligned address, faults with 0x0315. -/
def X.nodeRecs (x : X) (addrs : List Nat) : Res (List NodeRec × X) :=
  mapRes x addrs (fun y a => do
    y.need (a % 64 == 0) 0x0315
    let (bs, y1) ← y.load a nodeLen 0 true
    match nodeRecOf bs with
    | none => y1.fault 0x0315
    | some r => return (r, y1))

/-- A finished accumulation of a GRED result placed at slot `t`. -/
def X.putFinished (x : X) (t : Nat) (h : NodeRec) (vals : List Nat) : X :=
  let x1 := { x with tm := { x.tm with accs := dropAccs x.tm.accs t (t + 1) } }
  (x1.setSlotPair t vals).setAcc t
    { kind := h.kind, depth := 0, kext := 1024 * h.ngrain, gstart := 0, next := 32 * h.ngrain, dirty := false, stack := [],
      sat := bit h.flags 0, rdnz := bit h.flags 1, row := h.row, col := h.col, finished := true }

/-- The grain reduce of a set of node records into a new finished accumulation at slot `t` (R75); 0x0315 where they are no
exact cover. `at'` gives the place of the tile's first element by the records' tags. -/
def X.gred (x : X) (t : Nat) (rs : List NodeRec) (at' : NodeRec → NanInfo) : Res X :=
  match gredOf rs with
  | none => x.fault 0x0315
  | some (h, vals, evs) => .ok ((x.noteTile (at' h) (h.ngrain - 1) evs).putFinished t h vals)

/-- Checks of GRED. -/
def gredChk (x : X) (i : Ins) : Res Unit := do
  need (i.op1 % 2 == 0 && i.op1 + 1 < x.r.acmAlloc) 0x0314 1
  need (0 < x.s i.op3 && x.s i.op3 ≤ 65536) 0x0315 3

/-- What GRED does once its predicate condition holds. (log 83, DESIGN CHOICE) -/
def gredRun (x : X) (i : Ins) (_ : Unit) : Res X := do
  gredChk x i
  let n := x.s i.op3
  let (lst, x1) ← x.load (x.s i.op2) (8 * n) 2
  let (rs, x2) ← x1.nodeRecs (wordsOf 8 n lst)
  x2.gred i.op1 rs (fun h => { cause := 0, row := 32 * h.row, col := 32 * h.col })

/-- GRED (R75, R135 item 10). -/
def gredFn (b : Body) (x : X) : Res X := x.guard b noChk (gredRun x)

end Sys2Proof.Machine
end

