-- ==== Sys2Proof/Machine/Recipes.lean ====
section
/-!
DEFINITION. Fused recipes (07_fused_recipes.md): the parameter block and its checks (R163, R164, R166), the menu (R165),
and the stages acting on rows of a tile (R167, R168, R170). (log 21, DESIGN CHOICE; log 55, DEDUCED) -/
namespace Sys2Proof.Machine

/-- Where a recipe is attached (Table 7.1). -/
inductive Place where
  | gemm | conv | bgemm | attn | rapply | tst
deriving DecidableEq, Repr

/-- Kinds of stages in the order of Table 7.4. -/
inductive SKind where
  | deq | bias | act | res | norm | smax | qnt | dual | diff | ycc | chain
deriving DecidableEq, Repr

/-- The menu (Table 7.3). -/
def menu : Nat → List SKind
  | 0x01 => [.deq] | 0x02 => [.deq, .bias] | 0x03 => [.bias] | 0x04 => [.bias, .act] | 0x05 => [.deq, .bias, .act]
  | 0x06 => [.act] | 0x07 => [.res] | 0x08 => [.bias, .res] | 0x09 => [.deq, .bias, .res] | 0x0A => [.norm]
  | 0x0B => [.res, .norm] | 0x0C => [.bias, .res, .norm] | 0x0D => [.smax] | 0x0E => [.qnt] | 0x0F => [.bias, .act, .qnt]
  | 0x10 => [.norm, .qnt] | 0x11 => [.dual] | 0x12 => [.bias, .dual] | 0x13 => [.res, .dual] | 0x14 => [.res, .norm, .dual]
  | 0x15 => [.diff] | 0x16 => [.bias, .diff] | 0x17 => [.diff, .dual] | 0x18 => [.ycc] | 0x19 => [.bias, .ycc]
  | 0x1A => [.act, .chain] | 0x1B => [.bias, .act, .chain] | 0x1C => [.bias, .act, .chain, .bias]
  | 0x1D => [.bias, .act, .chain, .bias, .res] | 0x1E => [.smax, .chain] | 0x1F => [.deq, .bias, .act, .qnt]
  | _ => []

/-- Section size of a stage (Table 7.4). -/
def SKind.size : SKind → Nat
  | .res | .qnt => 128
  | .diff | .chain => 192
  | .ycc => 256
  | _ => 64

/-- Stages that write a destination of their own (R168). -/
def SKind.output : SKind → Bool
  | .qnt | .dual | .diff | .ycc | .chain => true
  | _ => false

/-- A stage with its operands (Table 7.4). (log 55, DEDUCED) -/
inductive Stage where
  | deq (gs rs cs : Nat)
  | bias (addr fmt axis : Nat)
  | act (fn slot ksc : Nat)
  | res (alpha : Nat) (t : Td)
  | norm (kind eps g b : Nat)
  | smax (tsc : Nat)
  | qnt (mode code : Nat) (t : Td)
  | dual (t : Td)
  | diff (a b c coef step nseed nstream ndraw : Nat) (xd xn : Td)
  | ycc (matrix range depth w : Nat) (custom : List Nat) (y cb cr : Td)
  | chain (bn2 : Nat) (c y : Td)
deriving DecidableEq, Repr

/-- A checked recipe parameter block (Tables 7.2, 7.4), its address and the index of its first stage section. -/
structure Recipe where
  addr : Nat
  first : Nat
  num : Nat
  stageround : Bool
  dstore : Bool
  arrive : Option (Nat × Nat × Nat × Nat)
  ifmt : Nat
  irnd : Nat
  isat : Bool
  iseed : Nat
  istream : Nat
  idraw : Nat
  pscr : Nat
  pscrLen : Nat
  stages : List Stage
  len : Nat
deriving DecidableEq, Repr

/-! ### The parameter block -/

/-- A fault 0x0306 of a recipe block with its DETAIL (R164). -/
def X.rcpBad {α : Type} (x : X) (addr sec off : Nat) : Res α :=
  x.refuse 0x0306 0 (leBytes 8 addr ++ leBytes 1 sec ++ leBytes 1 off)

/-- The first failing condition of a section faults at its offset. -/
def X.rcpNeed (x : X) (addr sec : Nat) : List (Bool × Nat) → Res Unit
  | [] => .ok ()
  | (b, o) :: t => if b then x.rcpNeed addr sec t else x.rcpBad addr sec o

/-- A descriptor inside a section, checked in the order of R111 with its own codes. R237 accepts a compressed RDESC or
XDESC, but no section has room for its parameters: they are an open function of the descriptor (log 21, DESIGN CHOICE). -/
def X.sdesc (x : X) (sec : List Byte) (o : Nat) (u : Use) : Res Td :=
  let d := fld sec o 64
  x.desc d (Config.sectionPair d % 2 ^ 512) 16 u

/-- A source tensor of a stage: S8 is no operand of row-unit arithmetic (R32). -/
def srcUse : Use := { fmt := fun f => f != 14, comp := true }
/-- A destination tensor of a stage. (log 57, DEDUCED) -/
def dstUse : Use := { dest := true }

/-- One stage section read and checked (Table 7.4). -/
def X.section (x : X) (addr sec : Nat) (k : SKind) (b : List Byte) : Res Stage := do
  let z := fun (o n : Nat) => (zeroAt b o n, o)
  let nd := x.rcpNeed addr sec
  match k with
  | .deq => do
    nd [z 0x18 40]
    return .deq (fld b 0 8) (fld b 8 8) (fld b 0x10 8)
  | .bias => do
    nd [(1 ≤ fld b 8 1 && fld b 8 1 ≤ 3, 8), (fld b 9 1 ≤ 1, 9), z 0xA 54]
    return .bias (fld b 0 8) (fld b 8 1) (fld b 9 1)
  | .act => do
    nd [(fld b 0 1 ≤ 4, 0), (if fld b 0 1 = 2 then fld b 1 1 ≤ 3 else fld b 1 1 = 0, 1), z 2 2, z 8 56]
    return .act (fld b 0 1) (fld b 1 1) (fld b 4 4)
  | .res => do
    nd [z 4 60]
    return .res (fld b 0 4) (← x.sdesc b 0x40 srcUse)
  | .norm => do
    let eps := d32 (fld b 4 4)
    nd [(fld b 0 1 ≤ 1, 0), z 1 3, (!eps.isNan && !(eps.neg? && !eps.isZero), 4), (fld b 0 1 = 1 || fld b 0x10 8 = 0, 0x10), z 0x18 40]
    return .norm (fld b 0 1) (fld b 4 4) (fld b 8 8) (fld b 0x10 8)
  | .smax => do
    nd [z 4 60]
    return .smax (fld b 0 4)
  | .qnt => do
    nd [(fld b 0 1 ≤ 1, 0), (if fld b 0 1 = 1 then fld b 1 1 ≤ 254 else fld b 1 1 = 0, 1), z 2 62]
    let t ← x.sdesc b 0x40 dstUse
    x.check (fld b 0 1 = 1 || t.scaled) 0x0104
    return .qnt (fld b 0 1) (fld b 1 1) t
  | .dual => return .dual (← x.sdesc b 0 dstUse)
  | .diff => do
    nd [(fld b 0x10 8 = 0 || zeroAt b 0 12, 0), z 0xE 2, (fld b 0x10 8 % 16 = 0, 0x10), z 0x28 24]
    let xd ← x.sdesc b 0x40 srcUse
    let xn ← x.sdesc b 0x80 dstUse
    return .diff (fld b 0 4) (fld b 4 4) (fld b 8 4) (fld b 0x10 8) (fld b 0xC 2) (fld b 0x18 8) (fld b 0x20 4) (fld b 0x24 4) xd xn
  | .ycc => do
    let w := fld b 4 4
    let dp := fld b 2 1
    nd [(fld b 0 1 ≤ 2, 0), (fld b 1 1 ≤ 1, 1), (dp = 8 || dp = 10, 2), z 3 1, (w % 16 = 0 && 16 ≤ w && w ≤ 7680, 4),
      (fld b 0 1 = 2 || zeroAt b 8 48, 8), z 0x38 8]
    let u : Use := { fmt := fun f => f == (if dp = 8 then 12 else 10), scaled := false, dest := true }
    let y ← x.sdesc b 0x40 u
    let cb ← x.sdesc b 0x80 u
    let cr ← x.sdesc b 0xC0 u
    return .ycc (fld b 0 1) (fld b 1 1) dp w (wordsOf 4 12 (b.drop 8)) y cb cr
  | .chain => do
    nd [(1 ≤ fld b 0 1 && fld b 0 1 ≤ 8, 0), z 1 63]
    let c ← x.sdesc b 0x40 { fmt := matFmt }
    let y ← x.sdesc b 0x80 dstUse
    return .chain (fld b 0 1) c y

/-- Sections of a list of stages from offset `o`, numbered from `n`. -/
def X.sections (x : X) (addr : Nat) (blk : List Byte) : List SKind → Nat → Nat → Res (List Stage)
  | [], _, _ => .ok []
  | k :: t, o, n => do
    let s ← x.section addr n k (slice blk o k.size)
    let rest ← x.sections addr blk t (o + k.size) (n + 1)
    return s :: rest

/-- The ARRIVE section (Table 7.4). -/
def X.arriveSec (x : X) (addr : Nat) (b : List Byte) : Res (Nat × Nat × Nat × Nat) := do
  x.rcpNeed addr 1 [(fld b 0 8 % 8 = 0 && (areaOf (localOf (fld b 0 8))).1 = .pantry, 0), (fld b 0x10 1 ≤ 1, 0x10),
    (if fld b 0x10 1 = 1 then fld b 0x11 1 ≤ 3 else fld b 0x11 1 = 0, 0x11), (zeroAt b 0x12 46, 0x12)]
  return (fld b 0 8, fld b 8 8, fld b 0x10 1, fld b 0x11 1)

/-- Total length P of a block (R163). -/
def recipeLen (num : Nat) (arrive : Bool) : Nat := 64 + (if arrive then 64 else 0) + ((menu num).map SKind.size).sum

/-- Whether a recipe may stand at a place (Table 7.1, R181); `ks1` says that the reduction is not split, `wide` that the
destination has more than 32 columns. -/
def placeOk (pl : Place) (num : Nat) (arrive : Bool) (unit : Nat) (ks1 wide : Bool) : Bool :=
  let m := menu num
  let rowStat := m.contains .norm || m.contains .smax
  let ch := m.contains .chain
  match pl with
  | .gemm | .bgemm => ks1 || !(rowStat || ch)
  | .conv => (ks1 || !(rowStat || ch)) && !(arrive && unit == 1)
  | .attn => !rowStat && !ch && !arrive
  | .rapply => !ch && !arrive
  | .tst => !ch && !arrive && !(rowStat && wide)

/-- A recipe block's bytes checked (R164). `members` is the number of team members that share PSCR. -/
def X.recipeOf (x : X) (pl : Place) (num addr members : Nat) (ks1 wide : Bool) (blk : List Byte) : Res Recipe := do
  let fl := fld blk 3 1
  let arr := bit fl 2
  let hasOut := (menu num).any SKind.output
  x.rcpNeed addr 0 [(fld blk 0 2 = 1, 0), (fld blk 2 1 = num, 2), (fl < 8 && (bit fl 1 || hasOut), 3)]
  x.check (1 ≤ fld blk 4 1 && fld blk 4 1 ≤ 5) 0x0104
  x.check (fld blk 5 1 % 8 ≤ 4) 0x0103
  let pscr := fld blk 0x18 8
  let plen := fld blk 0x20 8
  x.rcpNeed addr 0 [(fld blk 5 1 < 16, 5), (zeroAt blk 6 2, 6),
    (pscr = 0 || (pscr % 64 = 0 && x.here pscr && inRanges x.cx.pantry (localOf pscr) (members * plen)), 0x18), (zeroAt blk 0x28 24, 0x28)]
  let a ← if arr then (do let q ← x.arriveSec addr (slice blk 64 64); return some q) else .ok none
  x.rcpNeed addr 0 [(placeOk pl num false 0 ks1 wide, 2), (placeOk pl num arr 0 ks1 wide, 3)]
  x.rcpNeed addr 1 [(placeOk pl num arr ((a.map (fun q => q.2.2.1)).getD 0) ks1 wide, 0x10)]
  let sts ← x.sections addr blk (menu num) (if arr then 128 else 64) (if arr then 2 else 1)
  return { addr := addr, first := if arr then 2 else 1, num := num, stageround := bit fl 0, dstore := bit fl 1, arrive := a, ifmt := fld blk 4 1, irnd := fld blk 5 1 % 8,
           isat := bit (fld blk 5 1) 3, iseed := fld blk 8 8, istream := fld blk 0x10 4, idraw := fld blk 0x14 4,
           pscr := pscr, pscrLen := plen, stages := sts, len := recipeLen num arr }

/-- A recipe block in memory, 64-byte aligned and wholly readable (R164). -/
def X.recipeAt (x : X) (pl : Place) (num addr members : Nat) (ks1 wide : Bool) : Res (Recipe × X) := do
  if addr % 64 ≠ 0 ∨ ¬ x.readable addr 64 then x.rcpBad addr 0 0
  let (hd, x1) ← x.load addr 64
  let p := recipeLen num (bit (fld hd 3 1) 2)
  if ¬ x.readable addr p then x1.rcpBad addr 0 0
  let (blk, x2) ← x1.load addr p
  let r ← x2.recipeOf pl num addr members ks1 wide blk
  return (r, x2)

/-- A recipe block in the OSP (R133). -/
def X.recipeOsp (x : X) (num off : Nat) (wide : Bool) : Res (Recipe × X) := do
  let (hd, x1) ← x.ospRead off 64
  let (blk, x2) ← x1.ospRead off (recipeLen num (bit (fld hd 3 1) 2))
  let r ← x2.recipeOf .tst num off 1 true wide blk
  return (r, x2)

/-! ### Tensors of a recipe -/

/-- Tensors a stage reads, and tensors it writes. -/
def Stage.reads : Stage → List Td
  | .res _ t => [t]
  | .diff _ _ _ _ _ _ _ _ xd _ => [xd]
  | .chain _ c _ => [c]
  | _ => []
def Stage.writes : Stage → List Td
  | .qnt _ _ t => [t]
  | .dual t => [t]
  | .diff _ _ _ _ _ _ _ _ _ xn => [xn]
  | .ycc _ _ _ _ _ y cb cr => [y, cb, cr]
  | .chain _ _ y => [y]
  | _ => []

/-- The vectors and scale tensors a stage names, of m × n elements under a descriptor whose E0 is `e0`: (address, length). -/
def Stage.vectors (m n e0 : Nat) : Stage → List (Nat × Nat)
  | .deq g r c => [(g, m * ceilDiv e0 32), (r, 4 * m), (c, 4 * n)].filter (fun v => v.1 != 0)
  | .bias a f ax => [(a, fmtWidth f / 8 * (if ax = 0 then n else m))]
  | .norm _ _ g b => [(g, 4 * n), (b, 4 * n)].filter (fun v => v.1 != 0)
  | _ => []

/-- Whether two views are the same elements in the same places: row for row the same bytes, and the same scale codes. -/
def sameView (a b : Td) : Bool :=
  a.comp.isNone && b.comp.isNone && a.fmt == b.fmt && a.rows == b.rows && a.cols == b.cols && (List.range a.rows).all (fun r => a.rowAddr r == b.rowAddr r) &&
  a.scaled == b.scaled && (!a.scaled || (ceilDiv a.e0 32 == ceilDiv b.e0 32 &&
    a.scale + a.row0 * ceilDiv a.e0 32 == b.scale + b.row0 * ceilDiv b.e0 32))

/-- The bytes of a tensor: its rows and its group scales, or the images of a compressed one. -/
def Td.ranges (t : Td) : List (Nat × Nat) :=
  match t.comp with
  | some p => [(p.place, 4096 * p.nblk), (p.meta', 16 * p.nblk)] ++ (if p.noBase then [] else [(p.baseRef, 4096 * p.nblk)])
  | none =>
    let ge := ceilDiv t.e0 32
    (List.range t.rows).map (fun r => (t.rowAddr r, rowLen t.fmt t.cols)) ++
      (if t.scaled then [(t.scale + t.row0 * ge, t.rows * ge)] else [])

/-- Whether two lists of byte ranges share a byte; the names of this module are one (R20). -/
def X.rangesMeet (x : X) (a b : List (Nat × Nat)) : Bool :=
  let at' := fun (q : Nat) => if x.here q then localOf q else q
  a.any (fun p => b.any (fun q => overlaps (at' p.1) p.2 (at' q.1) q.2))

/-- The overlap rule of R169: a source tensor may be the identical view of a destination; no other overlap. -/
def X.overlapOk (x : X) (srcs : List Td) (vecs : List (Nat × Nat)) (dsts : List Td) : Bool :=
  srcs.all (fun s => dsts.all (fun d => sameView s d || !x.rangesMeet s.ranges d.ranges)) &&
  dsts.all (fun d => !x.rangesMeet vecs d.ranges) &&
  (List.range dsts.length).all (fun i => (List.range i).all (fun j =>
    match dsts[i]?, dsts[j]? with
    | some a, some b => !x.rangesMeet a.ranges b.ranges
    | _, _ => true))

/-- Extent of a descriptor's outermost dimension, which counts BGEMM's entries (R169). -/
def Td.outer (t : Td) : Nat := if t.rank = 3 then t.e2 else t.e3

/-- A breach of a recipe's section: 0x0306 with the section and the offset (R164). -/
def Recipe.need (rc : Recipe) (x : X) (sec : Nat) (b : Bool) (off : Nat) : Res Unit := x.rcpNeed rc.addr sec [(b, off)]

/-- Shape of a stage's tensor at an offset of its section against m × n (R169); under BGEMM rank 3 or more, one inner matrix
for each entry. -/
def Recipe.tensorShape (rc : Recipe) (x : X) (entries : Option Nat) (m n sec off : Nat) (t : Td) : Res Unit :=
  match entries with
  | none => x.check (t.rows == m && t.e0 == n) 0x0307
  | some ne => do
    rc.need x sec (3 ≤ t.rank) off
    x.check (t.rows == t.outer * m && t.e0 == n && ne ≤ t.outer) 0x0307

/-- Whether a plane of YCC has the rows and columns of its picture (R170), for each entry under BGEMM (R169). -/
def planeFits (entries : Option Nat) (t : Td) (rows cols : Nat) : Bool :=
  match entries with
  | none => t.e0 == cols && t.rows == rows
  | some ne => 3 ≤ t.rank && t.e0 == cols && t.rows == t.outer * rows && ne ≤ t.outer

/-- The extents a stage asks of the rows it acts on: YCC's (R170) and those of a row statistic (R194). -/
def Recipe.extents (rc : Recipe) (x : X) (m n sec : Nat) : Stage → Res Unit
  | .ycc _ _ _ w _ _ _ _ => rc.need x sec (n == 3 && m % (2 * w) == 0) 4
  | .norm .. | .smax _ => rc.need x sec (0 < n && n ≤ 16777216) 0
  | _ => .ok ()

/-- Checks of the stages, sections `sec` on, against the shape they act on; `n` changes to N2 after CHAIN. Under BGEMM the
extents are those of each entry, checked with it. -/
def Recipe.shapes (rc : Recipe) (x : X) (entries : Option Nat) (m : Nat) : List Stage → Nat → Nat → Res Unit
  | [], _, _ => .ok ()
  | s :: rest, sec, n => do
    if entries.isNone then rc.extents x m n sec s
    match s with
    | .chain _ c y => do
      rc.tensorShape x entries n y.e0 sec 0x40 c
      rc.tensorShape x entries m y.e0 sec 0x80 y
      rc.shapes x entries m rest (sec + 1) y.e0
    | .ycc _ _ _ w _ y cb cr => do
      rc.need x sec (planeFits entries y (m / w) w) 0x40
      rc.need x sec (planeFits entries cb (m / w / 2) (w / 2)) 0x80
      rc.need x sec (planeFits entries cr (m / w / 2) (w / 2)) 0xC0
      rc.shapes x entries m rest (sec + 1) n
    | .diff _ _ _ _ _ _ _ _ xd xn => do
      rc.tensorShape x entries m n sec 0x40 xd
      rc.tensorShape x entries m n sec 0x80 xn
      rc.shapes x entries m rest (sec + 1) n
    | s => do
      for t in s.reads ++ s.writes do rc.tensorShape x entries m n sec (match s with | .dual _ => 0 | _ => 0x40) t
      rc.shapes x entries m rest (sec + 1) n

/-- The vectors of a recipe's stages; a CHAIN stage changes the columns to N2. -/
def Recipe.vectors (m e0 : Nat) : List Stage → Nat → List (Nat × Nat)
  | [], _ => []
  | .chain _ _ y :: rest, _ => Recipe.vectors m y.e0 rest y.e0
  | s :: rest, n => s.vectors m n e0 ++ Recipe.vectors m e0 rest n

/-- The overlap rule among a recipe's tensors and the destinations `dests` of its instruction; `srcs` are the sources of the
instruction itself that may be written in place. -/
def Recipe.apart (rc : Recipe) (x : X) (m n e0 : Nat) (dests srcs : List Td) : Res Unit :=
  x.check (x.overlapOk (srcs ++ rc.stages.flatMap Stage.reads) (Recipe.vectors m e0 rc.stages n)
    ((if rc.dstore then dests else []) ++ rc.stages.flatMap Stage.writes)) 0x0407

/-- All checks of a recipe's tensors against its product (R169); `dest` is the primary destination. Under BGEMM an entry gives
the destination its place, and its overlaps are checked with it. -/
def Recipe.fits (rc : Recipe) (x : X) (entries : Option Nat) (m n : Nat) (dest : Td) (srcs : List Td) : Res Unit := do
  rc.shapes x entries m rc.stages rc.first n
  rc.apart x m n dest.e0 (if entries.isNone then [dest] else []) srcs

/-- The view entry `e` of a BGEMM has of a section's tensor (R169). -/
def Td.entry (t : Td) (e : Option Nat) : Td :=
  match e with
  | none => t
  | some k =>
    let inner := (t.e3 * t.e2 * t.e1) / max 1 t.outer
    { t with row0 := k * inner, rowCap := some inner }

/-- That view within the entry's own extents (R155). -/
def Td.entryWithin (t : Td) (e m n : Nat) : Td :=
  let v := t.entry (some e)
  { v with rowCap := some (min v.rows m), colCap := some (min v.cols n) }

/-- The views entry `e`, of extents m and n, has of the tensors its recipe reads, and of those it writes. -/
def Recipe.views (e m : Nat) : List Stage → Nat → List Td × List Td
  | [], _ => ([], [])
  | s :: rest, n =>
    let q := Recipe.views e m rest (match s with | .chain _ _ y => y.e0 | _ => n)
    match s with
    | .chain _ c y => (c.entryWithin e n y.e0 :: q.1, y.entryWithin e m y.e0 :: q.2)
    | .ycc .. => (q.1, s.writes.map (fun t => t.entry (some e)) ++ q.2)
    | s => (s.reads.map (fun t => t.entryWithin e m n) ++ q.1, s.writes.map (fun t => t.entryWithin e m n) ++ q.2)

/-- The checks that entry `e` of `ne`, of extents m and n and with destination view `d`, brings (R169, R170, R194). Its tensors are its
own views of the sections' tensors; its destination shares no byte with another entry's. -/
def Recipe.entryFits (rc : Recipe) (x : X) (ne e m n : Nat) (d : Td) : Res Unit := do
  for s in rc.stages.zipIdx do rc.extents x m n (rc.first + s.2) s.1
  let own := Recipe.views e m rc.stages n
  let dest := if rc.dstore then [d] else []
  x.check (x.overlapOk own.1 (Recipe.vectors m d.e0 rc.stages n) (dest ++ own.2)) 0x0407
  x.check (((List.range ne).filter (· ≠ e)).all (fun j =>
    let q := Recipe.views j m rc.stages n
    dest.all (fun t => (q.1 ++ q.2).all (fun s => !x.rangesMeet s.ranges t.ranges)))) 0x0407

/-! ### Elements in the stages -/

/-- A value with the events of the operation that made it. -/
abbrev El := Num × Ev

/-- An exact result rounded once into FP32. -/
def el (p : Num × Ev) : El := let r := rne fp32 p; (d32 r.1, r.2)

/-- A value rounded into FP32 as an FP32 code. -/
def toVe (y : Num) : Ve := rne fp32 (y, Ev.none)

/-- An FP32 code with events as a value. -/
def ofVe (v : Ve) : El := (d32 v.1, v.2)

/-- Where a NaN of element (r, c) of a stage is reported (R167). -/
def stageLoc (entry : Option Nat) (r c : Nat) : NanInfo := { cause := 0, row := r, col := c, entry := entry.getD 0 }

/-- A step over the rows of a rectangle; its events are recorded. -/
def mapRect (x : X) (entry : Option Nat) (r0 c0 : Nat) (rows : List (List Num))
    (f : X → Nat → List Num → Res (List El × X)) : Res (List (List Num) × X) :=
  mapRes x (List.range rows.length) (fun y i => do
    let (els, y1) ← f y (r0 + i) (rows.getD i [])
    let y2 := (List.range els.length).foldl (fun (z : X) j =>
      z.note ((els[j]?).map Prod.snd |>.getD Ev.none) (stageLoc entry (r0 + i) (c0 + j))) y1
    return (els.map Prod.fst, y2))

/-- Codes of elements `i` to `i + n − 1` of a vector in FP32, H16 or W16. -/
def X.vectorCodes (x : X) (addr fmt i n : Nat) : Res (List Nat × X) := do
  let w := fmtWidth fmt / 8
  let (bs, x1) ← x.load (addr + w * i) (w * n) 0 true
  return (wordsOf w n bs, x1)

/-- Those elements, widened exactly. -/
def X.vector (x : X) (addr fmt i n : Nat) : Res (List Num × X) := do
  let (cs, x1) ← x.vectorCodes addr fmt i n
  return (cs.map (fun c => (floatFmt fmt).decode c), x1)

/-- Rounding into IFMT at a stage boundary (R167). -/
def Recipe.ifmtRows (rc : Recipe) (x : X) (entry : Option Nat) (d : Td) (r0 c0 : Nat) (rows : List (List Num)) :
    Res (List (List Num) × X) :=
  mapRect x entry r0 c0 rows (fun y r row => .ok ((List.range row.length).map (fun j =>
    let u := if rc.irnd = 4 then tinderWord rc.iseed rc.istream (d.logical r (c0 + j)) rc.idraw 0 else 0
    let q := roundNum (floatFmt rc.ifmt) rc.irnd rc.isat u (row.getD j (.nan false))
    ((floatFmt rc.ifmt).decode q.1, q.2)), y))

/-- A rectangle of values stored through a destination, its rows written together (R263), counted tile by tile (R55, R133). -/
def X.putRect (x : X) (entry : Option Nat) (t : Td) (r0 c0 : Nat) (rows : List (List Val)) : Res X := do
  let width := (rows.map List.length).foldl max 0
  let (els, x1) ← mapRes (x.rewrites (t.rectRanges r0 c0 rows.length width)) (List.range rows.length) (fun y i =>
    y.putRow t (r0 + i) c0 (rows.getD i []) (fun j => stageLoc entry (r0 + i) (c0 + j)))
  return (List.range (ceilDiv width 32)).foldl (fun (y : X) k =>
    y.count t (els.flatMap (fun row => (row.drop (32 * k)).take 32))) x1

/-! ### Stages -/

/-- DEQ of a row (Table 7.5); `n` is E0 of the destination's descriptor, which lays out the scales (R41). -/
def deqRow (gs rs cs n : Nat) (c0 : Nat) (y : X) (r : Nat) (row : List Num) : Res (List El × X) := do
  let k := row.length
  let (g, y1) ← if gs = 0 then .ok (([] : List Nat), y) else do
    let lo := c0 / 32
    let (bs, z) ← y.load (gs + r * ceilDiv n 32 + lo) (ceilDiv (c0 + k) 32 - lo) 0 true
    pure ((List.range k).map (fun j => (bs.getD ((c0 + j) / 32 - lo) 0).toNat), z)
  let (rv, y2) ← if rs = 0 then .ok ([], y1) else y1.vector rs 1 r 1
  let (cv, y3) ← if cs = 0 then .ok ([], y2) else y2.vector cs 1 c0 k
  return ((List.range k).map (fun j =>
    let a := row.getD j (.nan false)
    let a1 := if gs = 0 then a else scaled a (g.getD j 0)
    let e1 : El := if rs ≠ 0 then el (mulN 3 a1 (rv.headD (.nan false))) else if cs = 0 ∧ gs ≠ 0 then el (a1, Ev.none) else (a1, Ev.none)
    if cs = 0 then e1 else
      let e2 := el (mulN 3 e1.1 (cv.getD j (.nan false)))
      (e2.1, e1.2.join e2.2)), y3)

/-- BIAS of a row. -/
def biasRow (addr fmt axis c0 : Nat) (y : X) (r : Nat) (row : List Num) : Res (List El × X) := do
  let (b, y1) ← if axis = 0 then y.vector addr fmt c0 row.length else y.vector addr fmt r 1
  return ((List.range row.length).map (fun j =>
    el (sumN false 3 [row.getD j (.nan false), if axis = 0 then b.getD j (.nan false) else b.headD (.nan false)])), y1)

/-- ACT of a row. -/
def actRow (fn slot ksc : Nat) (y : X) (_r : Nat) (row : List Num) : Res (List El × X) :=
  .ok (row.map (fun a =>
    let z := rne fp32 (mulN 3 (d32 ksc) a)
    ofVe (match fn with
      | 0 => z
      | 1 => op2 fmax z (pureV 0)
      | 2 => op1 (vtab (y.table slot)) z
      | 3 => op1 vexp2 z
      | _ => op1 vlog2 z)), y)

/-- RES of a row. -/
def resRow (alpha : Nat) (t : Td) (c0 : Nat) (y : X) (r : Nat) (row : List Num) : Res (List El × X) := do
  let (vs, y1) ← y.rowVals t .col r c0 row.length
  return ((List.range row.length).map (fun j =>
    el (fmaN false (d32 alpha) ((vs.getD j (.i 0)).num) (row.getD j (.nan false)))), y1)

/-- NORM of a whole row (R196, R197). -/
def normRow (kind eps ga ba : Nat) (y : X) (_r : Nat) (row : List Num) : Res (List El × X) := do
  let n := row.length
  let (gv, y1) ← if ga = 0 then .ok (List.replicate n one32, y) else y.vectorCodes ga 1 0 n
  let (bv, y2) ← if ba = 0 then .ok (List.replicate n 0, y1) else y1.vectorCodes ba 1 0 n
  let code := fun (l : List Nat) (c : Nat) => pureV (l.getD c 0)
  let ys := row.map toVe
  return ((if kind = 0 then rmsRow ys eps (code gv) else layerRow ys eps (code gv) (code bv)).map ofVe, y2)

/-- SMAX of a whole row (R195): the score scale takes the row's values exactly. -/
def smaxStage (tsc : Nat) (y : X) (_r : Nat) (row : List Num) : Res (List El × X) :=
  .ok ((smaxRow (row.map (fun a => rne fp32 (mulN 3 (d32 tsc) a)))).map ofVe, y)

/-- DIFF of a row: the updated latents. -/
def diffRow (a b c nseed nstream ndraw : Nat) (xd xn : Td) (c0 : Nat) (y : X) (r : Nat) (row : List Num) :
    Res (List El × X) := do
  let (vs, y1) ← y.rowVals xd .col r c0 row.length
  return ((List.range row.length).map (fun j =>
    let t1 := el (mulN 3 (d32 a) ((vs.getD j (.i 0)).num))
    let t2 := el (fmaN false (d32 b) (row.getD j (.nan false)) t1.1)
    let n := normal32 (tinderWord nseed nstream (xn.logical r (c0 + j)) ndraw 0)
    let t3 := el (fmaN false (d32 c) (d32 n.1) t2.1)
    (t3.1, ((t1.2.join t2.2).join n.2).join t3.2)), y1)

/-- The FP32 code nearest to a quotient of integers. -/
def ratCode (neg : Bool) (num den : Nat) : Nat := (rne fp32 (divN (.fin neg num 0) (.fin false den 0))).1

/-- Coefficient rows (kR, kG, kB, offset) of the luma and chroma of a matrix (R170). -/
def yccCoefs (matrix : Nat) (custom : List Nat) : List (List Nat) :=
  if matrix = 2 then [custom.take 4, (custom.drop 4).take 4, custom.drop 8] else
  let (r, g, b, cb, cr) := if matrix = 0 then (2126, 7152, 722, 18556, 15748) else (2627, 6780, 593, 18814, 14746)
  [[ratCode false r 10000, ratCode false g 10000, ratCode false b 10000, 0],
   [ratCode true r cb, ratCode true g cb, ratCode false (10000 - b) cb, 0],
   [ratCode false (10000 - r) cr, ratCode true g cr, ratCode true b cr, 0]]

/-- One limited input of YCC (R170 step 1): a NaN becomes +0, and a signalling one is an operand of the minimum (R53). -/
def yccLimit (a : Num) : Ve :=
  if a.isNan then (0, ⟨fNANLOST ||| flagIf a.isSnan fINVALID, if a.isSnan then 6 else 0⟩)
  else
    let v := toVe a
    op2 fmin (op2 fmax v (pureV 0)) (pureV one32)

/-- One of Y′, Cb′, Cr′ from a pixel (R170 step 2). -/
def yccMix (k : List Nat) (p : List Ve) : Ve :=
  let q := fun i => p.getD i (pureV 0)
  let c := fun i => pureV (k.getD i 0)
  op2 fadd (op3 ffma (c 2) (q 2) (op3 ffma (c 1) (q 1) (op2 fmul (c 0) (q 0)))) (c 3)

/-- A sample in its integer range (R170 steps 4 and 5): its code, all its events, and those of its conversion alone. (log 57,
DEDUCED) -/
def yccSample (range depth : Nat) (chroma : Bool) (v : Ve) : Nat × Ev × Ev :=
  let f := f32OfNat
  let s := if range = 0 then
      op2 fmul (f (2 ^ (depth - 8))) (op2 fadd (f (if chroma then 128 else 16)) (op2 fmul (f (if chroma then 224 else 219)) v))
    else
      let m := op2 fmul (f (2 ^ depth - 1)) v
      if chroma then op2 fadd m (f (2 ^ (depth - 1))) else m
  let q : Nat × Ev := match d32 s.1 with
    | .fin n m e =>
      let (z, fl) := roundToInt 0 0 n m e
      let top : Int := 2 ^ depth - 1
      let w := if z < 0 then 0 else if top < z then top else z
      (w.toNat, ⟨fl ||| flagIf (w ≠ z) (fINVALID ||| fSATUR), 0⟩)
    | .inf neg => (if neg then 0 else 2 ^ depth - 1, ⟨fINVALID ||| fSATUR, 0⟩)
    | .nan _ => (0, ⟨fINVALID ||| fNANLOST, 0⟩)
  (q.1, s.2.join q.2, q.2)

/-- A sample of YCC: its place in its plane, its code, all its events, and those its histogram bin is chosen by. -/
structure YccOut where
  row : Nat
  col : Nat
  code : Nat
  ev : Ev
  bin : Ev

/-- The sample that a mixed value gives: a NaN lost among its pixels shows in its bin only where it is written as zero
(Table 2.10). -/
def yccOut (row col range depth : Nat) (chroma : Bool) (v : Ve) : YccOut :=
  let q := yccSample range depth chroma v
  { row := row, col := col, code := q.1, ev := q.2.1,
    bin := if q.1 = 0 then q.2.2.join ⟨v.2.flags &&& fNANLOST, 0⟩ else q.2.2 }

/-- Samples stored one by one through a plane, counted as one tile. -/
def X.putSamples (x : X) (entry : Option Nat) (t : Td) (ss : List YccOut) : Res X := do
  let x1 ← foldRes x ss (fun y s => do
    let y1 ← y.putCodes t s.row s.col [s.code]
    return y1.note s.ev (stageLoc entry s.row s.col))
  return x1.count t (ss.map (fun s => (s.code, s.bin)))

/-- The name under which the pixels of an unfinished 2 × 2 block are kept: its Cb plane and its number. -/
def blockKey (cb : Td) (b : Nat) : Nat := cb.base * 2 ^ 64 + b

/-- Pixel rows of one 2 × 2 block, each with its place in it and its Cb′ and Cr′, joined with those kept of it (R170): the four of a
whole block in order, or none and those of a block unfinished kept. The rows of a block lie in two tiles where a convolution's image
ends inside it. -/
def X.joinBlock (x : X) (entry : Option Nat) (key r0 : Nat) (new : List (Nat × Ve × Ve)) : Option (List (Ve × Ve)) × X :=
  let kept := ((lookup x.cx.chroma key).getD []).filter (fun o => !new.any (fun n => n.1 == o.1))
  let lost := fun (b : Bool) => (⟨flagIf b fNANLOST, 0⟩ : Ev)
  let old : List (Nat × Ve × Ve) := kept.map (fun o => (o.1, (o.2.1, lost o.2.2.2), (o.2.2.1, lost o.2.2.2)))
  let at4 := fun (i : Nat) => ((old ++ new).find? (fun o => o.1 == i)).map Prod.snd
  match at4 0, at4 1, at4 2, at4 3 with
  | some a, some b, some c, some d =>
    (some [a, b, c, d], { x with cx := { x.cx with chroma := eraseKey key x.cx.chroma } })
  | _, _, _, _ =>
    let rows := kept ++ new.map (fun n => (n.1, n.2.1.1, n.2.2.1, n.2.1.2.flags &&& fNANLOST != 0))
    let y := { x with cx := { x.cx with chroma := insertKey key rows x.cx.chroma } }
    (none, new.foldl (fun y n => y.note (n.2.1.2.join n.2.2.2) (stageLoc entry r0 0)) y)

/-- YCC of a rectangle of pixel rows from row `r0` (R170). A chroma sample is written when the last row of its 2 × 2 block is here; its
four values enter the tree in the order of their rows. (log 86, DESIGN CHOICE) -/
def yccRect (x : X) (entry : Option Nat) (matrix range depth w : Nat) (custom : List Nat) (yp cb cr : Td) (r0 : Nat)
    (rows : List (List Num)) : Res X := do
  let k := yccCoefs matrix custom
  let px := rows.map (fun row => row.map yccLimit)
  let prow := fun (i : Nat) => 2 * (i / (2 * w)) + i % 2
  let pcol := fun (i : Nat) => i / 2 % w
  let mix := fun (n : Nat) => px.map (yccMix (k.getD n []))
  let lum := mix 0
  let ys := (List.range px.length).map (fun j =>
    yccOut (prow (r0 + j)) (pcol (r0 + j)) range depth false (lum.getD j (pureV 0)))
  let mine := (List.range px.length).map (fun j => (r0 + j, (mix 1).getD j (pureV 0), (mix 2).getD j (pureV 0)))
  let sample := fun (b : Nat) (vs : List Ve) =>
    yccOut (prow (4 * b) / 2) (pcol (4 * b) / 2) range depth true (op2 fmul (rowTree (addR fp32) vs 0) (pureV 0x3E800000))
  let done := (((mine.map (fun m => m.1 / 4)).eraseDups).foldl (fun (a : List YccOut × List YccOut × X) b =>
    let q := a.2.2.joinBlock entry (blockKey cb b) (4 * b) ((mine.filter (fun m => m.1 / 4 == b)).map (fun m => (m.1 % 4, m.2)))
    match q.1 with
    | some vs => (a.1 ++ [sample b (vs.map Prod.fst)], a.2.1 ++ [sample b (vs.map Prod.snd)], q.2)
    | none => (a.1, a.2.1, q.2)) ([], [], x))
  let x1 ← done.2.2.putSamples entry yp ys
  let x2 ← x1.putSamples entry cb done.1
  x2.putSamples entry cr done.2.1

/-- Values of a rectangle as stage outputs for storing. -/
def valRows (rows : List (List Num)) : List (List Val) := rows.map (fun r => r.map Val.f)

/-- Values rounded into FP32, the events recorded. -/
def round32Rows (x : X) (entry : Option Nat) (r0 c0 : Nat) (rows : List (List Num)) : Res (List (List Num) × X) :=
  mapRect x entry r0 c0 rows (fun y _ row => .ok (row.map (fun a => ofVe (toVe a)), y))

/-- One stage on a rectangle of rows (Table 7.5); CHAIN is the Ladle's. `n` is E0 of the destination's descriptor. QNT with MODE 1
stores no scale code, whether or not QDESC is scaled. (log 93, DESIGN CHOICE) -/
def stageRect (x : X) (entry : Option Nat) (n r0 c0 : Nat) (s : Stage) (rows : List (List Num)) :
    Res (List (List Num) × X) :=
  match s with
  | .deq gs rs cs => mapRect x entry r0 c0 rows (deqRow gs rs cs n c0)
  | .bias a f ax => mapRect x entry r0 c0 rows (biasRow a f ax c0)
  | .act fn sl k => mapRect x entry r0 c0 rows (actRow fn sl k)
  | .res al t => mapRect x entry r0 c0 rows (resRow al (t.entry entry) c0)
  | .norm k e g b => mapRect x entry r0 c0 rows (normRow k e g b)
  | .smax t => mapRect x entry r0 c0 rows (smaxStage t)
  | .qnt mode code t => do
    let (fs, x1) ← round32Rows x entry r0 c0 rows
    let tv := t.entry entry
    let x2 ← if mode = 0 then x1.putRect entry tv r0 c0 (valRows fs)
      else x1.putRect entry { tv with scaled := false } r0 c0 (valRows (fs.map (fun r => r.map (fun a => a.scale (127 - (code : Int))))))
    return (rows, x2)
  | .dual t => do
    let (fs, x1) ← round32Rows x entry r0 c0 rows
    let x2 ← x1.putRect entry (t.entry entry) r0 c0 (valRows fs)
    return (rows, x2)
  | .diff a b c coef step ns nst nd xd xn => do
    let (k, x1) ← if coef = 0 then .ok (([a, b, c] : List Nat), x) else do
      let (bs, y) ← x.load (coef + 16 * step) 12 0 true
      pure (wordsOf 4 3 bs, y)
    let (out, x2) ← mapRect x1 entry r0 c0 rows
      (diffRow (k.getD 0 0) (k.getD 1 0) (k.getD 2 0) ns nst nd (xd.entry entry) (xn.entry entry) c0)
    let x3 ← x2.putRect entry (xn.entry entry) r0 c0 (valRows out)
    return (out, x3)
  | .ycc m rg dp w cu yp cb cr => do
    let x1 ← yccRect x entry m rg dp w cu (yp.entry entry) (cb.entry entry) (cr.entry entry) r0 rows
    return (rows, x1)
  | .chain .. => .ok (rows, x)

/-- Whether a stage writes a destination of its own. -/
def Stage.output (s : Stage) : Bool := !s.writes.isEmpty

/-- The stages before CHAIN, or all of a recipe's; and those after it. -/
def Recipe.pre (rc : Recipe) : List Stage := rc.stages.takeWhile (fun s => match s with | .chain .. => false | _ => true)
def Recipe.post (rc : Recipe) : List Stage := (rc.stages.dropWhile (fun s => match s with | .chain .. => false | _ => true)).drop 1

/-- Stages on a rectangle with the roundings of STAGEROUND, the first only if `rnd` says that it is still due; the primary
destination `d` receives the value entering the first output stage, or the final value (R168), unless `keep` says that the
caller writes it. -/
def stagesRect (rc : Recipe) (entry : Option Nat) (d : Td) (r0 c0 : Nat) (keep : Bool) :
    List Stage → Bool → Bool → X → List (List Num) → Res (List (List Num) × X)
  | [], _, written, x, rows => do
    let x1 ← if keep || written then .ok x else x.putRect entry d r0 c0 (valRows rows)
    return (rows, x1)
  | s :: rest, rnd, written, x, rows => do
    let (rows1, x1) ← if rc.stageround && rnd then rc.ifmtRows x entry d r0 c0 rows else .ok (rows, x)
    let first := s.output && !written && !keep
    let x2 ← if first && rc.dstore then x1.putRect entry d r0 c0 (valRows rows1) else .ok x1
    let (rows2, x3) ← stageRect x2 entry d.e0 r0 c0 s rows1
    stagesRect rc entry d r0 c0 keep rest true (written || s.output) x3 rows2

/-- Values that a rectangle holds within the extents, as numbers. -/
def numRows (rows : List (List Val)) : List (List Num) := rows.map (fun r => r.map Val.num)

/-- A finished rectangle stored: through the recipe, or directly when there is none. -/
def X.finishRect (x : X) (rc : Option Recipe) (entry : Option Nat) (d : Td) (r0 c0 : Nat) (rows : List (List Val)) : Res X :=
  match rc with
  | some r => if r.stages.isEmpty then x.putRect entry d r0 c0 rows else do
    let (_, x1) ← stagesRect r entry d r0 c0 false r.stages true false x (numRows rows)
    return x1
  | none => x.putRect entry d r0 c0 rows

/-! ### RAPPLY -/

/-- The descriptors of RAPPLY: S8 is no operand of a recipe that has a stage (R32). -/
def rapplyChk (x : X) (i : Ins) : Res (Td × Td) := do
  let d ← x.dreg i.op1 { dest := true }
  let s ← x.dreg i.op2 { fmt := fun f => f != 14 || !i.rcpen || (menu i.recipe).isEmpty, comp := true }
  return (d, s)

/-- The recipe of RAPPLY, with its operands checked (R161, R164, R169). -/
def X.rapplyPlan (x : X) (i : Ins) (q : Td × Td) : Res (Option Recipe × X) := do
  let (d, s) := q
  x.check (d.rows == s.rows && d.e0 == s.e0) 0x0307
  if i.rcpen then
    let (rc, x1) ← x.recipeAt .rapply i.recipe (x.s i.op4) 1 true (32 < d.e0)
    rc.fits x1 none d.rows d.e0 d [s]
    return (some rc, x1)
  else return (none, x)

/-- What RAPPLY does once its predicate condition holds. (log 17, DEDUCED) -/
def rapplyRun (x : X) (i : Ins) (q : Td × Td) : Res X := do
  let (d, s) := q
  let (rc, x1) ← x.rapplyPlan i q
  let whole := ((rc.map Recipe.stages).getD []).any (fun st => match st with | .norm .. => true | .smax _ => true | _ => false)
  let width := if whole then max 1 d.e0 else 32
  x1.points 0 ((List.range (ceilDiv d.rows 32)).flatMap (fun tr => (List.range (ceilDiv d.e0 width)).map (fun tc (y : X) => do
    let (rows, y1) ← mapRes y (span (32 * tr) (min 32 (d.rows - 32 * tr))) (fun u r => u.rowVals s .col r (width * tc) width)
    y1.finishRect rc none d (32 * tr) (width * tc) rows)))

/-- RAPPLY (R161): a recipe over a tensor, tile by tile, or by whole rows where it has a row statistic; without a recipe
the elements pass from source to destination unchanged by any stage (log 17, DEDUCED). -/
def rapplyFn (b : Body) (x : X) : Res X := x.guard b (rapplyChk x) (rapplyRun x)

end Sys2Proof.Machine
end

