-- ==== Sys2Proof/Machine/Tiles.lean ====
section
/-!
DEFINITION. The tile load and store instructions TLD and TST (R132, R133, R424).
-/
namespace Sys2Proof.Machine

/-- Bytes of a row of codes in the OSP, packed by R39. -/
def packRow (fmt : Nat) (codes : List Nat) : List Byte :=
  placeCodes fmt 0 codes (List.replicate (rowLen fmt codes.length) 0)

/-- A list padded with a value to `n` elements. -/
def padTo {α : Type} (n : Nat) (d : α) (l : List α) : List α := l ++ List.replicate (n - l.length) d

/-- Columns of a list of rows: element `j` of every row, for `j` below `n`. -/
def columns {α : Type} (n : Nat) (d : α) (rows : List (List α)) : List (List α) :=
  (List.range n).map (fun j => rows.map (fun r => r.getD j d))

/-- Fields of class T that TLD does not use (R132), its descriptor, and whole groups of a scaled one. -/
def tldChk (x : X) (i : Ins) : Res Td := do
  let t ← x.dreg i.op2 { comp := true }
  need (t.scaled || i.ospb == 0) 0x0404
  need (!t.scaled || (if i.func = 1 then x.s i.op3 else x.s i.op4) % 32 == 0) 0x0407 t.operand
  return t

/-- Scale codes of one beat's 32 rows, or columns under FUNC 1, 127 outside the extents (log 18, DEDUCED). -/
def tldScales (x : X) (t : Td) (func r c n : Nat) : Res (List Nat × X) :=
  if func = 1 then
    if r + 32 * n < t.rows ∧ c < t.cols then do
      let (ss, x1) ← x.scaleCodes t .row (r + 32 * n) c (min 32 (t.cols - c))
      return (padTo 32 127 ss, x1)
    else .ok (List.replicate 32 127, x)
  else mapRes x (List.range 32) (fun y i =>
    if r + i < t.rows ∧ c + 32 * n < t.cols then do
      let (ss, y1) ← y.scaleCodes t .col (r + i) (c + 32 * n) 1
      return (ss.headD 127, y1)
    else .ok (127, y))

/-- Rows r on and columns c on of a tensor loaded into the OSP at `oa` in the layout of a FUNC of TLD, `n` beats of it, and its
scale codes at `ob` (R132). -/
def X.tileLoad (x : X) (t : Td) (func r c n oa ob : Nat) : Res X := do
  let w := fmtWidth t.fmt
  let nrow := if func = 1 then 32 * n else 32
  let ncol := if func = 1 then 32 else 32 * n
  let (rows, x1) ← mapRes x (List.range nrow) (fun y k => do
    let (cs, y1) ← y.rowCodes t (r + k) c ncol
    return (padTo ncol 0 cs, y1))
  let strips : List (List Nat) := match func with
    | 0 => (List.range n).flatMap (fun n => rows.map (fun row => (row.drop (32 * n)).take 32))
    | 1 => (List.range n).flatMap (fun n => columns 32 0 ((rows.drop (32 * n)).take 32))
    | _ => rows
  let (ss, x2) ← if t.scaled then mapRes x1 (List.range n) (fun y n => tldScales y t func r c n) else .ok ([], x1)
  let len := if func = 2 then 4 * w * n else 4 * w
  let x3 := (List.range strips.length).foldl (fun (y : X) k => y.ospWrite (oa + len * k) (packRow t.fmt (strips.getD k []))) x2
  return (List.range ss.length).foldl (fun (y : X) n => y.ospWrite (ob + 32 * n) ((ss.getD n []).map (BitVec.ofNat 8))) x3

/-- What TLD does once its predicate condition holds. -/
def tldRun (x : X) (i : Ins) (t : Td) : Res X :=
  let run := fun (y : X) => y.tileLoad t i.func (x.s i.op3) (x.s i.op4) i.n i.ospa i.ospb
  if t.comp.isSome then run x else x.mapFirst run

/-- TLD (R132): the block's rows in the layout of FUNC, then its scales. -/
def tldFn (b : Body) (x : X) : Res X := x.guard b (tldChk x) (tldRun x)

/-- The format a TST into the OSP rounds to (R31, R67). (log 82, DEDUCED) -/
def tstFormats (i : Ins) : Res Unit := do
  let f := if i.func = 3 then i.afmt else i.bfmt
  need (i.func < 3 || f != 15) 0x0102
  need (i.func < 3 || matFmt f) 0x0104

/-- Checks of TST that come before its predicate: its descriptor, the format of an OSP block, and whole groups of a scaled
destination (R133). -/
def tstChk (x : X) (i : Ins) : Res Td := do
  let osp := 3 ≤ i.func
  let t ← x.dreg i.op2 { dest := !osp }
  tstFormats i
  need (osp || !t.scaled || x.s i.op4 % 32 == 0) 0x0407 t.operand
  return t

/-- A TST's source slots lie in the strand's allocation and, for an accumulation, hold a finished one (R133). -/
def tstSrcChk (x : X) (i : Ins) : Res Unit :=
  if i.func = 1 ∨ i.func = 2 then need (i.op1 < x.r.acmAlloc) 0x0314 1
  else need (i.op1 + 1 < x.r.acmAlloc && ((lookup x.tm.accs i.op1).map Acc.finished).getD false) 0x0314 1

/-- The recipe of a TST, in the OSP (R133). -/
def tstRecipe (x : X) (i : Ins) (t : Td) : Res (Option Recipe × X) :=
  if i.rcpen then do
    let (rc, x1) ← x.recipeOsp i.recipe i.ospb (32 < t.cols)
    rc.fits x1 none t.rows t.cols t []
    return (some rc, x1)
  else .ok (none, x)

/-- The 1,024 values of a TST's source slots. -/
def tstSource (x : X) (i : Ins) : Res (List Val × X) :=
  if i.func = 1 then do
    let (ws, x1) ← x.slotWords i.op1
    return (ws.map (fun c => Val.f (d32 c)), x1)
  else if i.func = 2 then do
    let (ws, x1) ← x.slotWords i.op1
    return (ws.map (fun c => Val.i (signed c 32)), x1)
  else do
    let k := ((lookup x.tm.accs i.op1).map Acc.kind).getD .acc
    let (es, x1) ← x.slotPair i.op1
    return (es.map k.val, x1)

/-- The part of a 32 × 32 tile at (r, c) that lies within a view. -/
def clipTile {α : Type} (t : Td) (r c : Nat) (vals : List α) : List (List α) :=
  (List.range (min 32 (t.rows - r))).map (fun i => ((vals.drop (32 * i)).take 32).take (t.cols - c))

/-- TST's store once its recipe is known: rows written together (R263), or the beat block, whose positions outside the extents keep
what the OSP holds. -/
def tstStore (i : Ins) (t : Td) (rc : Option Recipe) (x0 : X) : Res X := do
  let r := x0.s i.op3
  let c := x0.s i.op4
  if i.func = 1 ∧ rc.isNone ∧ t.fmt = 1 ∧ ¬ t.scaled then
    -- no format change: every bit is kept (R36)
    let (ws, x1) ← x0.slotWords i.op1
    let rows := clipTile t r c ws
    let x2 ← foldRes (x1.rewrites (t.rectRanges r c 32 32)) (List.range rows.length) (fun y k => y.putCodes t (r + k) c (rows.getD k []))
    return x2.count t (rows.flatten.map (fun cd => (cd, Ev.none)))
  let (vals, x1) ← tstSource x0 i
  if i.func ≤ 2 then x1.finishRect rc none t r c (clipTile t r c vals)
  else
    let f := if i.func = 3 then i.afmt else i.bfmt
    let td := { t with fmt := f }
    let len := 4 * fmtWidth f
    let els := (clipTile t r c vals).zipIdx.map (fun row => row.1.zipIdx.map (fun v => td.conv (r + row.2) (c + v.2) v.1))
    let x2 := els.zipIdx.foldl (fun (y : X) row => row.1.zipIdx.foldl (fun (z : X) e =>
      z.note e.1.2 { cause := 0, row := r + row.2, col := c + e.2 }) y) x1
    let rows := els.map (fun row => row.map Prod.fst)
    let strips := if i.func = 3 then rows else (List.range (min 32 (t.cols - c))).map (fun j => rows.map (fun row => row.getD j 0))
    if strips.all (fun l => l.length == 32) ∧ strips.length = 32 then
      return (List.range 32).foldl (fun (y : X) k => y.ospWrite (i.ospa + len * k) (packRow f (strips.getD k []))) x2
    else return (List.range strips.length).foldl (fun (y : X) k =>
      let codes := strips.getD k []
      y.ospWrite (i.ospa + len * k) (placeCodes f 0 codes (y.ospOld (i.ospa + len * k) (rowBytes f 0 codes.length).2))) x2

/-- What TST does once its predicate condition holds (R133). -/
def tstRun (x : X) (i : Ins) (t : Td) : Res X := do
  tstSrcChk x i
  let (rc, x0) ← tstRecipe x i t
  x0.mapFirst (tstStore i t rc)

/-- TST (R133): to memory, or as one beat block into the OSP. -/
def tstFn (b : Body) (x : X) : Res X := x.guard b (tstChk x) (tstRun x)

end Sys2Proof.Machine
end

