-- ==== Sys2Proof/Machine/Ladle.lean ====
section
/-!
DEFINITION. The Ladle macros GEMM, CONV and BGEMM (06_tiles_and_the_ladle.md) with their recipes (R174 to R181): the
parameter block, footprints and narrowing, the work-item loop, split-K, and chained products. (log 55, DEDUCED) -/
namespace Sys2Proof.Machine

/-! ### The parameter block -/

/-- A macro parameter block (Table 6.2). -/
structure MacroP where
  acmfit : Bool
  btrans : Bool
  chain : Bool
  bm : Nat
  bn : Nat
  pfd : Nat
  ks : Nat
  teamBase : Nat
  team : Nat
  ospBase : Nat
  ospLen : Nat
  acmBase : Nat
  acmN : Nat
  recper : Nat
  nslot : Nat
  nentry : Nat
  list : Nat
  nodebuf : Nat
  flagbase : Nat
  convw : Nat
  rcpparam : Nat
deriving DecidableEq, Repr

/-- The fields of a block. -/
def macroOf (b : List Byte) : MacroP :=
  { acmfit := bit (fld b 3 1) 0, btrans := bit (fld b 3 1) 2, chain := bit (fld b 3 1) 3, bm := fld b 4 1, bn := fld b 5 1,
    pfd := fld b 6 1, ks := fld b 7 1, teamBase := fld b 8 2, team := fld b 0xA 2, ospBase := fld b 0xC 4,
    ospLen := fld b 0x10 4, acmBase := fld b 0x14 1, acmN := fld b 0x15 1, recper := fld b 0x16 1, nslot := fld b 0x17 1,
    nentry := fld b 0x1C 4, list := fld b 0x20 8, nodebuf := fld b 0x28 8, flagbase := fld b 0x30 8, convw := fld b 0x38 8,
    rcpparam := fld b 0x40 8 }

/-- Whether a block keeps every range of Table 6.2; `m` is the macro's number. -/
def macroOk (b : List Byte) (m acmAlloc : Nat) (rcpen : Bool) : Bool :=
  let p := macroOf b
  let fl := fld b 3 1
  let split := 1 < p.ks
  fld b 0 2 == 1 && fld b 2 1 == m && fl < 16 && (m == 2 || !bit fl 1) && (m != 2 || !bit fl 2) &&
  1 ≤ p.bm && p.bm ≤ 8 && 1 ≤ p.bn && p.bn ≤ 8 && (p.pfd == 2 || p.pfd == 3) && 1 ≤ p.ks && p.ks ≤ 32 &&
  (!p.chain || p.ks == 1) && p.teamBase ≤ 127 && 1 ≤ p.team && p.team ≤ 128 && p.team % p.ks == 0 && p.teamBase + p.team ≤ 128 &&
  p.ospBase % 64 == 0 && p.ospBase < ospSize && p.ospLen % 64 == 0 && p.ospBase + p.ospLen ≤ ospSize &&
  p.acmBase % 2 == 0 && p.acmN % 2 == 0 && 2 ≤ p.acmN && p.acmN ≤ 128 && p.acmBase + p.acmN ≤ acmAlloc &&
  (if split then 1 ≤ p.recper && p.recper ≤ 32 && 1 ≤ p.nslot && p.nslot ≤ 16 && p.nodebuf % 64 == 0 && p.flagbase % 16 == 0 &&
      (areaOf (localOf p.flagbase)).1 == .pantry
   else p.recper == 0 && p.nslot == 0 && p.nodebuf == 0 && p.flagbase == 0) &&
  zeroAt b 0x18 4 && (if m = 3 then 1 ≤ p.nentry && p.nentry ≤ 65536 && p.list % 64 == 0 else p.nentry == 0 && p.list == 0) &&
  (m == 2 || p.convw == 0) && (rcpen || p.rcpparam == 0) && zeroAt b 0x48 56

/-! ### Products -/

/-- A convolution's geometry (R82). -/
structure ConvGeo where
  w : ConvW
  n : Nat
  h : Nat
  wd : Nat
  c : Nat
  cout : Nat
  ho : Nat
  wo : Nat

/-- A product: its operands' views, extents, and accumulation. -/
structure Prod3 where
  entry : Option Nat
  a : Td
  b : Td
  d : Td
  m : Nat
  n : Nat
  k : Nat
  btrans : Bool
  conv : Option ConvGeo
  kind : AccKind
  sat : Bool
  rdnz : Bool

/-- Tile rows and columns (R148): for CONV the tile rows restart at each image. -/
def Prod3.mb (p : Prod3) : Nat :=
  match p.conv with
  | some g => g.n * ceilDiv (g.ho * g.wo) 32
  | none => ceilDiv p.m 32
def Prod3.nb (p : Prod3) : Nat := ceilDiv p.n 32

/-- First matrix row of D of a tile row, and the rows of it within D. -/
def Prod3.tileRows (p : Prod3) (ti : Nat) : Nat × Nat :=
  match p.conv with
  | some g =>
    let per := ceilDiv (g.ho * g.wo) 32
    let o := 32 * (ti % per)
    (ti / per * (g.ho * g.wo) + o, min 32 (g.ho * g.wo - o))
  | none => (32 * ti, min 32 (p.m - 32 * ti))

/-- Group of an output channel (R82). -/
def Prod3.group (p : Prod3) (co : Nat) : Nat :=
  match p.conv with
  | some g => co / max 1 (g.cout / g.w.groups)
  | none => 0

/-- Where the first element of a tile stands (Table 2.15). -/
def Prod3.place (p : Prod3) (ti tj : Nat) : NanInfo :=
  { cause := 0, row := (p.tileRows ti).1, col := 32 * tj, entry := p.entry.getD 0 }

/-- Elements of the reduction in grain `g`. -/
def Prod3.grainLen (p : Prod3) (g : Nat) : Nat := min 1024 (p.k - 1024 * g)

/-- The row of A's view that kernel position `kk` of an output position reads (R82); none outside the image. -/
def ConvGeo.source (cv : ConvGeo) (r kk : Nat) : Option Nat :=
  let pos := r % (cv.ho * cv.wo)
  (cv.w.pos cv.h cv.wd 1 0 (pos / cv.wo) (pos % cv.wo) kk).map (fun q => (r / (cv.ho * cv.wo) * cv.h + q.1) * cv.wd + q.2.1)

/-- The part of a convolution's reduction that a grain covers, gathered from segments of `cg` elements, one for each kernel
position: those that the grain touches, cut to it. -/
def X.convLine {α : Type} (x : X) (p : Prod3) (cg g : Nat) (seg : X → Nat → Res (List α × X)) : Res (List α × X) := do
  let lo := 1024 * g
  let n := p.grainLen g
  if n = 0 ∨ cg = 0 then return ([], x)
  let (segs, x1) ← mapRes x (span (lo / cg) ((lo + n - 1) / cg - lo / cg + 1)) seg
  return (((segs.flatten).drop (lo % cg)).take n, x1)

/-- Thirty-two B columns of a convolution's tile column, over a grain: what `seg` gives of the row of each column and kernel position.
(log 56, DEDUCED) -/
def X.convB (x : X) (p : Prod3) (cv : ConvGeo) (tj g : Nat) (seg : X → Nat → Nat → Res (List Nat × X)) : Res (List (List Nat) × X) :=
  let cg := cv.c / cv.w.groups
  mapRes x (span (32 * tj) (min 32 (p.n - 32 * tj))) (fun y co =>
    y.convLine p cg g (fun z kk => seg z (co * (cv.w.kh * cv.w.kw) + kk) cg))

/-- The part of a tile within D as values: rows of a rectangle. -/
def Prod3.clip (p : Prod3) (ti tj : Nat) (es : List Nat) : List (List Val) :=
  (List.range (p.tileRows ti).2).map (fun i => (((es.drop (32 * i)).take 32).take (p.n - 32 * tj)).map p.kind.val)

/-! ### Footprints and narrowing -/

/-- What R151 and R176 need of a recipe. -/
structure RcpFoot where
  look : Nat
  osp : Nat
  chain : Option (Nat × Nat × Nat)
  smaxPre : Bool
  rowStat : Bool
  wl : Nat

/-- Non-zero vector and scale addresses (V) and tensor operands read (T) of a stage. -/
def Stage.vt : Stage → Nat × Nat
  | .deq g r c => ((if g = 0 then 0 else 1) + (if r = 0 then 0 else 1) + (if c = 0 then 0 else 1), 0)
  | .bias a _ _ => (if a = 0 then 0 else 1, 0)
  | .norm _ _ g b => ((if g = 0 then 0 else 1) + (if b = 0 then 0 else 1), 0)
  | .res .. => (0, 1)
  | .diff .. => (0, 1)
  | _ => (0, 0)

/-- A recipe's chain stage: BN2, C and Y. -/
def Recipe.chainOf (rc : Recipe) : Option (Nat × Td × Td) :=
  rc.stages.findSome? (fun s => match s with | .chain b c y => some (b, c, y) | _ => none)

/-- Whether a recipe has NORM, SMAX or CHAIN. -/
def Recipe.rows (rc : Recipe) : Bool :=
  rc.stages.any (fun s => match s with | .norm .. => true | .smax _ => true | .chain .. => true | _ => false)

/-- The quantities of Table 7.8 that a recipe gives. -/
def Recipe.foot (rc : Recipe) (d : Td) : RcpFoot :=
  let vt := rc.stages.foldl (fun (a : Nat × Nat) s => (a.1 + s.vt.1, a.2 + s.vt.2)) (0, 0)
  { look := match rc.arrive with | some (_, _, 1, l) => l | _ => 0
    osp := ceilDiv rc.len 64 * 64 + 256 * vt.1 + 8192 * vt.2
    chain := rc.chainOf.map (fun c => (c.1, fmtWidth c.2.1.fmt, c.2.2.e0))
    smaxPre := rc.pre.any (fun s => match s with | .smax _ => true | _ => false)
    rowStat := rc.rows
    wl := fmtWidth d.fmt }

/-- R_ACM and R_OSP of Table 7.8 for a strategy (1 HOLD, 2 TWOPASS, 3 RUNNING, else NONE). -/
def rcpFoot (f : RcpFoot) (bm bn bn2 pfd nb n strat : Nat) : Nat × Nat :=
  let g := ceilDiv n 1024
  let s2 := stackNeed 0 g false
  let acm0 := 2 * bm * bn * f.look
  match f.chain with
  | none =>
    if strat = 1 then (acm0 + bm * nb, f.osp)
    else if strat = 2 then (acm0, f.osp + 8192)
    else (acm0, f.osp)
  | some (_, wc, _) =>
    let ya := bm * bn2 * 2 * (s2 + 1)
    let cp := pfd * bn2 * 4096 * wc
    if strat = 1 then (acm0 + ya + (if f.smaxPre then bm * nb else 0), f.osp + bm * 32 * g * 1024 * f.wl / 8 + cp)
    else if strat = 2 then (acm0 + ya, f.osp + pfd * (bm * 4096 * f.wl + bn2 * 4096 * wc))
    else (acm0 + 32 * bm + ya, f.osp + 2 * bm * 4096 * f.wl + cp + bm * 256 * (s2 + 2))

/-- Pantry need of TWOPASS for each member (Table 7.8). -/
def pantryNeed (f : RcpFoot) (bm n : Nat) : Nat :=
  match f.chain with
  | some _ => if f.smaxPre then bm * 32 * n * 4 else bm * 32 * n * f.wl / 8
  | none => bm * 32 * n * 4

/-- Bytes of the band of a CONV's block (Table 6.3). -/
def bandLen (bm : Nat) (p : Prod3) (g : ConvGeo) : Nat :=
  let l := ceilDiv (bm * 32) g.wo + 1
  let bh := (l - 1) * g.w.sh + (g.w.kh - 1) * g.w.dh + 1
  let bw := min g.wd ((bm * 32 - 1) * g.w.sw + (g.w.kw - 1) * g.w.dw + 1)
  ceilDiv (bh * bw * g.c * fmtWidth p.a.fmt) 512 * 64

/-- ACM_FOOT and OSP_FOOT (Table 6.3) for a block width, with the recipe's part. -/
def macroFoot (mp : MacroP) (p : Prod3) (rf : Option RcpFoot) (bn bn2 strat : Nat) : Nat × Nat :=
  let n := ceilDiv p.k 1024
  let s := if p.kind == .chain then 0 else
    ((List.range mp.ks).map (fun q => stackNeed (q * n / mp.ks) ((q + 1) * n / mp.ks - q * n / mp.ks) (1 < mp.ks))).foldl max 0
  let wa := fmtWidth p.a.fmt
  let wb := fmtWidth p.b.fmt
  let sg := fun (t : Td) => if t.scaled then 1024 else 0
  let ap := mp.bm * (4096 * wa + sg p.a)
  let bp := bn * (4096 * wb + sg p.b)
  let gr := if 1 < mp.ks then 16512 else 0
  let r := match rf with
    | some f => rcpFoot f mp.bm bn bn2 mp.pfd p.nb p.n strat
    | none => (0, 0)
  let osp := match p.conv with
    | none => mp.pfd * (ap + bp) + gr + r.2
    | some g => 2 * bandLen mp.bm p g + mp.pfd * bp + gr + r.2
  (mp.bm * bn * 2 * (s + 1) + r.1, osp)

/-- Widths tried in order under ACMFIT = 1: BN2 is halved first, but not below `low`, then BN (R152, R174); `fuel` bounds the
halvings. -/
def widths (low : Nat) : Nat → Nat → Nat → List (Nat × Nat)
  | 0, bn, bn2 => [(bn, bn2)]
  | fuel + 1, bn, bn2 =>
    if 1 < bn2 ∧ low ≤ ceilDiv bn2 2 then (bn, bn2) :: widths low fuel bn (ceilDiv bn2 2)
    else if 1 < bn then (bn, bn2) :: widths low fuel (ceilDiv bn 2) bn2
    else [(bn, bn2)]

/-- How a work item runs: block widths BN′ and BN2′ and strategy; or the fault code with the footprint and window of its
DETAIL. -/
abbrev Fit := Except (Nat × Nat × Nat) (Nat × Nat × Nat)

/-- Strategies to try at a width, in the order of R175. (log 55, DEDUCED) -/
def strategies (rc : Option Recipe) (f : Option RcpFoot) (mp : MacroP) (n : Nat) : List Nat :=
  match rc, f with
  | some r, some q =>
    if ¬ q.rowStat then [0]
    else if q.smaxPre ∧ q.chain.isSome ∧ ¬ r.stageround then [3]
    else if pantryNeed q mp.bm n ≤ r.pscrLen ∧ r.pscr ≠ 0 then [1, 2] else [1]
  | _, _ => [0]

/-- The fit decision of a work item (R152, R175). Running correction keeps all of Y's columns (R180), so BN2 is not narrowed below
them. Where no width fits, the footprint is that of the last width tried, and it gives the code too. (log 55, DEDUCED; log 93, DESIGN
CHOICE) -/
def fitOf (mp : MacroP) (p : Prod3) (rc : Option Recipe) : Fit :=
  let f := rc.map (fun r => r.foot p.d)
  let ch := f.bind RcpFoot.chain
  let bn2 := (ch.map Prod.fst).getD 1
  let ss := strategies rc f mp p.n
  let low := if ss = [3] then (ch.map (fun c => ceilDiv c.2.2 32)).getD 1 else 1
  let ws := if mp.acmfit then widths low 16 mp.bn bn2 else [(mp.bn, bn2)]
  let ok := fun (w : Nat × Nat) (s : Nat) => let q := macroFoot mp p f w.1 w.2 s; q.1 ≤ mp.acmN && q.2 ≤ mp.ospLen
  match ws.findSome? (fun w => (ss.find? (ok w)).map (fun s => (w, s))) with
  | some (w, s) => .ok (w.1, w.2, s)
  | none =>
    let w := ws.getLastD (mp.bn, bn2)
    let q := macroFoot mp p f w.1 w.2 (ss.headD 0)
    if mp.acmN < q.1 then .error (0x0301, q.1, mp.acmN) else .error (0x0303, q.2, mp.ospLen)

/-- Whether a work item was narrowed. -/
def narrowed (mp : MacroP) (p : Prod3) (rc : Option Recipe) : Bool :=
  match fitOf { mp with acmfit := false } p rc with
  | .ok _ => false
  | .error _ => mp.acmfit

/-! ### Chained products -/

/-- A node of the running correction (R180): exponent, sum and one accumulator for each column. -/
structure RunNode where
  m : Nat
  l : Ve
  y : List (Nat × Ev)
deriving DecidableEq, Repr

/-- Rounding up to an integer in FP32. -/
def fceil (c : Nat) : Nat :=
  match d32 c with
  | .fin n m e => if 0 ≤ e ∨ m = 0 then c else (convert 1 0 false 0 (.f (let z := (roundToInt 2 0 n m e).1; .fin n z.natAbs 0))).1
  | _ => c

/-- The clamped exponent of a grain (R180). -/
def runExp (ts : List Ve) : Ve :=
  let mx := rowTree fmax ts negInf32
  if mx.1 = negInf32 then mx
  else op2 fmin (op2 fmax (fceil mx.1, mx.2) (pureV 0xC6800000)) (pureV 0x46800000)

/-- The exponent, the sum and the link codes of grain_node of R180: the scaled scores of the grain's keys and the rounding into the
link format by key. -/
def runScores (ts : List Ve) (link : Nat → Num → Nat × Ev) (linkFmt : Nat) : Nat × Ve × List (Nat × Ev) :=
  let mg := runExp ts
  let es := ts.zipIdx.map (fun t =>
    let v := if mg.1 = negInf32 then (0, t.1.2) else op1 vexp2 (op2 fsub t.1 mg)
    let q := link t.2 (d32 v.1)
    (q.1, v.2.join q.2))
  (mg.1, rowTree (addR fp32) (es.map (fun e => rne fp32 ((elemVal linkFmt e.1).num, Ev.none))) 0, es)

/-- The whole number an FP32 code holds; none for a NaN or an infinity. -/
def wholeOf (c : Nat) : Option Int :=
  match d32 c with
  | .fin n m e => some ((if n then -1 else 1) * (if 0 ≤ e then (m : Int) * 2 ^ e.toNat else ((m / 2 ^ (-e).toNat : Nat) : Int)))
  | _ => none

/-- scale2 of R180: times 2^d, RNE; a NaN exponent makes it a NaN. -/
def scale2 (f : FloatFmt) (c d : Nat) : Nat × Ev :=
  match wholeOf d with
  | some k => rne f ((f.decode c).scale k, Ev.none)
  | none => (f.nanCode, Ev.none)

/-- A node with the events of another joined to its own. -/
def RunNode.after (n a : RunNode) : RunNode :=
  { n with l := (n.l.1, a.l.2.join n.l.2), y := List.zipWith (fun (p q : Nat × Ev) => (q.1, p.2.join q.2)) a.y n.y }

/-- merge of R180; `a` covers the lower grains. A node that drops out leaves its events. -/
def mergeNode (k : AccKind) (rdnz : Bool) (a b : RunNode) : RunNode :=
  if a.m = negInf32 then
    if b.m = negInf32 then
      (({ m := negInf32, l := pureV 0, y := a.y.map (fun _ => (0, Ev.none)) } : RunNode).after a).after b
    else b.after a
  else if b.m = negInf32 then a.after b
  else
    let m := fmax a.m b.m
    let da := (fsub a.m m.1).1
    let db := (fsub b.m m.1).1
    { m := m.1
      l := op2 fadd (op1 (fun c => scale2 fp32 c da) a.l) (op1 (fun c => scale2 fp32 c db) b.l)
      y := List.zipWith (fun p q =>
        let u := scale2 k.fmt p.1 da
        let v := scale2 k.fmt q.1 db
        let r := accAdd k false rdnz u.1 v.1
        (r.1, ((p.2.join q.2).join (u.2.join v.2)).join r.2)) a.y b.y }

/-- A node whose events have been recorded. -/
def RunNode.quiet (n : RunNode) : RunNode := { n with l := n.l.quiet, y := n.y.map Ve.quiet }

/-- The output of a row (R180): 0 where the sum is +0, else the quotient. -/
def runOut (k : AccKind) (nd : RunNode) : List El :=
  nd.y.map (fun y =>
    if nd.l.1 = 0 then (d32 0, nd.l.2.join y.2)
    else ofVe (op2 fdiv (op1 (fun c => rne fp32 ((k.fmt.decode c), Ev.none)) y) nd.l))

/-! ### Work items and their windows -/

/-- A work item as it runs: its number, block row, block widths BN′ and BN2′, strategy, the tile rows of its block, and for a
convolution the rows of A's view that its band holds. -/
structure Item where
  mp : MacroP
  p : Prod3
  rc : Option Recipe
  num : Nat
  br : Nat
  bn : Nat
  bn2 : Nat
  strat : Nat
  tis : List Nat
  band : List Nat := []

/-- The rows of A's view that a convolution's block reads, in the order of their first use: those that the band's bytes hold. The
others are read with the beats (log 76, DESIGN CHOICE). -/
def Prod3.bandRows (p : Prod3) (bm : Nat) (tis : List Nat) : List Nat :=
  match p.conv with
  | none => []
  | some cv =>
    let w := fmtWidth p.a.fmt
    let len := bandLen bm p cv
    ((tis.flatMap (fun ti => (span (p.tileRows ti).1 (p.tileRows ti).2).flatMap (fun r =>
      (List.range (cv.w.kh * cv.w.kw)).filterMap (cv.source r)))).eraseDups).take
        ((if w = 6 then len / 3 * 4 else len * 8 / w) / max 1 cv.c)

/-- The part of the team member that runs a macro, and its lane (R154). -/
def MacroP.part (mp : MacroP) (rank : Nat) : Nat := (rank - mp.teamBase) % mp.ks
def MacroP.lane (mp : MacroP) (rank : Nat) : Nat := (rank - mp.teamBase) / mp.ks

/-- The grains of a part: first, and end (R148). -/
def Item.grains (it : Item) (q : Nat) : Nat × Nat :=
  let n := ceilDiv it.p.k 1024
  (q * n / it.mp.ks, (q + 1) * n / it.mp.ks)

/-- The chain stage of the item's recipe: C and Y in the view of the item's entry (R169). -/
def Item.chain (it : Item) : Option (Td × Td) :=
  (it.rc.bind Recipe.chainOf).map (fun c => (c.2.1.entry it.p.entry, c.2.2.entry it.p.entry))

/-- Kind of the second product of a chain (R179). -/
def Item.kind2 (it : Item) (c : Td) : AccKind := kindOf (classOf it.p.d.fmt c.fmt) c.scaled false

/-- Stack depth of the second product (Table 7.8). -/
def Item.depth2 (it : Item) : Nat := stackNeed 0 (ceilDiv it.p.n 1024) false

/-- Where the parts of a work item lie in the macro's windows: ACM slots of the accumulations with the slots of one tile, of held
tiles or scores, and of the second product; OSP offsets of the panel stages, their length, that of one A and one B panel, of
the link panel, and of the second product's stages and nodes. Tables 6.3 and 7.8 give the sizes, taken in their order (log 76,
DESIGN CHOICE). -/
structure Places where
  step : Nat
  hold : Nat
  acc2 : Nat
  step2 : Nat
  stage : Nat
  aLen : Nat
  bLen : Nat
  link : Nat
  stage2 : Nat
  nodes : Nat

/-- The places of a work item's parts, for a stack depth. (log 76, DESIGN CHOICE) -/
def Item.places (it : Item) (depth : Nat) : Places :=
  let mp := it.mp
  let p := it.p
  let f := it.rc.map (fun r => r.foot p.d)
  let sg := fun (t : Td) => if t.scaled then 1024 else 0
  let step := 2 * (depth + 1)
  let step2 := 2 * (it.depth2 + 1)
  let rest := mp.acmBase + mp.bm * it.bn * step + ((f.map (fun q => 2 * mp.bm * it.bn * q.look)).getD 0)
  let nt := ceilDiv p.n 1024
  let wl := fmtWidth p.d.fmt
  let rf := (f.map (fun q => rcpFoot q mp.bm it.bn it.bn2 mp.pfd p.nb p.n it.strat)).getD (0, 0)
  let osp := mp.ospBase + (macroFoot mp p f it.bn it.bn2 it.strat).2 - rf.2 + ((f.map RcpFoot.osp).getD 0)
  let chain := it.chain.isSome
  { step := step
    hold := if it.strat = 1 ∧ chain then rest + mp.bm * it.bn2 * step2 else rest
    acc2 := if it.strat = 3 then rest + 32 * mp.bm else rest
    step2 := step2
    stage := mp.ospBase + (p.conv.map (fun g => 2 * bandLen mp.bm p g)).getD 0
    aLen := if p.conv.isSome then 0 else 4096 * fmtWidth p.a.fmt + sg p.a
    bLen := 4096 * fmtWidth p.b.fmt + sg p.b
    link := osp
    stage2 := osp + (if it.strat = 3 then 2 * mp.bm * 4096 * wl else if it.strat = 1 then mp.bm * 4096 * nt * wl else 0)
    nodes := osp + rf.2 - ((f.map RcpFoot.osp).getD 0) - mp.bm * 256 * (it.depth2 + 2) }

/-- The stack depth of the item's accumulations in a part (R149). -/
def Item.depth (it : Item) (q : Nat) : Nat :=
  if it.p.kind == .chain then 0 else
    let g := it.grains q
    stackNeed g.1 (g.2 - g.1) (1 < it.mp.ks)

/-- The tiles of a sub-block: slot of the accumulation, place of the tile row in its block, tile row, tile column. -/
def Item.tiles (it : Item) (q : Nat) (cols : List Nat) : List (Nat × Nat × Nat × Nat) :=
  let w := it.places (it.depth q)
  (it.tis.zipIdx.flatMap (fun a => cols.map (fun tj => (a.2, a.1, tj)))).zipIdx.map (fun t => (it.mp.acmBase + w.step * t.2, t.1))

/-! ### Accumulating a sub-block -/

/-- The accumulations of a sub-block opened (R148, R149). -/
def X.openTiles (x : X) (it : Item) (q : Nat) (cols : List Nat) : X :=
  (it.tiles q cols).foldl (fun y t =>
    y.openAt t.1 it.p.kind it.p.sat it.p.rdnz (it.depth q) (it.grains q).1 it.p.k t.2.2.1 t.2.2.2) x

/-- OSP offset of a convolution's band: one of two, taken in turn by the work items. -/
def Item.bandAt (it : Item) (cv : ConvGeo) : Nat := it.mp.ospBase + it.num % 2 * bandLen it.mp.bm it.p cv

/-- Codes of elements `c` on of packed elements from an OSP offset, and such codes written. -/
def X.ospCodes (x : X) (base fmt c n : Nat) : Res (List Nat × X) := do
  let (o, len) := rowBytes fmt c n
  let (bs, x1) ← x.ospRead (base + o) len
  return (codesIn fmt c n bs, x1)
def X.ospPut (x : X) (base fmt c : Nat) (codes : List Nat) : X :=
  let (o, len) := rowBytes fmt c codes.length
  x.ospWrite (base + o) (placeCodes fmt c codes (x.ospOld (base + o) len))

/-- The band of a convolution's block loaded, once for the block (R150). (log 76, DESIGN CHOICE) -/
def X.loadBand (x : X) (it : Item) : Res X :=
  match it.p.conv with
  | none => .ok x
  | some cv => foldRes x it.band.zipIdx (fun y t => do
      let (cs, y1) ← y.rowCodes it.p.a t.1 0 cv.c
      return y1.ospPut (it.bandAt cv) it.p.a.fmt (t.2 * cv.c) cs)

/-- Whether the scales of a convolution's weights are staged: each beat then lies in one group. -/
def Prod3.wholeGroups (p : Prod3) (cv : ConvGeo) : Bool := p.b.scaled && cv.c / cv.w.groups % 32 == 0

/-- The B panel of a tile column of a convolution, over a grain, in B layout at an OSP offset. (log 56, DEDUCED) -/
def X.convPanel (x : X) (p : Prod3) (cv : ConvGeo) (tj g o : Nat) : Res X := do
  let w := fmtWidth p.b.fmt
  let n := ceilDiv (p.grainLen g) 32
  let (cs, x1) ← x.convB p cv tj g (fun z r cg => z.rowCodes p.b r 0 cg)
  let (ss, x2) ← if p.wholeGroups cv then x1.convB p cv tj g (fun z r cg => z.scaleCodes p.b .col r 0 cg) else .ok ([], x1)
  let x3 := (List.range n).foldl (fun (y : X) j => (padTo 32 [] cs).zipIdx.foldl (fun (z : X) c =>
    z.ospWrite (o + 128 * w * j + 4 * w * c.2) (packRow p.b.fmt (padTo 32 0 ((c.1.drop (32 * j)).take 32)))) y) x2
  return if ss.isEmpty then x3 else (List.range n).foldl (fun (y : X) j =>
    y.ospWrite (o + 4096 * w + 32 * j) ((padTo 32 127 (ss.map (fun l => l.getD (32 * j) 127))).map (BitVec.ofNat 8))) x3

/-- The panels of a grain loaded into their stage of the OSP window (R150, R132). (log 56, DEDUCED) (log 76, DESIGN CHOICE) -/
def X.loadPanels (x : X) (it : Item) (q : Nat) (cols : List Nat) (g : Nat) : Res X := do
  let p := it.p
  let w := it.places (it.depth q)
  let base := w.stage + g % it.mp.pfd * (it.mp.bm * w.aLen + it.bn * w.bLen)
  match p.conv with
  | some cv => foldRes x cols.zipIdx (fun y t => y.convPanel p cv t.1 g (base + t.2 * w.bLen))
  | none =>
    let n := ceilDiv (p.grainLen g) 32
    let x1 ← foldRes x it.tis.zipIdx (fun y t =>
      let o := base + t.2 * w.aLen
      y.tileLoad p.a 0 (32 * t.1) (1024 * g) n o (o + 4096 * fmtWidth p.a.fmt))
    foldRes x1 cols.zipIdx (fun y t =>
      let o := base + it.mp.bm * w.aLen + t.2 * w.bLen
      let so := o + 4096 * fmtWidth p.b.fmt
      if p.btrans then y.tileLoad p.b 0 (32 * t.1) (1024 * g) n o so else y.tileLoad p.b 1 (1024 * g) (32 * t.1) n o so)

/-- Thirty-two A rows of a convolution's tile row for a group, over a grain, from its band (R82); zero lanes beyond the image. (log
56, DEDUCED) (log 56, DEDUCED) -/
def X.convA (x : X) (it : Item) (cv : ConvGeo) (ti q g : Nat) : Res (List (List Val) × X) := do
  let p := it.p
  let (r0, nr) := p.tileRows ti
  let cg := cv.c / cv.w.groups
  let (rows, x1) ← mapRes x (span r0 nr) (fun y r => y.convLine p cg g (fun z kk =>
    match cv.source r kk with
    | none => .ok (List.replicate cg (zeroVal p.a.fmt), z)
    | some row =>
      match it.band.idxOf? row with
      | some j => do
        let (cs, z1) ← z.ospCodes (it.bandAt cv) p.a.fmt (j * cv.c + q * cg) cg
        return (cs.map (elemVal p.a.fmt), z1)
      | none => z.rowVals p.a .col row (q * cg) cg))
  return (padTo 32 (List.replicate (p.grainLen g) (zeroVal p.a.fmt)) rows, x1)

/-- The MMA of a grain for one tile of a convolution: A rows by the group of each column, the B panel at OSP offset `ob`. Scales of
groups that a beat does not keep to are read with it (log 76, DESIGN CHOICE). -/
def X.convTile (x : X) (it : Item) (cv : ConvGeo) (t : Nat × Nat × Nat × Nat) (a : Acc) (g ob : Nat) : Res X := do
  let p := it.p
  let w := fmtWidth p.b.fmt
  let (ti, tj) := t.2.2
  let qs := (span (32 * tj) (min 32 (p.n - 32 * tj))).map p.group
  let q0 := qs.headD 0
  let (as, x1) ← mapRes x (span q0 (qs.getLastD q0 + 1 - q0)) (fun y q => y.convA it cv ti q g)
  let (ss, x2) ← if p.b.scaled && !p.wholeGroups cv then x1.convB p cv tj g (fun z r cg => z.scaleCodes p.b .col r 0 cg) else .ok ([], x1)
  x2.mma t.1 a (p.place ti tj) (ceilDiv (p.grainLen g) 32) (fun y j => do
    let sc := if p.wholeGroups cv then some (ob + 4096 * w + 32 * j) else none
    let (bs, y1) ← y.ospBeat (ob + 128 * w * j) p.b.fmt sc (min 32 (p.grainLen g - 32 * j))
    let bv := fun (c : Nat) => match ss[c]? with
      | some l => List.zipWith (fun (v : Val) s => Val.f (scaled v.num s)) (bs.getD c []) ((l.drop (32 * j)).take 32)
      | none => bs.getD c []
    return (fun i c => ((((as.getD (qs.getD c q0 - q0) []).getD i []).drop (32 * j)).take 32).zip (bv c), y1))

/-- The beats of a grain for one tile (R148): an MMA whose operands lie in the grain's stage. -/
def X.grainTile (x : X) (it : Item) (q : Nat) (cols : List Nat) (g : Nat) (t : Nat × Nat × Nat × Nat) : Res X := do
  let p := it.p
  let a ← x.openAcc t.1
  let n := ceilDiv (p.grainLen g) 32
  let w := it.places (it.depth q)
  let base := w.stage + g % it.mp.pfd * (it.mp.bm * w.aLen + it.bn * w.bLen)
  let ob := base + it.mp.bm * w.aLen + cols.idxOf t.2.2.2 * w.bLen
  match p.conv with
  | some cv => x.convTile it cv t a g ob
  | none =>
    let oa := base + t.2.1 * w.aLen
    let sc := fun (d : Td) (o j : Nat) => if d.scaled then some (o + 4096 * fmtWidth d.fmt + 32 * j) else none
    x.mma t.1 a (p.place t.2.2.1 t.2.2.2) n (fun y j =>
      y.ospLanes (oa + j * 128 * fmtWidth p.a.fmt) p.a.fmt (sc p.a oa j) (ob + j * 128 * fmtWidth p.b.fmt) p.b.fmt (sc p.b ob j)
        (min 32 (p.k - 32 * (a.next + j))))

/-- The wait, as an acquire, for a ready flag of an ARRIVE section, before the A panels of its unit are requested (R181): `g`
is the grain, none for a whole block row. The flags of an entry are numbered by the descriptors' extents, `rows` block rows and the
grains of A's columns, so that those of ragged entries are apart. (log 93, DESIGN CHOICE) -/
def X.arrivals (x : X) (it : Item) (rows : Nat) (g : Option Nat) : Res X :=
  match it.rc.bind Recipe.arrive, g with
  | some (fa, v, 0, _), none =>
    let a := fa + 8 * ((it.p.entry.getD 0) * rows + it.br)
    x.untilFlag a v (.arrive a v)
  | some (fa, v, 1, _), some g =>
    let a := fa + 8 * (((it.p.entry.getD 0) * rows + it.br) * ceilDiv it.p.a.e0 1024 + g)
    x.untilFlag a v (.arrive a v)
  | _, _ => .ok x

/-- The points of the grains of a part over a sub-block (R148, R150): the panels of a grain are requested PFD − 1 grains ahead, each
once its ready flag is set, and each tile takes its beats in ascending grain order. -/
def Item.grainPoints (it : Item) (rows q : Nat) (cols : List Nat) : List (X → Res X) :=
  let (g0, g1) := it.grains q
  let load := fun (g : Nat) (x : X) => do
    let y ← x.arrivals it rows (some g)
    y.loadPanels it q cols g
  let ahead := it.mp.pfd - 1
  (span g0 (min ahead (g1 - g0))).map load ++
    (span g0 (g1 - g0)).flatMap (fun g =>
      (if g + ahead < g1 then [load (g + ahead)] else []) ++ (it.tiles q cols).map (fun t (x : X) => x.grainTile it q cols g t))

/-- A finished tile's rows within D (R135 item 7, R148): AFIN, then the slots' values. -/
def X.finishTile (x : X) (it : Item) (t : Nat × Nat × Nat × Nat) : Res (List (List Val) × X) := do
  let a ← x.openAcc t.1
  let x1 ← x.finished t.1 a (it.p.place t.2.2.1 t.2.2.2)
  let (es, x2) ← x1.slotPair t.1
  return (it.p.clip t.2.2.1 t.2.2.2 es, x2)

/-- A finished tile stored through the recipe (R148). -/
def X.storeTile (x : X) (it : Item) (t : Nat × Nat × Nat × Nat) : Res X := do
  let (rows, x1) ← x.finishTile it t
  x1.finishRect it.rc it.p.entry it.p.d (it.p.tileRows t.2.2.1).1 (32 * t.2.2.2) rows

/-! ### Split-K -/

/-- Address of a part's record region (R154). -/
def recAddr (mp : MacroP) (lane z tile q : Nat) : Nat :=
  mp.nodebuf + (((lane * mp.nslot + z) * mp.bm * mp.bn + tile) * mp.ks + q) * mp.recper * nodeLen

/-- Records that a part exports: the stack its grain range leaves. (log 55, DEDUCED) -/
def partCount (n ks q : Nat) : Nat :=
  ((span (q * n / ks) ((q + 1) * n / ks - q * n / ks)).foldl (fun st g => pushTag st 0 g) []).length

/-- Number of a tile in its block (R154). -/
def Item.tileNum (it : Item) (t : Nat × Nat × Nat × Nat) : Nat := t.2.1 * it.mp.bn + t.2.2.2 % it.mp.bn

/-- The tile of block set `j` reduced by part 0 from the records of every part, and stored (R154). -/
def X.combineTile (x : X) (it : Item) (lane j : Nat) (t : Nat × Nat × Nat × Nat) : Res X := do
  let mp := it.mp
  let p := it.p
  let n := ceilDiv p.k 1024
  let addrs := (List.range mp.ks).flatMap (fun q =>
    (List.range (partCount n mp.ks q)).map (fun k => recAddr mp lane ((j - 1) % mp.nslot) (it.tileNum t) q + nodeLen * k))
  let (rs, x1) ← x.nodeRecs addrs
  let x2 ← if n = 0 then (do
      let y := x1.openAt t.1 p.kind p.sat p.rdnz 0 0 0 t.2.2.1 t.2.2.2
      let a ← y.openAcc t.1
      y.finished t.1 a (p.place t.2.2.1 t.2.2.2))
    else x1.gred t.1 rs (fun _ => p.place t.2.2.1 t.2.2.2)
  let (es, x3) ← x2.slotPair t.1
  x3.finishRect it.rc p.entry p.d (p.tileRows t.2.2.1).1 (32 * t.2.2.2) (p.clip t.2.2.1 t.2.2.2 es)

/-- The exchange of block set `j` of a lane, part `q`'s side (R154): a part exports its tiles once its slots of the ring are
free and counts itself in READY; part 0 then waits for every part, combines and stores, and sets DONE. -/
def Item.exchange (it : Item) (lane q j : Nat) (ts : List (Nat × Nat × Nat × Nat)) : List (X → Res X) :=
  let mp := it.mp
  let ready := mp.flagbase + 16 * lane
  let start := fun (x : X) =>
    if 0 < q then x.untilFlag (ready + 8) (j - mp.nslot) (.splitK (ready + 8) (j - mp.nslot)) else .ok x
  let sends := ts.map (fun t (x : X) => do
    let a ← x.openAcc t.1
    let r ← x.exportAcc t.1 a (it.p.place t.2.2.1 t.2.2.2) (recAddr mp lane ((j - 1) % mp.nslot) (it.tileNum t) q) 0
    return r.2)
  let count := fun (x : X) => do
    x.released true
    let r ← x.fadd ready 1
    return r.2
  let done := fun (x : X) => do
    x.released true
    x.store (ready + 8) (leBytes 8 j)
  start :: sends ++
    (if 0 < q then [count]
     else (fun (x : X) => x.untilFlag ready (j * (mp.ks - 1)) (.splitK ready (j * (mp.ks - 1)))) ::
       ts.map (fun t (x : X) => x.combineTile it lane j t) ++ [done])

/-! ### Whole block rows: NORM, SMAX and CHAIN -/

/-- The stages before a row statistic or a chain, the statistic if that is what follows, and the stages after it up to a
chain (R178, R179). -/
def Recipe.cut (rc : Recipe) : List Stage × Option Stage × List Stage :=
  let isStat := fun (s : Stage) => match s with | .norm .. => true | .smax _ => true | _ => false
  let a := rc.pre.takeWhile (fun s => !isStat s)
  (a, rc.pre.find? isStat, (rc.pre.dropWhile (fun s => !isStat s)).drop 1)

/-- The scratch of a member as a matrix of a format with N columns (R178). -/
def Item.scratch (it : Item) (x : X) (fmt : Nat) : Td :=
  let base := (it.rc.map (fun r => r.pscr + (x.r.rank - it.mp.teamBase) * r.pscrLen)).getD 0
  { base := base, fmt := fmt, rmode := 0, sat := false, rank := 2, scaled := false, histen := false, histset := 0, stream := 0,
    e0 := it.p.n, e1 := 32 * it.mp.bm, e2 := 1, e3 := 1, s1 := rowLen fmt it.p.n, s2 := 0, s3 := 0, draw := 0, scale := 0, seed := 0,
    reg := 16 }

/-- The FP32 codes of a tile held (R178): in an ACM slot under HOLD, one for each tile of the block row, and under RUNNING one for each
tile of a grain; in the scratch under TWOPASS. -/
def X.holdTile (x : X) (it : Item) (t : Nat × Nat × Nat × Nat) (codes : List (List Nat)) : Res X :=
  let w := it.places (it.depth 0)
  if it.strat = 2 then
    foldRes x codes.zipIdx (fun y r => y.putCodes (it.scratch x 1) (32 * t.2.1 + r.2) (32 * t.2.2.2) r.1)
  else
    let slot := if it.strat = 3 then w.hold + 32 * t.2.1 + t.2.2.2 % 32 else w.hold + t.2.1 * it.p.nb + t.2.2.2
    .ok (x.setSlotWords slot (padTo 1024 0 (codes.flatMap (padTo 32 0))))

/-- The held codes of `m` rows of a tile row, columns of the tiles `tjs`. -/
def X.heldRows (x : X) (it : Item) (ti' m : Nat) (tjs : List Nat) : Res (List (List Nat) × X) := do
  let w := it.places (it.depth 0)
  let c0 := 32 * tjs.headD 0
  let n := min (32 * tjs.length) (it.p.n - c0)
  if it.strat = 2 then mapRes x (List.range m) (fun y r => y.rowCodes (it.scratch x 1) (32 * ti' + r) c0 n)
  else do
    let (ts, x1) ← mapRes x tjs (fun y tj =>
      y.slotWords (if it.strat = 3 then w.hold + 32 * ti' + tj % 32 else w.hold + ti' * it.p.nb + tj))
    return ((List.range m).map (fun i => (ts.flatMap (fun s => (s.drop (32 * i)).take 32)).take n), x1)

/-- Values rounded into the link format under D's rounding fields (R179), their events recorded; H is stored when DSTORE
is 1. Answers the codes. (log 55, DEDUCED) -/
def X.linkRows (x : X) (it : Item) (rc : Recipe) (r0 c0 : Nat) (rows : List (List Num)) : Res (List (List Nat) × X) := do
  let d := it.p.d
  let (h, x1) ← if rc.stageround then rc.ifmtRows x it.p.entry d r0 c0 rows else .ok (rows, x)
  let els := h.zipIdx.map (fun r => r.1.zipIdx.map (fun v => d.conv (r0 + r.2) (c0 + v.2) (.f v.1)))
  let x2 := els.zipIdx.foldl (fun (z : X) r => r.1.zipIdx.foldl (fun (u : X) e => u.note e.1.2 (stageLoc it.p.entry (r0 + r.2) (c0 + e.2))) z) x1
  let x3 ← if rc.dstore then x2.putRect it.p.entry d r0 c0 (valRows h) else .ok x2
  return (els.map (fun r => r.map Prod.fst), x3)

/-- Link codes of a tile kept for the second product (R179): in the OSP panel under HOLD, in A layout, one for each grain and
tile row; in the scratch under TWOPASS. -/
def X.keepLink (x : X) (it : Item) (ti' tj : Nat) (codes : List (List Nat)) : Res X :=
  let wl := fmtWidth it.p.d.fmt
  if it.strat = 2 then
    foldRes x codes.zipIdx (fun y r => y.putCodes (it.scratch x it.p.d.fmt) (32 * ti' + r.2) (32 * tj) r.1)
  else
    let w := it.places (it.depth 0)
    let o := w.link + (ti' * ceilDiv it.p.n 1024 + tj / 32) * 4096 * wl + tj % 32 * 128 * wl
    .ok (((padTo 32 [] codes).zipIdx).foldl (fun (y : X) r => y.ospWrite (o + 4 * wl * r.2) (packRow it.p.d.fmt (padTo 32 0 r.1))) x)

/-- A finished tile of a whole block row taken up to its row statistic or chain: its scores under RUNNING (R180), its FP32
values before a statistic (R178), SMAX's score scale applied to the value as it enters (R167), or its link codes (R179). -/
def X.takeTile (x : X) (it : Item) (rc : Recipe) (t : Nat × Nat × Nat × Nat) : Res X := do
  let (vals, x1) ← x.finishTile it t
  let (r0, c0) := ((it.p.tileRows t.2.2.1).1, 32 * t.2.2.2)
  let en := it.p.entry
  let codes := fun (rows : List (List Num)) => rows.map (fun r => r.map (fun a => (toVe a).1))
  let (pre, stat, _) := rc.cut
  let (rows, x2) ← stagesRect rc en it.p.d r0 c0 true pre true false x1 (numRows vals)
  match stat with
  | none => do
    let (ls, x3) ← x2.linkRows it rc r0 c0 rows
    x3.keepLink it t.2.1 t.2.2.2 ls
  | some s => do
    let (y, x3) ← if rc.stageround then rc.ifmtRows x2 en it.p.d r0 c0 rows else .ok (rows, x2)
    let (h, x4) ← match s with
      | .smax tsc => mapRect x3 en r0 c0 y (fun z _ row => .ok (row.map (fun a => el (mulN 3 a (d32 tsc))), z))
      | _ => round32Rows x3 en r0 c0 y
    x4.holdTile it t (codes h)

/-- The statistic of a row whose score scale is already applied. -/
def Stage.applied : Stage → Stage
  | .smax _ => .smax one32
  | s => s

/-- The rows of a tile row finished from what is held of them (R178): the statistic over whole rows, the stages that follow,
and the stores; before a chain, the link codes. -/
def X.finishRow (x : X) (it : Item) (rc : Recipe) (ti' ti : Nat) : Res X := do
  let (r0, m) := it.p.tileRows ti
  let (hs, x1) ← x.heldRows it ti' m (List.range it.p.nb)
  let rows := hs.map (fun r => r.map d32)
  match rc.cut, rc.chainOf with
  | (_, some s, rest), none => do
    let (_, x2) ← stagesRect rc it.p.entry it.p.d r0 0 false (s.applied :: rest ++ rc.post) false false x1 rows
    return x2
  | (_, some s, rest), some _ => do
    let (h, x2) ← stagesRect rc it.p.entry it.p.d r0 0 true (s.applied :: rest) false false x1 rows
    foldRes x2 (List.range it.p.nb) (fun y tj => do
      let (ls, y1) ← y.linkRows it rc r0 (32 * tj) (h.map (fun r => (r.drop (32 * tj)).take 32))
      y1.keepLink it ti' tj ls)
  | _, _ => return x1

/-! ### The second product -/

/-- The tiles of a sub-block of Y: slot, place of the tile row, tile row, tile column. -/
def Item.tiles2 (it : Item) (cols : List Nat) : List (Nat × Nat × Nat × Nat) :=
  let w := it.places (it.depth 0)
  (it.tis.zipIdx.flatMap (fun a => cols.map (fun tj => (a.2, a.1, tj)))).zipIdx.map (fun t => (w.acc2 + w.step2 * t.2, t.1))

/-- Where the first element of a tile of Y stands. -/
def Item.place2 (it : Item) (t : Nat × Nat × Nat × Nat) : NanInfo := it.p.place t.2.2.1 t.2.2.2

/-- The accumulations of a sub-block of Y opened, with extent K2 = N (R179, R180). -/
def X.openTiles2 (x : X) (it : Item) (c y : Td) (cols : List Nat) : X :=
  (it.tiles2 cols).foldl (fun z t =>
    z.openAt t.1 (it.kind2 c) false (y.rmode == 3) it.depth2 0 it.p.n t.2.2.1 t.2.2.2) x

/-- OSP offsets of a grain's stage of the second product: the H panels that TWOPASS reads back, then the C panels. -/
def Item.stage2 (it : Item) (c : Td) (g : Nat) : Nat × Nat :=
  let w := it.places (it.depth 0)
  let h := if it.strat = 2 then it.mp.bm * 4096 * fmtWidth it.p.d.fmt else 0
  let o := w.stage2 + g % it.mp.pfd * (h + it.bn2 * 4096 * fmtWidth c.fmt)
  (o, o + h)

/-- Elements of H's columns in grain `g`. -/
def Item.len2 (it : Item) (g : Nat) : Nat := min 1024 (it.p.n - 1024 * g)

/-- The panels of a grain of the second product loaded (R150, R179). -/
def X.loadPanels2 (x : X) (it : Item) (c : Td) (cols : List Nat) (g : Nat) : Res X := do
  let n := ceilDiv (it.len2 g) 32
  let (oh, oc) := it.stage2 c g
  let wl := fmtWidth it.p.d.fmt
  let x1 ← if it.strat = 2 then foldRes x it.tis.zipIdx (fun y t =>
      y.tileLoad (it.scratch x it.p.d.fmt) 0 (32 * t.2) (1024 * g) n (oh + t.2 * 4096 * wl) 0)
    else .ok x
  foldRes x1 cols.zipIdx (fun y t =>
    y.tileLoad { c with scaled := false } 1 (1024 * g) (32 * t.1) n (oc + t.2 * 4096 * fmtWidth c.fmt) 0)

/-- The lanes of beat `j` of grain `g` of a tile of Y: A from the link panel or the stage, B from the stage, with C's scale codes. -/
def X.lanes2 (x : X) (it : Item) (c : Td) (cols : List Nat) (g : Nat) (t : Nat × Nat × Nat × Nat) (j : Nat) : Res (Lanes × X) := do
  let w := it.places (it.depth 0)
  let (oh, oc) := it.stage2 c g
  let wl := fmtWidth it.p.d.fmt
  let oa := if it.strat = 2 then oh + t.2.1 * 4096 * wl
    else if it.strat = 3 then w.link + (g % 2 * it.mp.bm + t.2.1) * 4096 * wl
    else w.link + (t.2.1 * ceilDiv it.p.n 1024 + g) * 4096 * wl
  let live := min 32 (it.len2 g - 32 * j)
  let (as, x1) ← x.ospBeat (oa + j * 128 * wl) it.p.d.fmt none live
  let (bs, x2) ← x1.ospBeat (oc + (cols.idxOf t.2.2.2 * 4096 + j * 128) * fmtWidth c.fmt) c.fmt none live
  if c.scaled then
    let (ss, x3) ← tldScales x2 c 1 (1024 * g) (32 * t.2.2.2) j
    return (lanesOf as (bs.zipIdx.map (fun b => b.1.map (fun v => Val.f (scaled v.num (ss.getD b.2 127))))), x3)
  else return (lanesOf as bs, x2)

/-- A rectangle of Y stored: through the stages after the chain, or rounded once into YDESC. -/
def X.putY (x : X) (it : Item) (rc : Recipe) (y : Td) (r0 c0 : Nat) (rows : List (List Val)) : Res X :=
  if rc.post.isEmpty then x.putRect it.p.entry y r0 c0 rows
  else do
    let (h, x1) ← if rc.stageround then .ok (numRows rows, x) else round32Rows x it.p.entry r0 c0 (numRows rows)
    let (_, x2) ← stagesRect rc it.p.entry y r0 c0 false rc.post true false x1 h
    return x2

/-- A finished tile of Y stored (R179). -/
def X.storeTile2 (x : X) (it : Item) (rc : Recipe) (c y : Td) (t : Nat × Nat × Nat × Nat) : Res X := do
  let a ← x.openAcc t.1
  let x1 ← x.finished t.1 a (it.place2 t)
  let (es, x2) ← x1.slotPair t.1
  let (r0, m) := it.p.tileRows t.2.2.1
  x2.putY it rc y r0 (32 * t.2.2.2)
    ((List.range m).map (fun i => (((es.drop (32 * i)).take 32).take (y.e0 - 32 * t.2.2.2)).map (it.kind2 c).val))

/-- The points of the second product under HOLD and TWOPASS (R179): sub-blocks of BN2 tile columns, in ascending order. -/
def Item.points2 (it : Item) (rc : Recipe) (c y : Td) : List (X → Res X) :=
  let nb2 := ceilDiv y.e0 32
  let n2 := ceilDiv it.p.n 1024
  let ahead := it.mp.pfd - 1
  (List.range (ceilDiv nb2 it.bn2)).flatMap (fun s =>
    let cols := span (s * it.bn2) (min it.bn2 (nb2 - s * it.bn2))
    let load := fun (g : Nat) (x : X) => x.loadPanels2 it c cols g
    [fun (x : X) => .ok (x.openTiles2 it c y cols)] ++ (span 0 (min ahead n2)).map load ++
      (List.range n2).flatMap (fun g =>
        (if g + ahead < n2 then [load (g + ahead)] else []) ++
        (it.tiles2 cols).map (fun t (x : X) => do
          let a ← x.openAcc t.1
          x.mma t.1 a (it.place2 t) (ceilDiv (it.len2 g) 32) (fun z j => z.lanes2 it c cols g t j))) ++
      (it.tiles2 cols).map (fun t (x : X) => x.storeTile2 it rc c y t))

/-! ### Running correction -/

/-- The 32 row nodes of a tile row at a place of its stack, 0 for the grain in hand and the stack's bottom at 1: exponents and sums in
the OSP, accumulators in the slots of Y's tiles (Table 7.8). -/
def X.runLoad (x : X) (it : Item) (cols : List Nat) (ti' pos : Nat) : Res (List RunNode × X) := do
  let w := it.places (it.depth 0)
  let (ml, x1) ← x.ospRead (w.nodes + (ti' * (it.depth2 + 2) + pos) * 256) 256
  let (ys, x2) ← mapRes x1 ((it.tiles2 cols).filter (fun t => t.2.1 = ti')) (fun y t => y.slotPair (t.1 + 2 * pos))
  return ((List.range 32).map (fun i =>
    { m := fld ml (4 * i) 4, l := pureV (fld ml (128 + 4 * i) 4)
      y := (ys.flatMap (fun s => (s.drop (32 * i)).take 32)).map pureV }), x2)

/-- Those nodes stored. -/
def X.runStore (x : X) (it : Item) (cols : List Nat) (ti' pos : Nat) (ns : List RunNode) : X :=
  let w := it.places (it.depth 0)
  let x1 := x.ospWrite (w.nodes + (ti' * (it.depth2 + 2) + pos) * 256)
    (ns.flatMap (fun n => leBytes 4 n.m) ++ ns.flatMap (fun n => leBytes 4 n.l.1))
  ((it.tiles2 cols).filter (fun t => t.2.1 = ti')).zipIdx.foldl (fun (y : X) t =>
    y.setSlotPair (t.1.1 + 2 * pos) (ns.flatMap (fun n => ((n.y.map Prod.fst).drop (32 * t.2)).take 32))) x1

/-- Events of row nodes recorded; `grain` is the first grain they cover. -/
def X.noteNodes (x : X) (place : NanInfo) (grain : Nat) (ns : List RunNode) : X :=
  ns.zipIdx.foldl (fun (z : X) n =>
    n.1.y.zipIdx.foldl (fun (u : X) e =>
      u.note e.1.2 { place with row := place.row + n.2, col := place.col + e.2, grain := grain })
      (z.note n.1.l.2 { place with row := place.row + n.2, grain := grain })) x

/-- push_node with merge in place of acc_add (R180), on nodes (level, index, rows) given top first. -/
def pushRun (merge : List RunNode → List RunNode → List RunNode) :
    List (Nat × Nat × List RunNode) → Nat × Nat × List RunNode → List (Nat × Nat × List RunNode)
  | [], v => [v]
  | t :: rest, v =>
    if v.2.1 % 2 = 1 ∧ t.1 = v.1 ∧ t.2.1 + 1 = v.2.1 then pushRun merge rest (v.1 + 1, v.2.1 / 2, merge t.2.2 v.2.2)
    else v :: t :: rest

/-- The stack of row nodes of a tile row, top first, with its tags. -/
def X.runStack (x : X) (it : Item) (cols : List Nat) (ti' : Nat) (tags : List (Nat × Nat)) : Res (List (Nat × Nat × List RunNode) × X) := do
  let (ns, x1) ← mapRes x tags.zipIdx (fun y t => do
    let (n, z) ← y.runLoad it cols ti' (t.2 + 1)
    return ((t.1.1, t.1.2, n), z))
  return (ns.reverse, x1)

/-- The tags of a tile row's stack, from the bottom. -/
def X.runTags (x : X) (it : Item) (cols : List Nat) (ti' : Nat) : List (Nat × Nat) :=
  (((it.tiles2 cols).find? (fun t => t.2.1 = ti')).bind (fun t => (lookup x.tm.accs t.1).map Acc.stack)).getD []

/-- A grain of scores of a tile row turned into a node (R180): the link codes, stored in H when DSTORE is 1, the beats of Y, and the
push of a grain that is not the last. -/
def X.runGrain (x : X) (it : Item) (rc : Recipe) (c : Td) (cols : List Nat) (ti' ti g : Nat) : Res X := do
  let d := it.p.d
  let en := it.p.entry
  let (r0, m) := it.p.tileRows ti
  let w := it.places (it.depth 0)
  let wl := fmtWidth d.fmt
  let n := it.len2 g
  let nt := ceilDiv n 32
  let (hs, x1) ← x.heldRows it ti' m (span (32 * g) nt)
  let ns := hs.zipIdx.map (fun r => runScores (r.1.map pureV) (fun j v => d.conv (r0 + r.2) (1024 * g + j) (.f v)) d.fmt)
  let x2 := ns.zipIdx.foldl (fun (z : X) r =>
    (r.1.2.2.zipIdx.foldl (fun (u : X) e => u.note e.1.2 (stageLoc en (r0 + r.2) (1024 * g + e.2))) z).note r.1.2.1.2
      (stageLoc en (r0 + r.2) (1024 * g))) x1
  let x3 ← if rc.dstore then foldRes x2 (List.range nt) (fun y b => do
      let els := ns.map (fun r => (r.2.2.drop (32 * b)).take 32)
      let y1 ← foldRes (y.rewrites (d.rectRanges r0 (1024 * g + 32 * b) m 32)) els.zipIdx (fun u r =>
        u.putCodes d (r0 + r.2) (1024 * g + 32 * b) (r.1.map Prod.fst))
      return y1.count d els.flatten) else .ok x2
  let x4 := (List.range nt).foldl (fun (y : X) b => (List.range 32).foldl (fun (u : X) i =>
    u.ospWrite (w.link + (g % 2 * it.mp.bm + ti') * 4096 * wl + b * 128 * wl + 4 * wl * i)
      (packRow d.fmt (padTo 32 0 ((((ns[i]?).map (fun r => r.2.2.map Prod.fst)).getD []).drop (32 * b) |>.take 32)))) y) x3
  let x5 ← x4.loadPanels2 it c cols g
  let x6 ← foldRes x5 ((it.tiles2 cols).filter (fun t => t.2.1 = ti')) (fun y t => do
    let a ← y.openAcc t.1
    let (a1, y1) ← y.beats t.1 a (it.place2 t) nt (fun z j => z.lanes2 it c cols g t j)
    return y1.setAcc t.1 a1)
  let (acc, x7) ← x6.runLoad it cols ti' 0
  let node := acc.zipIdx.map (fun a => match ns[a.2]? with
    | some r => { a.1 with m := r.1, l := pureV r.2.1.1 }
    | none => { a.1 with m := negInf32, l := pureV 0 })
  if g + 1 = ceilDiv it.p.n 1024 then return x7.runStore it cols ti' 0 node
  else
    let k := it.kind2 c
    let rdnz := (it.chain.map (fun q => q.2.rmode == 3)).getD false
    let (st, x8) ← x7.runStack it cols ti' (x7.runTags it cols ti')
    match pushRun (List.zipWith (mergeNode k rdnz)) st (0, g, node) with
    | [] => return x8
    | top :: rest =>
      let x9 := (x8.noteNodes { stageLoc en r0 0 with cause := 0 } (top.2.1 * 2 ^ top.1) top.2.2).runStore it cols ti' (rest.length + 1) top.2.2
      return ((it.tiles2 cols).filter (fun t => t.2.1 = ti')).foldl (fun (y : X) t =>
        match lookup y.tm.accs t.1 with
        | some a => y.setAcc t.1 { a with stack := ((top :: rest).reverse).map (fun v => (v.1, v.2.1)), dirty := false }
        | none => y) x9

/-- The rows of a tile row finished and stored (R180): the last node merged with the stack from the top down, then the quotient. -/
def X.runFinish (x : X) (it : Item) (rc : Recipe) (c y : Td) (cols : List Nat) (ti' ti : Nat) : Res X := do
  let (r0, m) := it.p.tileRows ti
  let k := it.kind2 c
  let (st, x1) ← x.runStack it cols ti' (x.runTags it cols ti')
  let (last, x2) ← x1.runLoad it cols ti' 0
  let v := st.foldl (fun a n => List.zipWith (mergeNode k (y.rmode == 3)) n.2.2 a) last
  let x3 := x2.noteNodes (stageLoc it.p.entry r0 0) (ceilDiv it.p.n 1024 - 1) (v.take m)
  let out := (v.take m).map (fun n => (runOut k n.quiet).take y.e0)
  let x4 := out.zipIdx.foldl (fun (z : X) r =>
    r.1.zipIdx.foldl (fun (u : X) e => u.note e.1.2 (stageLoc it.p.entry (r0 + r.2) e.2)) z) x3
  foldRes x4 cols (fun u tj =>
    u.putY it rc y r0 (32 * tj) (out.map (fun r => ((r.drop (32 * tj)).take 32).map (fun e => Val.f e.1))))

/-! ### The points of a work item -/

/-- LDL_FITSTAT and LDL_RCPSTAT of a work item (R153, R177), counted for every part that runs it, in its own context slot. (log 93,
DESIGN CHOICE) -/
def X.itemStats (x : X) (nar : Bool) (rc : Option Recipe) (bn strat : Nat) : X :=
  let n1 := if nar then { x.num with fitCount := satInc x.num.fitCount 0xFFFFFFFF, fitLast := bn } else x.num
  let n2 := if rc.isSome then
    { n1 with rcpCount := if strat = 2 then satInc n1.rcpCount 0xFFFFFFFF else n1.rcpCount, rcpLast := strat } else n1
  { x with num := n2 }

/-- TWOPASS leaves nothing of use in its scratch (R178): its contents are undefined. (log 55, DEDUCED) -/
def X.spoilScratch (x : X) (it : Item) : X :=
  match it.rc with
  | some r =>
    let need := pantryNeed (r.foot it.p.d) it.mp.bm it.p.n
    { x with c := x.c.spoil (localOf r.pscr + (x.r.rank - it.mp.teamBase) * r.pscrLen) need }
  | none => x

/-- The block sets of a work item: columns of tiles, one list for each sub-block (R152). -/
def subBlocks (bn bn' c0 hi : Nat) : List (List Nat) :=
  (List.range (ceilDiv (min bn (hi - c0)) (max 1 bn'))).map (fun s =>
    (span (c0 + s * bn') (min bn' (min (c0 + bn) hi - (c0 + s * bn')))))

/-- The points of a sub-block up to its finished accumulations: opened, then its grains. -/
def Item.accumulate (it : Item) (rows q : Nat) (cols : List Nat) : List (X → Res X) :=
  (fun (x : X) => .ok (x.openTiles it q cols)) :: it.grainPoints rows q cols

/-- The points of a block whose recipe has no row statistic and no chain; `seen` block sets came before it. -/
def Item.blockPoints (it : Item) (rows lane q seen : Nat) (sets : List (List Nat)) : List (X → Res X) :=
  sets.zipIdx.flatMap (fun s =>
    it.accumulate rows q s.1 ++
      (if 1 < it.mp.ks then it.exchange lane q (seen + s.2 + 1) (it.tiles q s.1)
       else (it.tiles q s.1).map (fun t (x : X) => x.storeTile it t)))

/-- The points of a whole block row (R174, R178 to R180). -/
def Item.rowPoints (it : Item) (rows : Nat) (rc : Recipe) (sets : List (List Nat)) : List (X → Res X) :=
  let subs := fun (after : Nat × Nat × Nat × Nat → List (X → Res X)) => sets.flatMap (fun cols =>
    it.accumulate rows 0 cols ++ (it.tiles 0 cols).flatMap (fun t => (fun (x : X) => x.takeTile it rc t) :: after t))
  let stat := if rc.cut.2.1.isSome then it.tis.zipIdx.map (fun t (x : X) => x.finishRow it rc t.2 t.1) else []
  let spoil := if it.strat = 2 then [fun (x : X) => .ok (x.spoilScratch it)] else []
  match it.chain with
  | none => subs (fun _ => []) ++ stat ++ spoil
  | some (c, y) =>
    let cols2 := List.range (ceilDiv y.e0 32)
    if it.strat = 3 then
      (fun (x : X) => .ok (x.openTiles2 it c y cols2)) ::
        subs (fun t => if t.2.2.2 % 32 = 31 ∨ t.2.2.2 + 1 = it.p.nb then
          [fun (x : X) => x.runGrain it rc c cols2 t.2.1 t.2.2.1 (t.2.2.2 / 32)] else []) ++
        it.tis.zipIdx.map (fun t (x : X) => x.runFinish it rc c y cols2 t.2 t.1)
    else subs (fun _ => []) ++ stat ++ it.points2 rc c y ++ spoil

/-- A product as the member at `rank` of a team runs it: block rows of an entry by D's descriptor, number of the product's first work
item (R148, R174), and the block sets that came before it. Answers its points and the block sets up to its end. -/
def Prod3.points (p : Prod3) (mp : MacroP) (rc : Option Recipe) (rank rows base seen : Nat) : List (X → Res X) × Nat :=
  let whole := (rc.map Recipe.rows).getD false
  let nbk := if whole then 1 else ceilDiv p.nb mp.bn
  let q := mp.part rank
  let nl := mp.team / mp.ks
  ((List.range (ceilDiv p.mb mp.bm * nbk)).filter (fun wi => (base + wi) % nl = mp.lane rank)).foldl
    (fun (s : List (X → Res X) × Nat) wi =>
      match fitOf mp p rc with
      | .error (code, foot, win) =>
        (s.1 ++ [fun (x : X) => x.fault code 0 (leBytes 8 (base + wi) ++ leBytes 4 foot ++ leBytes 4 win)], s.2 + 1)
      | .ok (bn, bn2, strat) =>
        let br := wi / nbk
        let c0 := wi % nbk * mp.bn
        let tis := (span (br * mp.bm) mp.bm).filter (· < p.mb)
        let it : Item := { mp := mp, p := p, rc := rc, num := base + wi, br := br, bn := bn, bn2 := bn2, strat := strat,
                           tis := tis, band := p.bandRows mp.bm tis }
        let sets := if whole then subBlocks p.nb bn 0 p.nb else subBlocks mp.bn bn c0 p.nb
        let start := fun (x : X) => do
          x.need (mp.ks == 1 || partCount (ceilDiv p.k 1024) mp.ks q ≤ mp.recper) 0x0304
          (← (x.itemStats (narrowed mp p rc) rc bn strat).arrivals it rows none).loadBand it
        match rc, whole with
        | some r, true => (s.1 ++ start :: it.rowPoints rows r sets, s.2 + sets.length)
        | _, _ => (s.1 ++ start :: it.blockPoints rows (mp.lane rank) q s.2 sets, s.2 + sets.length)) ([], seen)

/-- What a macro leaves in its windows is undefined, and no accumulation stays open there (log 19, DESIGN CHOICE). -/
def X.spoilWindows (x : X) (ospBase ospLen acmBase acmN : Nat) : X :=
  let s := x.c.seq
  { x with
    c := { x.c with seq := s + 1 }
    tm := { x.tm with
      osp := x.tm.osp.spoil ospBase ospLen s
      acm := x.tm.acm.spoil (4096 * acmBase) (4096 * acmN) s
      accs := dropAccs x.tm.accs acmBase (acmBase + acmN - 1) } }

/-- The end of a macro. (log 19, DESIGN CHOICE) -/
def X.closeMacro (x : X) (mp : MacroP) : X := x.spoilWindows mp.ospBase mp.ospLen mp.acmBase mp.acmN

/-! ### The macros -/

/-- A member whose rank lies outside its macro's team is refused (R154). -/
def X.inTeam (x : X) (base team : Nat) : Res Unit := x.check (base ≤ x.r.rank && x.r.rank < base + team) 0x0308

/-- The parameter block of a macro read and checked (R144, R146). (log 70, DEDUCED) -/
def X.macroBlock (x : X) (i : Ins) (m : Nat) : Res (MacroP × X) := do
  x.check x.cx.ladle 0x0302
  let addr := x.s i.op4
  x.check (addr % 64 == 0) 0x0306 4
  let (b, x1) ← x.load addr 128 4
  x1.check (macroOk b m x.r.acmAlloc i.rcpen) 0x0306 4
  return (macroOf b, x1)

/-- Uses of a macro's descriptors. -/
def matUse : Use := { fmt := matFmt, comp := true }

/-- The accumulation of a product; CHAIN with a class other than 64 faults (R147). -/
def X.prodKind (x : X) (a b : Td) (chain : Bool) : Res AccKind := do
  x.check (!chain || classOf a.fmt b.fmt == .c64) 0x0306
  return kindOf (classOf a.fmt b.fmt) (a.scaled || b.scaled) chain

/-- The recipe of a macro, checked against the product (R164, R169, R179, R180). -/
def X.macroRecipe (x : X) (i : Ins) (pl : Place) (mp : MacroP) (entries : Option Nat) (m n : Nat) (d : Td) :
    Res (Option Recipe × X) :=
  if i.rcpen then do
    let (rc, x1) ← x.recipeAt pl i.recipe mp.rcpparam mp.team (mp.ks == 1) (32 < n)
    rc.fits x1 entries m n d []
    match rc.chainOf with
    | none => return (some rc, x1)
    | some (bn2, c, y) =>
      x1.check (1 ≤ d.fmt && d.fmt ≤ 5 && !d.scaled) 0x0104
      x1.check (classOf d.fmt c.fmt != .c64) 0x0104
      let smaxNext := rc.pre.any (fun s => match s with | .smax _ => true | _ => false)
      rc.need x1 (rc.first + rc.pre.length) (rc.stageround || !smaxNext || ceilDiv y.e0 32 ≤ bn2) 0
      return (some rc, x1)
  else .ok (none, x)

/-- The descriptors of GEMM and BGEMM. -/
def gemmChk (x : X) (i : Ins) : Res (Td × Td × Td) := do
  let d ← x.dreg i.op1 { dest := true }
  let ta ← x.dreg i.op2 matUse
  let tb ← x.dreg i.op3 matUse
  return (d, ta, tb)

/-- What a macro is to do, once its operands are checked: its block, its recipe, and its product, for BGEMM the largest one. -/
structure MacroPlan where
  mp : MacroP
  rc : Option Recipe
  p : Prod3

/-- GEMM or BGEMM, `m` of R146, with its operands checked (R146, R147, R169). (log 70, DEDUCED) -/
def X.gemmPlan (x : X) (i : Ins) (m : Nat) (pl : Place) (t : Td × Td × Td) : Res (MacroPlan × X) := do
  let (d, ta, tb) := t
  let (mp, x1) ← x.macroBlock i m
  let k ← x1.prodKind ta tb mp.chain
  x1.check (ta.rows == d.rows && ta.e0 == (if mp.btrans then tb.e0 else tb.rows) &&
    (if mp.btrans then tb.rows else tb.e0) == d.e0) 0x0307
  let (rc, x2) ← x1.macroRecipe i pl mp (if m = 3 then some mp.nentry else none) d.rows d.e0 d
  return ({ mp := mp, rc := rc, p := { entry := none, a := ta, b := tb, d := d, m := d.rows, n := d.e0, k := ta.e0, btrans := mp.btrans,
                                       conv := none, kind := k, sat := d.sat && k == .int, rdnz := d.rmode == 3 } }, x2)

/-- A planned product carried out by its team. -/
def X.runPlan (x : X) (q : MacroPlan) : Res X := do
  x.inTeam q.mp.teamBase q.mp.team
  let y ← x.points 0 (q.p.points q.mp q.rc x.r.rank (ceilDiv q.p.mb q.mp.bm) 0 0).1
  return y.closeMacro q.mp

/-- What GEMM does once its predicate condition holds. -/
def gemmRun (x : X) (i : Ins) (t : Td × Td × Td) : Res X := do
  let (q, y) ← x.gemmPlan i 1 .gemm t
  y.runPlan q

/-- GEMM (R137, R146 to R152). -/
def gemmFn (b : Body) (x : X) : Res X := x.guard b (gemmChk x) (gemmRun x)

/-- The descriptors of CONV. -/
def convChk (x : X) (i : Ins) : Res (Td × Td × Td) := do
  let d ← x.dreg i.op1 { dest := true }
  let ta ← x.dreg i.op2 { matUse with scaled := false }
  let tb ← x.dreg i.op3 matUse
  return (d, ta, tb)

/-- CONV with its operands checked (R82, R146, R147, R169). -/
def X.convPlan (x : X) (i : Ins) (t : Td × Td × Td) : Res (MacroPlan × X) := do
  let (d, ta, tb) := t
  let (mp, x1) ← x.macroBlock i 2
  let k ← x1.prodKind ta tb mp.chain
  x1.check (convWordOk mp.convw) 0x0310
  let w := convOf mp.convw
  let g : ConvGeo := { w := w, n := ta.e3, h := ta.e2, wd := ta.e1, c := ta.e0, cout := tb.e3, ho := w.hout ta.e2, wo := w.wout ta.e1 }
  x1.check (g.c % w.groups == 0 && g.cout % w.groups == 0 && 1 ≤ g.ho && 1 ≤ g.wo && tb.e0 == g.c / w.groups && tb.e1 == w.kw &&
    tb.e2 == w.kh && d.e0 == g.cout && d.e1 == g.wo && d.e2 == g.ho && d.e3 == g.n) 0x0311
  let (rc, x2) ← x1.macroRecipe i .conv mp none d.rows d.e0 d
  return ({ mp := mp, rc := rc, p := { entry := none, a := ta, b := tb, d := d, m := d.rows, n := d.e0,
                                       k := w.kh * w.kw * (g.c / w.groups), btrans := false, conv := some g, kind := k,
                                       sat := d.sat && k == .int, rdnz := d.rmode == 3 } }, x2)

/-- What CONV does once its predicate condition holds. -/
def convRun (x : X) (i : Ins) (t : Td × Td × Td) : Res X := do
  let (q, y) ← x.convPlan i t
  y.runPlan q

/-- CONV (R82, R146 to R152). -/
def convFn (b : Body) (x : X) : Res X := x.guard b (convChk x) (convRun x)

/-- One pointer-list entry checked, as a product (R155, R156); the flag says SKIP. -/
def bgemmEntry (mp : MacroP) (ta tb d : Td) (k : AccKind) (e : Nat) (b : List Byte) : Option (Bool × Prod3) :=
  let mx := fld b 0x18 4
  let nx := fld b 0x1C 4
  let kx := fld b 0x20 4
  let al := fun (t : Td) (o : Nat) => fld b o 8 % elemBytes t.fmt == 0
  let sc := fun (t : Td) (o : Nat) => if t.scaled then fld b o 8 != 0 && fld b o 8 % 256 == 0 else fld b o 8 == 0
  if mx ≤ ta.rows ∧ nx ≤ d.e0 ∧ kx ≤ ta.e0 ∧ al ta 0 ∧ al tb 8 ∧ al d 0x10 ∧ sc ta 0x28 ∧ sc tb 0x30 ∧ fld b 0x24 4 < 2 ∧
      fld b 0x38 8 = 0 then
    let m := if mx = 0 then ta.rows else mx
    let n := if nx = 0 then d.e0 else nx
    let kk := if kx = 0 then ta.e0 else kx
    let view := fun (t : Td) (base r c : Nat) => { t with base := base, rowCap := some r, colCap := some c }
    some (bit (fld b 0x24 4) 0,
      { entry := some e
        a := { view ta (fld b 0 8) m kk with scale := fld b 0x28 8 }
        b := { (if mp.btrans then view tb (fld b 8 8) n kk else view tb (fld b 8 8) kk n) with scale := fld b 0x30 8 }
        d := { view d (fld b 0x10 8) m n with idx0 := e * d.rows * d.e0 }
        m := m, n := n, k := kk, btrans := mp.btrans, conv := none, kind := k, sat := d.sat && k == .int, rdnz := d.rmode == 3 })
  else none

/-- One entry of a BGEMM (R155, R169): read, checked, and its work items run. A recipe with a row statistic or a chain numbers
its block rows by D's descriptor (R174). -/
def X.bgemmStep (x : X) (mp : MacroP) (rc : Option Recipe) (ta tb d : Td) (k : AccKind) (e : Nat) (s : ListPos) : Res (ListPos × X) := do
  let rows := ceilDiv (ceilDiv d.rows 32) mp.bm
  let whole := (rc.map Recipe.rows).getD false
  let (bs, y) ← x.load (mp.list + 64 * e) 64
  match bgemmEntry mp ta tb d k e bs with
  | none => .error (.fault { code := 0x0305, ecc := some y.c.ecc } (some x))
  | some (skip, p) =>
    match (match rc with | some r => r.entryFits y mp.nentry e p.m p.n p.d | none => .ok ()) with
    | .error (.fault f _) => .error (.fault f (some x))
    | .error st => .error st
    | .ok () =>
      let base := if whole then e * rows else s.base
      let next := base + ceilDiv p.mb mp.bm * (if whole then 1 else ceilDiv p.nb mp.bn)
      if skip then return ({ s with base := next }, y)
      else
        let (ps, seen) := p.points mp rc x.r.rank rows base s.seen
        let z ← y.points s.points ps
        return ({ s with points := s.points + ps.length, seen := seen, base := next }, z)

/-- What BGEMM does once its predicate condition holds. -/
def bgemmRun (x : X) (i : Ins) (t : Td × Td × Td) : Res X := do
  let (q, x1) ← x.gemmPlan i 3 .bgemm t
  x1.inTeam q.mp.teamBase q.mp.team
  x1.check (x.readable q.mp.list (64 * q.mp.nentry)) 0x0305
  let y ← x1.entries q.mp.nentry (fun y e s => y.bgemmStep q.mp q.rc q.p.a q.p.b q.p.d q.p.kind e s)
  return y.closeMacro q.mp

/-- BGEMM (R155, R156). -/
def bgemmFn (b : Body) (x : X) : Res X := x.guard b (gemmChk x) (bgemmRun x)

end Sys2Proof.Machine
end

