-- ==== Sys2Proof/Machine/Attention.lean ====
section
/-!
DEFINITION. Attention and paged key-value memory (09_attention_and_kv_pages.md): ATTN, page tables and their publication,
walks, KVPUT, MSUM and BSORT. (log 22, DESIGN CHOICE; log 29, DEDUCED) -/
namespace Sys2Proof.Machine

/-! ### Page tables -/

/-- A page descriptor (Table 9.3). -/
structure Page where
  base : Nat
  scale : Nat
  fmt : Nat
  log2 : Nat
  valid : Bool
deriving DecidableEq, Repr

/-- The page a 64-bit descriptor names. -/
def pageOf (v : Nat) : Page := ⟨v / 2 ^ 24 % 2 ^ 40 * 256, bits v 16 8, bits v 12 4, bits v 8 4, bit v 0⟩

/-- Whether a page descriptor keeps Table 9.3. -/
def pageOk (v : Nat) : Bool :=
  bits v 1 7 == 0 && 1 ≤ bits v 12 4 && bits v 12 4 ≤ 8 && 4 ≤ bits v 8 4 && bits v 8 4 ≤ 12

/-- A copy of a table object as a walk reads it (Table 9.4). -/
structure Table where
  rowe : Nat
  rowb : Nat
  gen : Nat
  len : Nat
  pages : List Page
deriving DecidableEq, Repr

/-- The page that holds a position, and the row in it. -/
def findPage : List Page → Nat → Option (Page × Nat)
  | [], _ => none
  | p :: t, pos => if pos < 2 ^ p.log2 then some (p, pos) else findPage t (pos - 2 ^ p.log2)

/-- The issuing module's address of a local one. -/
def localAddr (a : Nat) : Nat := 0xFFFF * 2 ^ 48 + a

/-- Offset of copy `c` of the entries of an object with `cap` entries. -/
def entriesAt (obj cap c : Nat) : Nat := obj + 0x40 + c * 8 * cap

/-- The walk of this strand over an object, begun now if it is not in flight (R210 to R213): its copy. A walk that would
be the sixty-fifth of its die waits. -/
def X.walk (x : X) (obj : Nat) : Res (Nat × X) := do
  x.need (x.here obj) 0x0504
  let a := localOf obj
  match x.c.walks.find? (fun w => w.ctx == x.k && w.strand == x.i && w.obj == a) with
  | some w => return (w.copy, x)
  | none =>
    let (h, x1) ← x.load obj 64
    x1.need (obj % 4096 == 0 && fld h 0 2 == 1 && 4 ≤ fld h 2 1 && fld h 2 1 ≤ 16 && fld h 3 1 ≤ 1 && fld h 0x18 8 != 0) 0x0504
    if 64 ≤ (x1.c.walks.filter (fun w => w.die == x1.die)).length then .error (.hold (.walk obj) (some x1))
    else
      let copy := fld h 3 1
      return (copy, { x1 with c := { x1.c with
        walks := x1.c.walks ++ [⟨x1.die, x1.k, x1.i, a, copy⟩]
        live := x1.c.live.map (fun o => if o.addr = a ∧ ¬ o.users.contains x1.k then { o with users := o.users ++ [x1.k] } else o) } })

/-- The end of this strand's walks. -/
def X.endWalks (x : X) : X :=
  { x with c := { x.c with walks := x.c.walks.filter (fun w => !(w.ctx == x.k && w.strand == x.i)) } }

/-- A strand's progress set back to the start of the work item or run of `n` points that it is in, if none of its walks is in flight:
they ended when its context was resumed after a fault, and the work item sees one copy throughout (R212). -/
def X.rewind (x : X) (n : Nat) : X :=
  if x.c.walks.any (fun w => w.ctx == x.k && w.strand == x.i) then x
  else { x with r := { x.r with prg := BitVec.ofNat 64 (x.done / n * n) } }

/-- A copy of a table read by a walk. -/
def X.readTable (x : X) (obj copy : Nat) : Res (Table × X) := do
  let (h, x1) ← x.load obj 64
  let cap := 2 ^ fld h 2 1
  let n := fld h (8 + 4 * copy) 4
  x1.need (n ≤ cap) 0x0504
  let (es, x2) ← x1.load (entriesAt obj cap copy) (8 * n)
  return ({ rowe := fld h 4 2, rowb := fld h 6 2, gen := fld h 0x18 8, len := fld h (0x10 + 4 * copy) 4,
            pages := (wordsOf 8 n es).map pageOf }, x2)

/-- Elements `c` to `c + n − 1` of a position's row (R208); none where it is absent. -/
def X.pageRow (x : X) (t : Table) (pos c n : Nat) : Res (Option (Page × List Val) × X) :=
  if t.len ≤ pos then .ok (none, x) else
  match findPage t.pages pos with
  | none => .ok (none, x)
  | some (p, r) =>
    if ¬ p.valid then .ok (none, x) else do
    let (o, len) := rowBytes p.fmt c n
    let (bs, x1) ← x.load (localAddr (p.base + r * t.rowb + o)) len 0 true
    return (some (p, (codesIn p.fmt c n bs).map (elemVal p.fmt)), x1)

/-! ### Publication -/

/-- DETAIL of faults 0x0501. -/
def pubDetail (obj e : Nat) : List Byte := leBytes 8 obj ++ leBytes 4 e

/-- The first shadow entry that breaks R210: entries with their starting positions. -/
def badEntry (rd : Nat → Nat → Bool) (rowb : Nat) : List Nat → Nat → Nat → Option Nat
  | [], _, _ => none
  | v :: t, e, pos =>
    let p := pageOf v
    if pageOk v && (!p.valid || rd p.base (2 ^ p.log2 * rowb)) && pos % 2 ^ p.log2 == 0 then badEntry rd rowb t (e + 1) (pos + 2 ^ p.log2)
    else some e

/-- Starting positions of a copy's entries (R209). -/
def positions (vs : List Nat) : List Nat := (vs.foldl (fun (r : List Nat × Nat) v => (r.2 :: r.1, r.2 + 2 ^ (pageOf v).log2)) ([], 0)).1.reverse

/-- What PTPUB does once its checks pass. (log 57, DEDUCED) -/
def ptpubRun (x : X) (i : Ins) (_ : Unit) : Res X := do
  if x.r.acks ≠ 0 then .error (.hold .acks none)
  let obj := x.s i.op2
  let (h, x1) ← x.load obj 64 2
  let bad := fun {α : Type} (e : Nat) => (x1.fault 0x0501 2 (pubDetail obj e) : Res α)
  let ar := (areaOf (localOf obj)).1
  if ¬ (x.here obj ∧ obj % 4096 = 0 ∧ (ar = .hbm ∨ ar = .lp ∨ ar = .pantry) ∧ fld h 0 2 = 1 ∧ 4 ≤ fld h 2 1 ∧ fld h 2 1 ≤ 16 ∧
      fld h 3 1 ≤ 1 ∧ fld h 6 2 % 64 = 0 ∧ zeroAt h 0x20 32) then bad 0xFFFFFFFF
  let a := localOf obj
  let cap := 2 ^ fld h 2 1
  let sh := 1 - fld h 3 1
  let n := fld h (8 + 4 * sh) 4
  if cap < n then bad 0xFFFFFFFF
  x1.reach obj (0x40 + 24 * cap) true 2
  if x1.c.walks.any (fun w => w.obj == a && w.copy == sh) then x1.fault 0x0503 2
  let (es, x2) ← x1.load (entriesAt obj cap sh) (8 * n) 2
  let vs := wordsOf 8 n es
  match badEntry (fun pb len => x2.readable (localAddr pb) len) (fld h 6 2) vs 0 0 with
  | some e => bad e
  | none =>
    if (vs.map (fun v => 2 ^ (pageOf v).log2)).sum < fld h (0x10 + 4 * sh) 4 then bad 0xFFFFFFFF
    else if ¬ x2.c.live.any (fun o => o.addr == a) ∧ 4096 ≤ x2.c.live.length then bad 0xFFFFFFFE
    else
      let c1 := x2.c.store (a + 0x40 + 16 * cap + sh * 4 * cap) ((positions vs).flatMap (leBytes 4))
      let c2 := (c1.store (a + 0x18) (leBytes 8 (fld h 0x18 8 + 1))).store (a + 3) (leBytes 1 sh)
      let old := (c2.live.find? (fun o => o.addr == a)).getD ⟨a, []⟩
      let new : LiveObj := if old.users.contains x2.k then old else { old with users := old.users ++ [x2.k] }
      return { x2 with c := { c2 with live := c2.live.filter (fun o => o.addr != a) ++ [new] } }

/-- PTPUB (R210 to R212), a release (R103). -/
def ptpubFn (b : Body) (x : X) : Res X := x.guard b noChk (ptpubRun x)

/-! ### KVPUT -/

/-- Row `r` of a tensor written at a position of a table (R214). -/
def X.kvWrite (y : X) (t : Td) (tab : Table) (pos r : Nat) : Res X :=
  match findPage tab.pages pos with
  | none => y.fault 0x0506
  | some (p, row) => do
    let (vals, y1) ← y.rowVals t .col r 0 t.e0
    let els := (List.range vals.length).map (fun c =>
      convert p.fmt t.rmode t.sat (t.word r c) (.f (((vals.getD c (.i 0)).num).scale (127 - (p.scale : Int)))))
    let y2 := (List.range els.length).foldl (fun (z : X) c =>
      z.note ((els[c]?).map Prod.snd |>.getD Ev.none) { cause := 0, row := r, col := c }) y1
    y2.store (localAddr (p.base + row * tab.rowb)) (packRow p.fmt (els.map Prod.fst))

/-- Whether positions `pos` to `pos + n − 1` are present (R214). -/
def kvPresent (t : Table) (pos n : Nat) : Bool :=
  pos + n ≤ t.len && (span pos n).all (fun q =>
    match findPage t.pages q with
    | some (p, _) => p.valid
    | none => false)

/-- Checks of KVPUT. -/
def kvputChk (x : X) (i : Ins) : Res (Td × Td) := do
  let v ← x.dreg i.op1 {}
  let k ← x.dreg i.op2 {}
  return (k, v)

/-- What KVPUT does once its predicate condition holds (R214): both walks begin, everything is checked before any write, and the
rows of the keys, then of the values, are written one by one. -/
def kvputRun (x : X) (i : Ins) (q : Td × Td) : Res X := do
  let (tk, tv) := q
  let addr := x.s i.op4
  x.need (addr % 64 == 0) 0x0506 4
  let (blk, x1) ← x.load addr 32 4
  let pos := fld blk 0x10 4
  let ntok := fld blk 0x14 4
  let (ko, vo) := (fld blk 0 8, fld blk 8 8)
  x1.need (zeroAt blk 0x18 8 && tk.rows == ntok && tv.rows == ntok && tk.e0 == tv.e0) 0x0506
  let table := fun (o : Nat) (y : X) => do
    let (c, y1) ← y.walk o
    y1.readTable o c
  let check := fun (y : X) => do
    let (kt, y1) ← table ko y
    let (vt, y2) ← table vo y1
    y2.need (kt.gen != 0 && vt.gen != 0 && tk.e0 == kt.rowe && tv.e0 == vt.rowe) 0x0504
    y2.need (kvPresent kt pos ntok && kvPresent vt pos ntok) 0x0506
    return y2
  let rows := fun (o : Nat) (t : Td) => (List.range ntok).map (fun r (y : X) => do
    let (tab, y1) ← table o y
    y1.kvWrite t tab (pos + r) r)
  (x1.rewind (2 * ntok + 4)).points 0 ([fun y => do return (← y.walk ko).2, fun y => do return (← y.walk vo).2, check] ++ rows ko tk ++ rows vo tv ++
    [fun y => .ok y.endWalks])

/-- KVPUT (R214). -/
def kvputFn (b : Body) (x : X) : Res X := x.guard b (kvputChk x) (kvputRun x)

/-! ### Masks -/

/-- Whether a descriptor has the form of a bitmap or a summary (R215). -/
def maskForm (d : Nat) : Bool := descFault d {} true == 0 && (tdOf d).fmt == 12 && (tdOf d).rank == 2 && !(tdOf d).scaled

/-- Columns of the summary of a bitmap. -/
def sumCols (e0 : Nat) : Nat := ceilDiv (ceilDiv (8 * e0) 32) 4

/-- A mask: bitmap and summary descriptors, checked for a work item (R215). -/
def X.maskOf (x : X) (addr qlen len : Nat) : Res (Td × Td × X) := do
  let (bs, x1) ← x.load addr 128
  let db := fld bs 0 64
  let ds := fld bs 0x40 64
  let bm := tdOf db
  let sm := tdOf ds
  x1.need (addr % 64 == 0 && maskForm db && maskForm ds && sm.e1 == ceilDiv bm.e1 32 && sm.e0 == sumCols bm.e0) 0x0505
  x1.need (qlen ≤ bm.e1 && len ≤ 8 * bm.e0) 0x0505
  return (bm, sm, x1)

/-- The mask of a record, none where every present key is visible. -/
def X.maskAt (x : X) (addr qlen len : Nat) : Res (Option (Td × Td) × X) :=
  if addr = 0 then .ok (none, x) else do
    let (b, s, y) ← x.maskOf addr qlen len
    return (some (b, s), y)

/-- Summary codes of the key tiles of a query tile (R215): 2, all visible, without a mask; 0x0505 at the reserved code. -/
def X.maskCodes (x : X) (mask : Option (Td × Td)) (ti len : Nat) : Res (List Nat × X) :=
  match mask with
  | none => .ok (List.replicate (ceilDiv len 32) 2, x)
  | some (_, sm) => mapRes x (List.range (ceilDiv len 32)) (fun y tj => do
    let (cs, y1) ← y.rowCodes sm ti (tj / 4) 1
    let code := bits (cs.headD 0) (2 * (tj % 4)) 2
    y1.need (code != 3) 0x0505
    return (code, y1))

/-- Visibility to query `i` of the key positions of the tiles whose codes are given (R215). -/
def X.visible (x : X) (mask : Option (Td × Td)) (i : Nat) (codes : List Nat) : Res (List Bool × X) := do
  let (segs, x1) ← mapRes x codes.zipIdx (fun y t =>
    match t.1, mask with
    | 0, some (bm, _) => do
      let (es, y1) ← y.rowCodes bm i (4 * t.2) 4
      return ((List.range 32).map (fun k => bit (es.getD (k / 8) 0) (k % 8)), y1)
    | c, _ => return (List.replicate 32 (c == 2), y))
  return (segs.flatten, x1)

/-- The descriptors of MSUM. -/
def msumChk (x : X) (i : Ins) : Res (Td × Td) := do
  let s ← x.dreg i.op1 { dest := true }
  let m ← x.dreg i.op2 {}
  return (s, m)

/-- What MSUM does once its predicate condition holds: row by row of tiles. -/
def msumRun (x : X) (i : Ins) (q : Td × Td) : Res X := do
  let (s, m) := q
  need (maskForm (x.d i.op1) && maskForm (x.d i.op2) && s.e1 == ceilDiv m.e1 32 && s.e0 == sumCols m.e0) 0x0505
  x.points 0 ((List.range s.e1).map (fun ti (y : X) => do
    let (rows, y1) ← mapRes y (span (32 * ti) (min 32 (m.e1 - 32 * ti))) (fun z r => z.rowCodes m r 0 m.e0)
    let code := fun (tj : Nat) =>
      let bs := rows.flatMap (fun row => (row.drop (4 * tj)).take 4)
      if bs.isEmpty then 0 else if bs.all (· == 0) then 1 else if bs.all (· == 255) then 2 else 0
    y1.putCodes s ti 0 ((List.range s.e0).map (fun c =>
      (List.range 4).foldl (fun a k => a + code (4 * c + k) * 4 ^ k) 0))))

/-- MSUM (R216): the summary of a bitmap. -/
def msumFn (b : Body) (x : X) : Res X := x.guard b (msumChk x) (msumRun x)

/-! ### BSORT -/

/-- Bucket of a length (R217). -/
def bucketOf (b0 l : Nat) : Nat := ((List.range 7).find? (fun b => l ≤ 2 ^ (b0 + b))).getD 7

/-- Checks of BSORT. -/
def bsortChk (x : X) (i : Ins) : Res (Td × Td) := do
  let d ← x.dreg i.op1 { fmt := (· == 9), scaled := false, dest := true }
  let s ← x.dreg i.op2 { fmt := (· == 9), scaled := false }
  return (d, s)

/-- What BSORT does once its predicate condition holds. (log 83, DESIGN CHOICE) -/
def bsortRun (x : X) (i : Ins) (q : Td × Td) : Res X := do
  let (d, s) := q
  let b0 := x.s i.op4
  x.need (b0 ≤ 24 && d.rank == 1 && s.rank == 1 && s.e0 + 16 ≤ d.e0) 0x0507
  let (ls, x1) ← x.rowCodes s 0 0 s.e0
  x1.need (ls.all (· < 2 ^ 31)) 0x0507
  let lists := (List.range 8).map (fun k => (List.range ls.length).filter (fun j => bucketOf b0 (ls.getD j 0) = k))
  let counts := lists.map List.length
  let offs := (List.range 8).map (fun k => (counts.take k).sum)
  x1.putCodes d 0 0 (counts ++ offs ++ lists.flatten)

/-- BSORT (R217). -/
def bsortFn (b : Body) (x : X) : Res X := x.guard b (bsortChk x) (bsortRun x)

/-! ### ATTN -/

/-- The ATTN parameter block (Table 9.1). -/
structure AttnP where
  acmfit : Bool
  bm : Nat
  pfd : Nat
  pfmt : Nat
  prnd : Nat
  psat : Bool
  teamBase : Nat
  team : Nat
  ospBase : Nat
  ospLen : Nat
  acmBase : Nat
  acmN : Nat
  h : Nat
  hkv : Nat
  dh : Nat
  kvw : Nat
  tsc : Nat
  nseq : Nat
  seqlist : Nat
  rcpparam : Nat
deriving DecidableEq, Repr

def attnOf (b : List Byte) : AttnP :=
  { acmfit := bit (fld b 3 1) 0, bm := fld b 4 1, pfd := fld b 5 1, pfmt := fld b 6 1, prnd := fld b 7 1 % 8,
    psat := bit (fld b 7 1) 3, teamBase := fld b 8 2, team := fld b 0xA 2, ospBase := fld b 0xC 4, ospLen := fld b 0x10 4,
    acmBase := fld b 0x14 1, acmN := fld b 0x15 1, h := fld b 0x16 1, hkv := fld b 0x17 1, dh := fld b 0x18 2,
    kvw := fld b 0x1A 1, tsc := fld b 0x1C 4, nseq := fld b 0x20 4, seqlist := fld b 0x28 8, rcpparam := fld b 0x30 8 }

/-- The checks of an ATTN block (R202), in the order of its fields. -/
def X.attnBlockChk (x : X) (addr acmAlloc : Nat) (rcpen : Bool) (b : List Byte) : Res AttnP := do
  let p := attnOf b
  let isNum := match d32 p.tsc with | .fin _ m _ => m != 0 | _ => false
  x.check (p.prnd ≤ 4) 0x0103
  x.rcpNeed addr 0 [(fld b 0 2 = 1, 0), (fld b 2 1 = 4, 2), (fld b 3 1 < 2, 3), (1 ≤ p.bm && p.bm ≤ 8, 4), (p.pfd = 2 || p.pfd = 3, 5),
    (1 ≤ p.pfmt && p.pfmt ≤ 5, 6), (fld b 7 1 < 16 && p.prnd ≠ 4, 7), (p.teamBase ≤ 127, 8),
    (1 ≤ p.team && p.team ≤ 128 && p.teamBase + p.team ≤ 128, 0xA), (p.ospBase % 64 = 0 && p.ospBase < ospSize, 0xC),
    (p.ospLen % 64 = 0 && p.ospBase + p.ospLen ≤ ospSize, 0x10), (p.acmBase % 2 = 0, 0x14),
    (p.acmN % 2 = 0 && 2 ≤ p.acmN && p.acmN ≤ 128 && p.acmBase + p.acmN ≤ acmAlloc, 0x15), (1 ≤ p.h && p.h ≤ 128, 0x16),
    (1 ≤ p.hkv && p.hkv ≤ p.h && p.h % p.hkv = 0, 0x17), (32 ≤ p.dh && p.dh ≤ 256 && p.dh % 32 = 0, 0x18),
    ([4, 6, 8, 16, 32].contains p.kvw, 0x1A), (zeroAt b 0x1B 1, 0x1B), (isNum, 0x1C), (1 ≤ p.nseq && p.nseq ≤ 65536, 0x20),
    (zeroAt b 0x24 4, 0x24), (p.seqlist % 64 = 0, 0x28), (rcpen || p.rcpparam = 0, 0x30), (zeroAt b 0x38 72, 0x38)]
  return p

/-- ATTN's footprints (Table 9.5): slots and bytes for a block height. -/
def attnFoot (p : AttnP) (q : Td) (rf : Option RcpFoot) (len bm : Nat) : Nat × Nat :=
  let s2 := stackNeed 0 (ceilDiv len 1024) false
  let qp := bm * 32 * p.dh * fmtWidth q.fmt / 8 + (if q.scaled then bm * p.dh else 0)
  let stage := 1024 * p.dh * p.kvw / 8 + 1024
  (32 * bm + 2 + bm * (p.dh / 32) * 2 * (s2 + 1),
   qp + p.pfd * (2 * stage) + 2 * bm * 4096 * fmtWidth p.pfmt + bm * 256 * (s2 + 2) + (rf.map RcpFoot.osp).getD 0)

/-- Block heights tried in order (R218). -/
def heights : Nat → Nat → List Nat
  | 0, bm => [bm]
  | fuel + 1, bm => if 1 < bm then bm :: heights fuel (ceilDiv bm 2) else [bm]

/-- The fit decision of an ATTN work item (R218): the block height, or the fault code with the footprint and the window of its
DETAIL. -/
def attnFitOf (p : AttnP) (q : Td) (rf : Option RcpFoot) (len : Nat) : Except (Nat × Nat × Nat) Nat :=
  let foot := attnFoot p q rf len
  let hs := if p.acmfit then heights 4 p.bm else [p.bm]
  match hs.find? (fun bm => (foot bm).1 ≤ p.acmN && (foot bm).2 ≤ p.ospLen) with
  | some bm => .ok bm
  | none =>
    let f := foot (hs.getLastD p.bm)
    .error (if p.acmN < f.1 then (0x0301, f.1, p.acmN) else (0x0303, f.2, p.ospLen))

/-- A key of a query row: its scaled score with its events, and the elements of its value. -/
structure KeyLane where
  t : Ve
  v : List Val

/-- The lanes of a value beat for one column, by key; a key whose scaled score is −∞ contributes none. -/
def valueLanes (ks : List (Val × KeyLane)) (j bt : Nat) : List (Option (Val × Val)) :=
  ((ks.drop (32 * bt)).take 32).map (fun k => if k.2.t.1 = negInf32 then none else some (k.1, k.2.v.getD j (.i 0)))

/-- The value beats of a key grain for one column (R205 steps 2 and 3): the accumulator, the events, and the place in the grain of
the key whose lane made the first NaN. (log 22, DESIGN CHOICE) -/
def valueBeats (rdnz : Bool) (seq : Nat) (ks : List (Val × KeyLane)) (j : Nat) : Nat × Ev × Nat :=
  (List.range (ceilDiv ks.length 32)).foldl (fun (a : Nat × Ev × Nat) bt =>
    let ls := valueLanes ks j bt
    let q := beatElem .acc false rdnz a.1 (ls.filterMap id)
    (q.1, a.2.1.join q.2, if a.2.1.cause = 0 ∧ q.2.cause ≠ 0 then nanLane seq bt ls else a.2.2)) (AccKind.acc.negZero, Ev.none, 0xFFFF)

/-- One key grain of a query row (R205): its node, with the events of its parts recorded at the grain, and what its value beats gate
and skip (R79). `place` is where the row's first column of the head stands, `live` says which key tiles take beats. (log 22, DESIGN CHOICE) -/
def X.attnGrain (x : X) (p : AttnP) (rdnz : Bool) (place : NanInfo) (live : Nat → Bool) (g : Nat) (ks : List KeyLane) : RunNode × X :=
  let (m, l, es) := runScores (ks.map (fun k => k.t.quiet)) (fun _ v => roundNum (floatFmt p.pfmt) p.prnd p.psat 0 v) p.pfmt
  let lanes := (es.map (fun e => elemVal p.pfmt e.1)).zip ks
  let ys := (List.range p.dh).map (valueBeats rdnz x.c.seq lanes)
  let x1 := ks.zipIdx.foldl (fun (y : X) k => y.note k.1.t.2 { place with grain := g, koff := k.2 }) x
  let x2 := es.zipIdx.foldl (fun (y : X) e => y.note e.1.2 { place with grain := g, koff := e.2 }) x1
  let x3 := ys.zipIdx.foldl (fun (y : X) e => y.note e.1.2.1 { place with col := place.col + e.2, grain := g, koff := e.1.2.2 }) x2
  let beats := (List.range (ceilDiv ks.length 32)).filter (fun bt => live (32 * g + bt))
  let x4 := x3.countLanes ((List.range p.dh).flatMap (fun j => beats.map (fun bt => (valueLanes lanes j bt).filterMap id)))
  ({ m := m, l := l.quiet, y := ys.map (fun e => pureV e.1) }, x4.note l.2 { place with grain := g })

/-- Lists of at most 1,024 elements. -/
def grains1024 {α : Type} (l : List α) : List (List α) :=
  (List.range (ceilDiv l.length 1024)).map (fun g => (l.drop (1024 * g)).take 1024)

/-- One query row of a work item (R205): the stage input of each column. -/
def X.attnRow (x : X) (p : AttnP) (rdnz : Bool) (place : NanInfo) (live : Nat → Bool) (ks : List KeyLane) : List Num × X :=
  let (nodes, x1) := (grains1024 ks).zipIdx.foldl (fun (s : List RunNode × X) g =>
    let r := s.2.attnGrain p rdnz place live g.2 g.1
    (s.1 ++ [r.1], r.2)) ([], x)
  let nd := (treeFold (mergeNode .acc rdnz) nodes.length nodes).getD
    { m := negInf32, l := pureV 0, y := (List.range p.dh).map (fun _ => (0, Ev.none)) }
  let out := runOut .acc nd
  (out.map Prod.fst, out.zipIdx.foldl (fun (y : X) e =>
    y.note e.1.2 { place with col := place.col + e.2, grain := (ks.length - 1) / 1024 }) x1)

/-- The scaled score of a key (R205 steps 1 and 2). -/
def attnScore (p : AttnP) (rdnz : Bool) (q : List Val) (kp : Page × List Val) : Ve :=
  let a := grainPartial .acc false rdnz (q.zip kp.2)
  let t := rne fp32 (mulN 3 (scaled (accFmt.decode a.1) kp.1.scale) (d32 p.tsc))
  (t.1, a.2.join t.2)

/-- A key of a query row: −∞ where it is not visible or not present. The page tables, both of them, decide whether a key is
present (R204; log 29, DEDUCED). -/
def attnKey (p : AttnP) (rdnz : Bool) (q : List Val) (kv : Option (Page × List Val) × Option (Page × List Val)) (vis : Bool) : KeyLane :=
  match kv, vis with
  | (some kp, some vp), true => ⟨attnScore p rdnz q kp, vp.2.map (fun v => Val.f (scaled v.num vp.1.scale))⟩
  | _, _ => ⟨pureV negInf32, []⟩

/-- A sequence record (Table 9.2). -/
structure SeqRec where
  qrow : Nat
  qlen : Nat
  ktab : Nat
  vtab : Nat
  mask : Nat
deriving DecidableEq, Repr

/-- What the score beats of a query row over the keys of its live tiles gate and skip (R79): DH / 32 beats of each key; a key that is
absent gives no lane. -/
def X.countScores (x : X) (p : AttnP) (q : List Val) (keys : List (Option (Page × List Val))) : X :=
  x.countLanes (keys.flatMap (fun k => (List.range (p.dh / 32)).map (fun b =>
    match k with
    | some kp => ((q.zip kp.2).drop (32 * b)).take 32
    | none => [])))

/-- The tables of a record as the walks of a work item read them. -/
def X.attnTables (x : X) (sr : SeqRec) : Res (Table × Table × X) := do
  let (ck, x1) ← x.walk sr.ktab
  let (cv, x2) ← x1.walk sr.vtab
  let (kt, x3) ← x2.readTable sr.ktab ck
  let (vt, x4) ← x3.readTable sr.vtab cv
  return (kt, vt, x4)

/-- The checks of a work item before its first beat (R215, R218): its tables, its fit, and its mask, whose codes are all read. -/
def X.attnFit (x : X) (p : AttnP) (q o : Td) (rc : Option Recipe) (sr : SeqRec) (i0 wnum : Nat) : Res X := do
  let (kt, vt, x1) ← x.attnTables sr
  x1.need (kt.gen != 0 && vt.gen != 0 && kt.len == vt.len && kt.rowe == p.hkv * p.dh && vt.rowe == p.hkv * p.dh &&
    (kt.pages ++ vt.pages).all (fun pg => !pg.valid || fmtWidth pg.fmt ≤ p.kvw)) 0x0504
  match attnFitOf p q (rc.map (fun r => r.foot o)) kt.len with
  | .error (code, need, win) => x1.fault code 0 (leBytes 8 wnum ++ leBytes 4 need ++ leBytes 4 win)
  | .ok bm => do
    let (mask, x2) ← (x1.itemStats (bm < p.bm) rc bm 0).maskAt sr.mask sr.qlen kt.len
    foldRes x2 (List.range p.bm) (fun y ti => do return (← y.maskCodes mask (i0 / 32 + ti) kt.len).2)

/-- One query tile of a work item (R204, R205, R219): each live key tile takes DH / 32 beats for its score tile, and gives one beat to
every output tile. 32 query rows from `i0` of a record for head `h`, rows beyond QLEN computed from
zero queries and not written; the rows of keys and values that the summary masks are not requested (R213). -/
def X.attnTile (x : X) (p : AttnP) (q o : Td) (rc : Option Recipe) (sr : SeqRec) (h i0 : Nat) : Res X := do
  let (kt, vt, x1) ← x.attnTables sr
  let (mask, x2) ← x1.maskAt sr.mask sr.qlen kt.len
  let (codes, x3) ← x2.maskCodes mask (i0 / 32) kt.len
  let g := h / (p.h / p.hkv)
  let row := fun (t : Table) (y : X) (k : Nat) => if codes.getD (k / 32) 1 = 1 then .ok (none, y) else y.pageRow t k (g * p.dh) p.dh
  let (keys, x4) ← mapRes x3 (List.range kt.len) (row kt)
  let (vals, x5) ← mapRes x4 (List.range kt.len) (row vt)
  let live := fun (tj : Nat) => codes.getD tj 1 != 1 && ((keys.drop (32 * tj)).take 32).any Option.isSome
  let tiles := (List.range codes.length).filter live
  let (rows, x6) ← mapRes x5 (span i0 32) (fun y i => do
    let (qs, y1) ← if i < sr.qlen then y.rowVals q .col (sr.qrow + i) (h * p.dh) p.dh
      else .ok (List.replicate p.dh (elemVal q.fmt 0), y)
    let (vis, y2) ← y1.visible mask i codes
    let ks := ((keys.zip vals).zip vis).map (fun k => attnKey p (o.rmode == 3) qs k.1 k.2)
    let y3 := y2.countScores p qs (tiles.flatMap (fun tj => (keys.drop (32 * tj)).take 32))
    return y3.attnRow p (o.rmode == 3) { cause := 0, row := sr.qrow + i, col := h * p.dh } live ks)
  { x6 with c := x6.c.countBeats x6.me (tiles.length * (p.dh / 32 + p.dh / 32)) 0 0 }.finishRect rc none o (sr.qrow + i0) (h * p.dh) (valRows (rows.take (sr.qlen - i0)))

/-- The points of one work item of ATTN, of head `h` from query `i0` on: its walks begin, its checks, its query tiles, the end of the
walks (R204, R212). -/
def attnPoints (p : AttnP) (q o : Td) (rc : Option Recipe) (sr : SeqRec) (h i0 wnum : Nat) : List (X → Res X) :=
  [fun x => do return (← x.walk sr.ktab).2, fun x => do return (← x.walk sr.vtab).2, fun x => x.attnFit p q o rc sr i0 wnum] ++
    (List.range p.bm).map (fun ti (x : X) => x.attnTile p q o rc sr h (i0 + 32 * ti)) ++ [fun x => .ok x.endWalks]

/-- One entry of the index list: its record checked, then the work items of it that fall to this member (R203, R204). (log 56, DEDUCED) -/
def X.attnSeq (x : X) (p : AttnP) (q o li : Td) (rc : Option Recipe) (pos : Nat) (st : ListPos) : Res (ListPos × X) := do
  let (ix, x1) ← x.rowCodes li 0 pos 1
  let idx := ix.headD 0
  let stop := fun {α : Type} (y : X) => (.error (.fault { code := 0x0508, ecc := some y.c.ecc } (some x)) : Res α)
  if p.nseq ≤ idx ∨ ¬ x1.readable (p.seqlist + 32 * idx) 32 then stop x1
  let (b, x2) ← x1.load (p.seqlist + 32 * idx) 32
  let sr : SeqRec := ⟨fld b 0 4, fld b 4 4, fld b 8 8, fld b 0x10 8, fld b 0x18 8⟩
  if ¬ (sr.qlen ≤ 2 ^ 28 ∧ sr.qrow + sr.qlen ≤ min q.rows o.rows ∧ sr.mask % 64 = 0) then stop x2
  let nq := ceilDiv sr.qlen (32 * p.bm)
  let me := x.r.rank - p.teamBase
  let ps := ((List.range (p.h * nq)).filter (fun w => (st.base + w) % p.team = me)).flatMap (fun w =>
    attnPoints p q o rc sr (w / nq) (w % nq * (32 * p.bm)) (st.base + w))
  let y ← x2.points st.points ps
  return ({ st with base := st.base + p.h * nq, points := st.points + ps.length }, y)

/-- The descriptors of ATTN (R201). -/
def attnChk (x : X) (i : Ins) : Res (Td × Td × Td) := do
  let fm := fun f => 1 ≤ f && f ≤ 5
  let o ← x.dreg i.op1 { fmt := fm, dest := true }
  let q ← x.dreg i.op2 { fmt := fm }
  let li ← x.dreg i.op3 { fmt := (· == 9), scaled := false }
  return (o, q, li)

/-- The parameter block of ATTN read and checked (R144, R202). -/
def X.attnBlock (x : X) (i : Ins) : Res (AttnP × X) := do
  x.check x.cx.ladle 0x0302
  let addr := x.s i.op4
  if addr % 64 ≠ 0 then x.rcpBad addr 0 0
  let (blk, x1) ← x.load addr 128 4
  let p ← x1.attnBlockChk addr x.r.acmAlloc i.rcpen blk
  return (p, x1)

/-- ATTN with its operands checked (R201, R202, R169). -/
def X.attnPlan (x : X) (i : Ins) (t : Td × Td × Td) : Res ((AttnP × Option Recipe) × X) := do
  let (o, q, li) := t
  let (p, x1) ← x.attnBlock i
  x1.check (q.e0 == p.h * p.dh && o.e0 == p.h * p.dh) 0x0307
  x1.check (li.rank == 1 && 1 ≤ li.e0 && li.e0 ≤ 65536) 0x0508
  let (rc, x2) ← if i.rcpen then do
      let (rc, y) ← x1.recipeAt .attn i.recipe p.rcpparam p.team true (32 < o.e0)
      rc.fits y none o.rows o.e0 o []
      pure (some rc, y)
    else .ok (none, x1)
  return ((p, rc), x2)

/-- What ATTN does once its predicate condition holds. (log 56, DEDUCED) -/
def attnRun (x : X) (i : Ins) (t : Td × Td × Td) : Res X := do
  let (o, q, li) := t
  let ((p, rc), x2) ← x.attnPlan i t
  x2.inTeam p.teamBase p.team
  let y ← (x2.rewind (p.bm + 4)).entries li.e0 (fun y pos s => y.attnSeq p q o li rc pos s)
  return y.spoilWindows p.ospBase p.ospLen p.acmBase p.acmN

/-- ATTN (R201 to R206, R218). -/
def attnFn (b : Body) (x : X) : Res X := x.guard b (attnChk x) (attnRun x)

end Sys2Proof.Machine
end

