-- ==== Sys2Proof/Machine/Draws.lean ====
section
/-!
DEFINITION. Random numbers and sampling (10_tinder_and_sampling.md): TNDW, TNDU, TNDN, TFILL, SAMPLE, and the samplers.
-/
namespace Sys2Proof.Machine

/-- The 64 words of a TNDx instruction (R223, R226). -/
def tndWords (x : X) (i : Ins) : List Nat :=
  let s3 := x.s i.op3
  (List.range 64).map (fun k => tinderWord (x.s i.op2) (s3 % 2 ^ 32) (x.s i.op4 + k) (s3 / 2 ^ 32) i.func)

def tndwFn (b : Body) (x : X) : Res X := x.guard b noChk fun i _ => .ok (x.setV i.op1 (tndWords x i))
def tnduFn (b : Body) (x : X) : Res X := x.guard b noChk fun i _ => .ok (x.setV i.op1 ((tndWords x i).map uniform32))
def tndnFn (b : Body) (x : X) : Res X :=
  x.guard b noChk fun i _ => .ok (x.putLanes i.op1 (fun _ => true) ((tndWords x i).map normal32))

/-- The element of a TFILL (R227). -/
def tfillElem (t : Td) (func r c : Nat) : Nat × Ev :=
  let w := tinderWord t.seed t.stream (t.logical r c) t.draw 1
  if func = 0 then (w % 2 ^ fmtWidth t.fmt, Ev.none)
  else
    let v := if func = 1 then (uniform32 w, Ev.none) else normal32 w
    if t.fmt = 1 then v
    else
      let q := t.conv r c (.f (d32 v.1))
      (q.1, v.2.join q.2)

/-- Checks of TFILL. -/
def tfillChk (x : X) (i : Ins) : Res Td := x.dreg i.op1 { fmt := fun f => if i.func = 0 then 9 ≤ f else true, scaled := false, dest := true }

/-- The elements of row `r` of a TFILL from column `c`, `m` of them, written. -/
def tfillPart (x : X) (func : Nat) (t : Td) (r c m : Nat) : Res X := do
  let els := (span c m).map (tfillElem t func r)
  let y ← (x.rewritesPart (t.rectRanges r c 1 m) (t.rectRanges 0 0 t.rows t.e0)).putCodes t r c (els.map Prod.fst)
  return els.zipIdx.foldl (fun (u : X) e => u.note e.1.2 { cause := 0, row := r, col := c + e.2 }) y

/-- What TFILL does once its checks pass: 1,024 elements of a row at a time, the next logical index in prg. -/
def tfillRun (x : X) (i : Ins) (t : Td) : Res X :=
  foldRes x (List.range t.rows) (fun y r =>
    foldRes y (List.range (ceilDiv t.e0 1024)) (fun z b =>
      let next := min (1024 * (b + 1)) t.e0
      if r * t.e0 + next ≤ z.done then .ok z else do
        let w ← unitOf z (tfillPart z i.func t r (1024 * b) (next - 1024 * b))
        return w.setDone (r * t.e0 + next)))

/-- TFILL (R227): its stores are not counted. -/
def tfillFn (b : Body) (x : X) : Res X := x.guard b (tfillChk x) (tfillRun x)

/-! ### Sampling -/

/-- The SAMPLE parameter block (Table 10.4). -/
structure SampP where
  argmax : Bool
  topk : Nat
  scale : Nat
  topp : Nat
  seed : Nat
  stream : Nat
  draw : Nat
  index : Nat
deriving DecidableEq, Repr

def sampOf (b : List Byte) : SampP :=
  { argmax := bit (fld b 2 1) 0, topk := fld b 4 2, scale := fld b 8 4, topp := fld b 0xC 4, seed := fld b 0x10 8,
    stream := fld b 0x18 4, draw := fld b 0x1C 4, index := fld b 0x20 8 }

/-- Whether an FP32 code is finite and above 0. -/
def posNum (c : Nat) : Bool := match d32 c with | .fin n m _ => !n && m != 0 | _ => false

/-- Checks of Table 10.4. -/
def X.sampChk (x : X) (addr : Nat) (b : List Byte) : Res SampP := do
  let p := sampOf b
  x.rcpNeed addr 0 [(fld b 0 2 = 1, 0), (fld b 2 1 < 2, 2), (zeroAt b 3 1, 3), (p.topk ≤ 1024, 4), (zeroAt b 6 2, 6), (posNum p.scale, 8),
    (posNum p.topp && !dyLt (d32 one32).dy (d32 p.topp).dy, 0xC), (zeroAt b 0x28 24, 0x28)]
  return p

/-- Insertion by falling key, ties behind. -/
def rankInsert (k : Int × Nat) : List (Int × Nat) → List (Int × Nat)
  | [] => [k]
  | h :: t => if h.1 < k.1 then k :: h :: t else h :: rankInsert k t

/-- Indices in rank order: descending totalOrder, ties in ascending index (R229, R52). -/
def rankOrder (t : List Nat) : List Nat :=
  (((List.range t.length).map (fun c => (totalKey32 (t.getD c 0), c))).foldl (fun l k => rankInsert k l) []).map Prod.snd

/-- What a row gives before any draw: its result, or the kept indices in ascending order with their e; with the flags of
every operation (R53, R229). -/
inductive PreDraw where
  | done (result : Nat)
  | keep (ks : List Nat) (e : List Ve) (flags : FpFlags)
deriving DecidableEq, Repr

/-- Bit 62 and an index of all ones: no index could be drawn (R228). -/
def noDraw : Nat := 2 ^ 62 + 0xFFFFFFFF

/-- The cumulative cut of R229 over the candidates' e in rank order: how many are kept, and its flags. -/
def toppCut (topp : Nat) (ce : List Ve) : Nat × FpFlags :=
  if topp = one32 then (ce.length, 0) else
  let l := ce.foldl (op2 fadd) (pureV 0)
  let lim := op2 fmul (pureV topp) l
  let r := ce.foldl (fun (s : Ve × Nat) v => if cmpN (d32 s.1.1) (d32 lim.1) = some .lt then (op2 fadd s.1 v, s.2 + 1) else s) (pureV 0, 0)
  (r.2, lim.2.flags ||| r.1.2.flags)

/-- R229 up to its draw. -/
def preDraw (p : SampP) (t : List Ve) : PreDraw :=
  if t.any (fun v => (d32 v.1).isNan) then .done noDraw else
  let cand := (rankOrder (t.map Prod.fst)).take (if p.topk = 0 then t.length else min p.topk t.length)
  let at' := fun (c : Nat) => t.getD c (pureV 0)
  let m := at' (cand.headD 0)
  if m.1 = negInf32 then .done noDraw
  else if m.1 = 0x7F800000 then .done (((List.range t.length).find? (fun c => cand.contains c && (at' c).1 == 0x7F800000)).getD 0)
  else if p.argmax then .done (cand.headD 0)
  else
    let e := (List.range t.length).map (fun c => if cand.contains c then op1 vexp2 (op2 fsub (at' c) m) else pureV 0)
    let jn := toppCut p.topp (cand.map (fun c => e.getD c (pureV 0)))
    let kept := cand.take jn.1
    .keep ((List.range t.length).filter kept.contains) e (e.foldl (fun f v => f ||| v.2.flags) jn.2)

/-- The draw of normal mode (R229) with its flags. -/
def normalDraw (p : SampP) (ks : List Nat) (e : List Ve) : Nat × FpFlags :=
  let u := uniform32 (tinderWord p.seed p.stream p.index p.draw 0)
  let cums := (ks.foldl (fun (r : Ve × List (Nat × Nat)) c =>
    let q := op2 fadd r.1 (e.getD c (pureV 0))
    (q, (c, q.1) :: r.2)) (pureV 0, []))
  let r := op2 fmul (pureV u) cums.1
  (match cums.2.reverse.find? (fun c => cmpN (d32 c.2) (d32 r.1) = some .gt) with
   | some c => c.1
   | none => (ks.reverse.find? (fun c => cmpN (d32 (e.getD c (pureV 0)).1) (d32 0) = some .gt)).getD 0, r.2.flags)

/-- The draw of Gumbel mode (R230) with its flags. (log 58, DEDUCED) -/
def gumbelDraw (p : SampP) (ks : List Nat) (t : List Ve) : Nat × FpFlags :=
  let z := ks.map (fun c =>
    let u := uniform32 (tinderWord p.seed p.stream p.index (p.draw + 1 + c / 4) (c % 4))
    let inner := op1 vlog2 (pureV u)
    op2 fsub (t.getD c (pureV 0)) (op1 vlog2 (inner.1 ^^^ 2 ^ 31, inner.2)))
  (ks.getD ((rankOrder (z.map Prod.fst)).headD 0) 0, z.foldl (fun f v => f ||| v.2.flags) 0)

/-- The sampler that serves a strand of a partition on a die (R231): the die's, or the bound one of the lowest die. -/
def Core.samplerFor (c : Core) (part die : Nat) : Option Nat :=
  let mine := fun (d : Nat) => c.owner 7 d == part
  if mine die then some die else (List.range 8).find? mine

/-- The sampler that serves a strand. -/
def X.sampler (x : X) : Option Nat := x.c.samplerFor x.cx.part x.die

/-- One sampler changed. -/
def Core.modSampler (c : Core) (d : Nat) (f : Sampler → Sampler) : Core :=
  { c with samplers := c.samplers.setIfInBounds d (f (c.samplers.toList.getD d {})) }

/-- The descriptor of SAMPLE. -/
def sampleChk (x : X) (i : Ins) : Res Td := x.dreg i.op2 { fmt := fun f => 1 ≤ f && f ≤ 5, scaled := false }

/-- A SAMPLE completed in Gumbel mode, counted at a sampler (Table 10.5). -/
def Core.countGumbel (c : Core) (d : Nat) : Core :=
  c.modSampler d (fun s => { s with gcount := satInc s.gcount 0xFFFFFFFF })

/-- prg of a SAMPLE whose request has begun (R231): its mode. 0 is a request that has not begun. -/
def normalPrg : Nat := 1
def gumbelPrg : Nat := 2

/-- A SAMPLE's request begun or taken up again (R231): its mode, held in prg from then on; one begun in normal mode whose
sampler is no longer READY restarts in Gumbel mode. (log 58, DEDUCED) -/
def X.sampleBegin (x : X) (d : Nat) : X :=
  if x.done = gumbelPrg then x
  else if (x.c.samplers.toList.getD d {}).state = 0 then { x with r := { x.r with prg := BitVec.ofNat 64 normalPrg } }
  else { x with r := { x.r with prg := BitVec.ofNat 64 gumbelPrg } }

/-- The row of a SAMPLE read, and its result drawn in the mode of prg (R229, R230). (log 58, DEDUCED) -/
def X.sampleDraw (x : X) (i : Ins) (t : Td) (p : SampP) : Res X := do
  let normal := x.done == normalPrg
  let (vals, x1) ← x.rowVals t .col 0 0 t.e0
  let ts := vals.map (fun v => rne fp32 (mulN 3 v.num (d32 p.scale)))
  let x2 := x1.note ⟨ts.foldl (fun f v => f ||| v.2.flags) 0, 0⟩
  match preDraw p ts with
  | .done r => return x2.setS i.op1 r
  | .keep ks e fl =>
    let q := if normal then normalDraw p ks e else gumbelDraw p ks ts
    return (x2.note ⟨fl ||| q.2, 0⟩).setS i.op1 (if normal then q.1 else 2 ^ 63 + q.1)

/-- What SAMPLE does once its predicate condition holds. Its mode is fixed when its request begins; a wait for the row of
another module leaves the request begun. No other state of it is needed: the row is read again when the wait has ended (log 58, DEDUCED;
log 83, DESIGN CHOICE). -/
def sampleRun (x : X) (i : Ins) (t : Td) : Res X := do
  match x.sampler with
  | none => x.refuse 0x0202
  | some d =>
    x.check (t.rank == 1 && 1 ≤ t.e0 && t.e0 ≤ 262144) 0x0307 t.operand
    let addr := x.s i.op4
    let (blk, x1) ← x.load addr 64 4
    let p ← x1.sampChk addr blk
    let y := x1.sampleBegin d
    let z ← unitOf y (y.sampleDraw i t p)
    return if y.done = gumbelPrg then { z with c := z.c.countGumbel d } else z

/-- Strands with a normal-mode SAMPLE in progress that sampler `d` serves: (context, index). -/
def Core.sampling (c : Core) (d : Nat) : List (Nat × Nat) :=
  c.ctxs.flatMap (fun p => (p.2.strands.filter (fun q =>
    (q.2.held.map Held.op == some 0x7C) && q.2.prg.toNat == normalPrg &&
      q.2.me.isSome && c.samplerFor p.2.part (q.2.me.getD 0 / 16) == some d)).map (fun q => (p.1, q.1)))

/-- A strand changed in its context. -/
def Core.modStrand (c : Core) (k i : Nat) (f : Strand → Strand) : Core :=
  match lookup c.ctxs k with
  | none => c
  | some cx =>
    match lookup cx.strands i with
    | none => c
    | some r => c.setCtx k { cx with strands := insertKey i (f r) cx.strands }

/-- The SAMPLEs in progress in normal mode at a sampler restarted in Gumbel mode (R231, R232). (log 58, DEDUCED) -/
def Core.toGumbel (c : Core) (d : Nat) : Core :=
  (c.sampling d).foldl (fun (c : Core) q =>
    c.modStrand q.1 q.2 (fun r => { r with prg := BitVec.ofNat 64 gumbelPrg })) c

/-- SAMPLE (R228 to R231). -/
def sampleFn (b : Body) (x : X) : Res X := x.guard b (sampleChk x) (sampleRun x)

/-! ### Events of the samplers -/

/-- A sampler self-test's end (R232): READY on a pass; the third failure in a row sets FAILED. -/
def selftestEnd (pass : Bool) (s : Sampler) : Sampler :=
  if s.failed then s
  else if pass then { s with state := if s.want then 2 else 0, fails := 0, want := false }
  else if 2 ≤ s.fails then { s with state := 3, fails := s.fails + 1, failed := true }
  else { s with state := 3, fails := s.fails + 1 }

/-- A sampler fault (R232). -/
def samplerFault (s : Sampler) : Sampler := { s with errs := satInc s.errs 0xFF, state := 3 }

/-- A write of TEST (R232, Table 10.6): ignored while a self-test runs or the sampler has failed; in STARTUP the test waits for
the power-on self-test, and with a normal-mode request in progress for its end. -/
def samplerTest (busy : Bool) (s : Sampler) : Sampler :=
  if s.state = 2 ∨ s.failed then s else if s.state = 1 ∨ (s.state = 0 ∧ busy) then { s with want := true } else { s with state := 2 }

/-- Whether a sampler's wanted self-test is held back by no request any longer (R232). -/
def Core.testDue (c : Core) (d : Nat) : Bool :=
  let s := c.samplers.toList.getD d {}
  s.want && s.state == 0 && (c.sampling d).isEmpty

/-- A wanted self-test begun. -/
def samplerDue (s : Sampler) : Sampler := { s with state := 2, want := false }

/-- TND_SMPSTAT (Table 10.5). -/
def Sampler.stat (s : Sampler) : Nat :=
  s.errs * 2 ^ 40 + (if s.failed then 2 ^ 35 else 0) + s.state * 2 ^ 32 + s.gcount

end Sys2Proof.Machine
end

