-- ==== Sys2Proof/Machine/Press.lean ====
section
/-!
DEFINITION. Press and the table slots (R241 to R249): PHIST, PRESS, TGEN, and the decode requests of the Sieve.
-/
namespace Sys2Proof.Machine

/-- A table slot. -/
def Core.tslot (c : Core) (j : Nat) : TSlot := c.tslots.toList.getD j {}
/-- A table slot replaced. -/
def Core.setTslot (c : Core) (j : Nat) (t : TSlot) : Core := { c with tslots := c.tslots.setIfInBounds j t }

/-- Bytes `o` to `o + n − 1` of a tensor's dense image (R235): its rows one after the other, gathered where they lie apart. -/
def X.image (x : X) (t : Td) (o n : Nat) : Res (List Byte × X) :=
  let len := rowLen t.fmt t.e0
  if t.dense ∨ n = 0 ∨ len = 0 then x.load (t.base + o) n t.operand true
  else do
    let (rows, x1) ← mapRes x (span (o / len) ((o + n - 1) / len - o / len + 1)) (fun y r =>
      let lo := max o (r * len) - r * len
      y.fetch t (t.rowOff r + lo) (min (o + n) ((r + 1) * len) - r * len - lo))
    return (rows.flatten, x1)

/-- Block `i` of a tensor's dense byte image (R235, R236): zero from its end on. (log 58, DEDUCED) -/
def X.block (x : X) (t : Td) (i : Nat) : Res (List Byte × X) := do
  let (bs, x1) ← x.image t (4096 * i) (min 4096 (t.bytes - 4096 * i))
  return (slice bs 0 4096, x1)

/-- Operands of PHIST and PRESS match in format and extents. -/
def sameShape (a b : Td) : Bool := a.fmt == b.fmt && a.e0 == b.e0 && a.e1 == b.e1 && a.e2 == b.e2 && a.e3 == b.e3

/-- Number of blocks of a tensor. -/
def Td.blocks (t : Td) : Nat := ceilDiv t.bytes 4096

/-- Counts of one block's deltas added to a generation (R241). (log 58, DEDUCED) -/
def countBlock (planes : Nat) (delta : List Byte) (counts : List (Nat × Nat)) : List (Nat × Nat) :=
  (List.range 4096).foldl (fun l i =>
    let k := i % planes * 256 + (delta.getD i 0).toNat
    insertKey k (satInc ((lookup l k).getD 0) (2 ^ 48 - 1)) l) counts

/-- The descriptors of PHIST. -/
def phistChk (x : X) (i : Ins) : Res (Td × Td) := do
  let d ← x.dreg i.op2 {}
  let bs ← x.dreg i.op3 {}
  return (d, bs)

/-- The operands of PHIST match (R241). -/
def X.phistFits (x : X) (q : Td × Td) : Res Unit := x.check (q.1.dense && q.2.dense && sameShape q.1 q.2) 0x0601

/-- One block counted into the current generation of slot `j` (R241). -/
def X.phistBlock (x : X) (j : Nat) (d : Td) (bs : Option Td) (k : Nat) : Res X := do
  let (db, x1) ← x.block d k
  let (bb, x2) ← match bs with
    | none => .ok (List.replicate 4096 0, x1)
    | some t => x1.block t k
  let delta := xorBytes db bb
  let ts := x2.c.tslot j
  match ts.cur with
  | none => x2.fault 0x0605
  | some g =>
    x2.need (!g.sealed) 0x0605
    let cnt := if db.all (· == 0) || delta.all (· == 0) then g.counts else countBlock g.planes delta g.counts
    return { x2 with c := x2.c.setTslot j { ts with cur := some { g with counts := cnt } } }

/-- What PHIST does once its predicate condition holds: the generation's planes set by its first PHIST, then block by block. -/
def phistRun (x : X) (i : Ins) (q : Td × Td) : Res X := do
  let (d, bs) := q
  let j := i.func
  let p := planesOf (fmtWidth d.fmt)
  x.phistFits q
  x.need ((x.c.tslot j).usable x.cx.part) 0x0606
  match (x.c.tslot j).cur with
  | none => x.fault 0x0605
  | some g => do
    x.need (!g.sealed && (g.planes == 0 || g.planes == p)) 0x0605
    let y := { x with c := x.c.setTslot j { x.c.tslot j with cur := some { g with planes := p } } }
    y.points 0 ((List.range d.blocks).map (fun k z => z.phistBlock j d (if i.op3 = i.op2 then none else some bs) k))

/-- PHIST (R241). -/
def phistFn (b : Body) (x : X) : Res X := x.guard b (phistChk x) (phistRun x)

/-- A generation sealed (R242). -/
def Gen.seal (g : Gen) : Gen :=
  if g.sealed then g else
  { g with sealed := true, lens := (List.range g.planes).map (fun p => buildLengths ((List.range 256).map (fun s => (lookup g.counts (p * 256 + s)).getD 0))) }

/-- Stored bytes and metadata of a block (R239, R238): LEN, MODE, SLOT, GEN, CHECK. -/
def pressBlock (g : Gen) (slot planes : Nat) (noBase : Bool) (d b : List Byte) : List Byte × List Byte :=
  let delta := xorBytes d b
  let entry := fun (len mode sl gn chk : Nat) => layout 16 [(0, 2, len), (2, 1, mode), (3, 1, sl), (4, 1, gn), (8, 4, chk)]
  if d.all (· == 0) then ([], entry 0 0 0 0 0)
  else if !noBase && delta.all (· == 0) then ([], entry 0 1 0 0 (crc32c d))
  else match codeBlock (padTo planes (List.replicate 256 0) g.lens) planes delta with
    | some s => (s, entry s.length 3 slot g.num (crc32c d))
    | none => (d, entry 4096 2 0 0 (crc32c d))

/-- The descriptors of PRESS. -/
def pressChk (x : X) (i : Ins) : Res (Comp × Td × Td × Td) := do
  let o ← x.dreg i.op1 { comp := true, dest := true }
  let d ← x.dreg i.op2 {}
  let bs ← x.dreg i.op3 {}
  match o.comp with
  | none => fIssue 0x0601 o.operand
  | some cp => return (cp, o, d, bs)

/-- The descriptors of PRESS match (R243). -/
def X.pressFits (x : X) (i : Ins) (q : Comp × Td × Td × Td) : Res Unit :=
  let (cp, o, d, bs) := q
  x.check ((if i.op3 = i.op2 then cp.noBase else bs.dense && bs.base == cp.baseRef && sameShape bs o) && sameShape d o) 0x0601

/-- One block pressed through generation `g` of slot `j`: its stored bytes, then the two halves of its entry (R243). -/
def X.pressOne (x : X) (g : Gen) (j : Nat) (cp : Comp) (d bs : Td) (k : Nat) : Res X := do
  let (db, x1) ← x.block d k
  let (bb, x2) ← if cp.noBase then .ok (List.replicate 4096 0, x1) else x1.block bs k
  let (st, en) := pressBlock g j cp.planes cp.noBase db bb
  let x3 ← x2.store (cp.place + 4096 * k) st
  let x4 ← x3.store (cp.meta' + 16 * k + 8) (en.drop 8)
  x4.store (cp.meta' + 16 * k) (en.take 8)

/-- What PRESS does once its predicate condition holds: its operands matched, the generation sealed, then block by block.
(log 58, DEDUCED) -/
def pressRun (x : X) (i : Ins) (q : Comp × Td × Td × Td) : Res X := do
  let (cp, _, d, bs) := q
  let j := x.s i.op4
  x.pressFits i q
  x.check (j < 16) 0x0601
  x.need ((x.c.tslot j).usable x.cx.part) 0x0606
  match (x.c.tslot j).cur with
  | none => x.fault 0x0605
  | some g0 => do
    x.need (g0.planes == 0 || g0.planes == cp.planes) 0x0605
    let g := g0.seal
    let y := { x with c := x.c.setTslot j { x.c.tslot j with cur := some g } }
    y.points 0 ((List.range cp.nblk).map (fun k z => z.pressOne g j cp d bs k))

/-- PRESS (R243). -/
def pressFn (b : Body) (x : X) : Res X := x.guard b (pressChk x) (pressRun x)

/-- The rotation of a slot's generations (R244): the answer is the new number. -/
def TSlot.rotate (t : TSlot) : Nat × TSlot :=
  let n := match t.cur with
    | some g => if g.num = 255 then 1 else g.num + 1
    | none => 1
  (n, { t with cur := some { num := n }, prev := match t.cur with | some g => if 0 < g.refs then some g else none | none => none })

/-- Whether a decode request of a partition waits to be accepted: it may be ordered before a TGEN of the partition (R245). -/
def Core.decodeWaits (c : Core) (part : Nat) : Bool :=
  c.decodes.any (fun q => q.entry.isNone && ((lookup c.ctxs q.ctx).map Context.part == some part))

/-- What TGEN does once its checks pass: it waits for the references on the previous generation (R244), and for the requests that its
partition made before it and that have yet to take theirs, so that none of them is refused (R245). (log 94, DESIGN CHOICE) -/
def tgenRun (x : X) (i : Ins) (_ : Unit) : Res X := do
  let ts := x.c.tslot i.func
  x.need (ts.usable x.cx.part) 0x0606
  if ((ts.prev.map Gen.refs).getD 0) ≠ 0 ∨ x.c.decodeWaits x.cx.part then .error (.hold (.tgen i.func) none)
  else
    let (n, t2) := ts.rotate
    return ({ x with c := x.c.setTslot i.func t2 }).setS i.op1 n

/-- TGEN (R244). -/
def tgenFn (b : Body) (x : X) : Res X := x.guard b noChk (tgenRun x)

/-! ### Decode requests -/

/-- References of a slot's generation `g` changed; a previous generation without references retires (R244), and a slot being
reassigned takes its new owner when it holds none (R247). -/
def TSlot.refer (t : TSlot) (g : Nat) (f : Nat → Nat) : TSlot :=
  let on := fun (q : Gen) => if q.num = g then { q with refs := f q.refs } else q
  let cur := t.cur.map on
  let prev := match t.prev.map on with
    | some q => if q.refs = 0 then none else some q
    | none => none
  let held := (cur.map Gen.refs).getD 0 + (prev.map Gen.refs).getD 0
  match t.draining with
  | some o => if held = 0 then { owner := o } else { t with cur := cur, prev := prev }
  | none => { t with cur := cur, prev := prev }

/-- The owner of a slot changed (R247): it drains, is cleared and takes its owner. -/
def TSlot.assign (t : TSlot) (o : Nat) : TSlot :=
  if t.owner = o ∧ t.draining.isNone then t
  else if (t.cur.map Gen.refs).getD 0 + (t.prev.map Gen.refs).getD 0 = 0 then { owner := o } else { t with draining := some o }

/-- Slot and generation that an accepted request holds a reference on: those of its CODED entry. -/
def DecodeReq.slot (q : DecodeReq) : Option (Nat × Nat) :=
  q.entry.bind (fun m => if fld m 2 1 = 3 then some (fld m 3 1, fld m 4 1) else none)

/-- A decode request's reference released. -/
def Core.release (c : Core) (q : DecodeReq) : Core :=
  match q.slot with
  | some (j, g) => c.setTslot j ((c.tslot j).refer g (· - 1))
  | none => c

/-- A decode request discarded, with its reference and what it asked of other modules (R245, R252). -/
def Core.dropDecode (c : Core) (q : DecodeReq) : Core :=
  { c with decodes := c.decodes.filter (·.num != q.num), reqs := c.reqs.filter (fun r => r.who != Asker.sieve q.num) }.release q

/-- All decode requests of a context discarded (R252). -/
def Core.dropDecodes (c : Core) (k : Nat) : Core := (c.decodes.filter (·.ctx == k)).foldl Core.dropDecode c

/-- A decode request changed. -/
def Core.modDecode (c : Core) (n : Nat) (f : DecodeReq → DecodeReq) : Core :=
  { c with decodes := c.decodes.map (fun q => if q.num = n then f q else q) }

/-- Die of a decode request's strand. -/
def Core.dieOf (c : Core) (k i : Nat) : Nat :=
  (((lookup c.ctxs k).bind (fun cx => (lookup cx.strands i).bind Strand.me)).getD 0) / 16

/-- Sieve instances of a die that have accepted a request and not delivered its block. -/
def Core.busySieves (c : Core) (die : Nat) : Nat :=
  (c.decodes.filter (fun q => q.entry.isSome && c.dieOf q.ctx q.strand == die)).length

/-- The view of a decode request: its strand's, with the bytes that have arrived for it. -/
def DecodeReq.view (q : DecodeReq) (env : Env) (c : Core) : Option X :=
  (viewOf env c q.ctx q.strand 0x44).map (fun x => { x with r := { x.r with arrived := q.arrived } })

/-- What comes of a read for a decode request: its fault raised on its strand and the request discarded, or its read of another
module sent. -/
def DecodeReq.stop (q : DecodeReq) (x : X) : Stop → Core
  | .fault f _ => ((x.c.keepReads f).dropDecode q).raise x.env.dev q.ctx q.strand f
  | .hold w _ => (x.askFor (.sieve q.num) w).c
  | .trap _ _ => x.c

/-- A waiting request tried (R245, R249 items 1 and 2, R251): a free instance of its die accepts it once its metadata is here,
and it takes its reference. -/
def decodeTry (env : Env) (c : Core) (q : DecodeReq) : Core :=
  if 8 ≤ c.busySieves (c.dieOf q.ctx q.strand) then c else
  match q.view env c with
  | none => c
  | some x =>
    if ¬ x.cx.live then c else
    match decodeCheck x q.pair q.index with
    | .ok (m, gen, y) =>
      let c1 := y.c.modDecode q.num (fun q => { q with entry := some m })
      match gen with
      | some g => c1.setTslot (fld m 3 1) ((c1.tslot (fld m 3 1)).refer g.num (· + 1))
      | none => c1
    | .error e => q.stop x e

/-- A die's stall counter advanced for a request that waits (R251; log 5, DESIGN CHOICE). -/
def Core.sieveStall (c : Core) (die : Nat) : Core :=
  { c with stalls := insertKey die (((lookup c.stalls die).getD 0 + Config.elapsed c.seq) % 2 ^ 64) c.stalls, seq := c.seq + 1 }

/-- Dies on which a request waits for an instance. -/
def Core.stalledDies (c : Core) : List Nat :=
  (List.range 8).filter (fun d => 8 ≤ c.busySieves d && c.decodes.any (fun q => q.entry.isNone && c.dieOf q.ctx q.strand == d))

/-- The stall counters advanced: by the cycles since the Sieve was last seen, where a request has waited. (log 5, DESIGN CHOICE) -/
def Core.countStalls (c : Core) : Core := c.stalledDies.foldl Core.sieveStall c

/-- Every waiting request tried, oldest first (R251); the cycles in which those that still wait have waited count. -/
def decodesTry (env : Nat → Env) (c : Core) : Core :=
  (c.decodes.foldl (fun (a : Core) q => if q.entry.isNone && a.decodes.contains q then decodeTry (env q.ctx) a q else a) c).countStalls

/-- A block decode request of strand `i` of context `k` for block `idx` of the pair in its register `n` (R245, R249, R251):
it takes its turn behind the requests that wait. -/
def decodeAccept (env : Nat → Env) (k i n idx : Nat) (c : Core) : Core :=
  match viewOf (env k) c k i 0x44 with
  | none => c
  | some x =>
    if ¬ (x.cx.live && x.r.me.isSome) then c else
    match x.dreg n { comp := true } with
    | .error (.fault f _) => c.raise x.env.dev k i f
    | .error _ => c
    | .ok t =>
      match t.comp with
      | none => c
      | some p =>
        if p.nblk ≤ idx then c else
        let c1 := { c with decodes := c.decodes ++ [{ num := c.nextTag, ctx := k, strand := i, pair := p, index := idx }],
                           nextTag := c.tagAt 1 }
        decodesTry env c1

/-- One accepted request taken to its end (R249 items 3 and 4): its block passes its checks and is delivered, or its consumer
faults; its reference is released either way. None while bytes of another module are missing: they are asked for. -/
def decodeEnd (env : Env) (c : Core) (q : DecodeReq) : Core × Bool :=
  match q.entry, q.view env c with
  | none, _ => (c, false)
  | some _, none => (c.dropDecode q, true)
  | some m, some x =>
    if ¬ x.cx.live then (c, false) else
    let gen := q.slot.bind (fun s => (c.tslot s.1).named s.2)
    match decodeBody x q.pair q.index m gen with
    | .ok (_, y) => (y.c.dropDecode q, true)
    | .error (.hold w k) => (q.stop x (.hold w k), false)
    | .error e => (q.stop x e, true)

/-- The oldest accepted request whose bytes are all here ended; waiting requests then take the freed instance. -/
def blockDelivered (env : Nat → Env) (c : Core) : Core :=
  let r := c.decodes.foldl (fun (a : Core × Bool) q => if a.2 then a else decodeEnd (env q.ctx) a.1 q) (c, false)
  decodesTry env r.1

/-- SIV_SLOTSTAT (Table 11.4). -/
def TSlot.stat (t : TSlot) : Nat :=
  ((t.prev.map Gen.refs).getD 0 % 2 ^ 16) * 2 ^ 24 + ((t.prev.map Gen.num).getD 0) * 2 ^ 16 + ((t.cur.map Gen.num).getD 0) * 2 ^ 8 +
  (if (t.cur.map Gen.sealed).getD false then 16 else 0) + (t.cur.map Gen.planes).getD 0

end Sys2Proof.Machine
end

