-- ==== Sys2Proof/Machine/Sync.lean ====
section
/-!
DEFINITION. Flags, barriers, member lists and register access by strands (R102 to R104, R140, R141, R280), and the end of
a strand (R87).
-/
namespace Sys2Proof.Machine

/-! ### Flags -/

/-- Whether an address may hold a flag: a naturally aligned word of some module's pantry (R102). -/
def flagAddr (a : Nat) : Bool := a % 8 == 0 && pantryBase ≤ localOf a && localOf a + 8 ≤ pantryEnd

/-- FWAIT's comparison (Table 5.20). -/
def flagCmp (cmp old v : Nat) : Bool :=
  match cmp with
  | 0 => old == v
  | 1 => old != v
  | 2 => v ≤ old
  | _ => old < v

/-- Checks of a flag's address: 0x0203, then mapping and permission (R102, R140). -/
def X.flagChk (x : X) (a : Nat) (wr : Bool) : Res Unit := do
  x.check (flagAddr a) 0x0203 2
  x.reach a 8 wr 2

/-- What FSET does once its checks pass. -/
def fsetRun (x : X) (i : Ins) (_ : Unit) : Res X := do
  let a := x.s i.op2
  x.flagChk a true
  x.released (bit i.func 0)
  if x.here a then x.store a (leBytes 8 (x.s i.op3)) 2
  else return x.post a [x.flagPacket a 6 (x.s i.op3) 0]

/-- FSET (R102): on another module its packet is a store that the module acknowledges. -/
def fsetFn (b : Body) (x : X) : Res X := x.guard b noChk (fsetRun x)

/-- What FADD does once its checks pass. -/
def faddRun (x : X) (i : Ins) (_ : Unit) : Res X := do
  let a := x.s i.op2
  x.flagChk a true
  x.released (bit i.func 0)
  let (old, x1) ← x.fadd a (x.s i.op3) 2
  return x1.setS i.op1 old

/-- FADD (R102). -/
def faddFn (b : Body) (x : X) : Res X := x.guard b noChk (faddRun x)

/-- What FCAS does once its checks pass. -/
def fcasRun (x : X) (i : Ins) (_ : Unit) : Res X := do
  let a := x.s i.op2
  x.flagChk a true
  x.released (bit i.func 0)
  if x.here a then do
    let (bs, x1) ← x.load a 8 2
    let x2 ← if ofLE bs = x.s i.op3 then x1.store a (leBytes 8 (x.s i.op4)) 2 else .ok x1
    return x2.setS i.op1 (ofLE bs)
  else do
    let v ← x.remoteFlagOp a 5 (x.s i.op3) (x.s i.op4)
    return x.setS i.op1 v

/-- FCAS (R102). -/
def fcasFn (b : Body) (x : X) : Res X := x.guard b noChk (fcasRun x)

/-- What FWAIT does once its checks pass. -/
def fwaitRun (x : X) (i : Ins) (_ : Unit) : Res X := do
  let a := x.s i.op2
  let cmp := bits i.func 2 2
  let v := x.s i.op3
  x.flagChk a false
  if x.here a then do
    let (bs, x1) ← x.load a 8 2
    if flagCmp cmp (ofLE bs) v then return x1 else .error (.hold (.flag a cmp v) (some x1))
  else do
    let _ ← x.remoteFlagOp a cmp v 0
    return x

/-- FWAIT (R102): a wait on another module is parked there (R278). -/
def fwaitFn (b : Body) (x : X) : Res X := x.guard b noChk (fwaitRun x)

/-! ### Barriers -/

/-- Group of a rank in a scope (R104). -/
def barGroup (scope rank : Nat) : Nat := match scope with | 0 => rank / 4 | 1 => rank / 16 | _ => 0

/-- Whether a barrier is the one a strand names. -/
def Bar.names (q : Bar) (r : Strand) (scope num : Nat) : Bool :=
  q.launch == r.launch && q.scope == scope && q.num == num && q.group == barGroup scope r.rank

/-- A barrier with an arrival added: to the open barrier of its name, or to a new one. -/
def arriveAt (l : List Bar) (r : Strand) (scope num : Nat) : List Bar :=
  if l.any (fun q => q.names r scope num && q.fin.isNone) then
    l.map (fun q => if q.names r scope num && q.fin.isNone then { q with arrived := q.arrived ++ [r.rank] } else q)
  else l ++ [{ launch := r.launch, scope := scope, group := barGroup scope r.rank, num := num, arrived := [r.rank], fin := none }]

/-- A barrier with a strand's rank taken out of it; it is gone when it holds no rank. -/
def leaveBar (l : List Bar) (r : Strand) (scope num : Nat) : List Bar :=
  (l.map (fun q => if q.names r scope num && q.arrived.contains r.rank then { q with arrived := q.arrived.filter (· != r.rank) } else q)).filter
    (fun q => !q.arrived.isEmpty)

/-- Ranks that take part in a barrier: the strands of its launch in its group that have not ended (R87, R104). -/
def Context.members (cx : Context) (q : Bar) : List Nat :=
  ((cx.strands.map Prod.snd).filter (fun r => r.launch == q.launch && barGroup q.scope r.rank == q.group)).map Strand.rank

/-- Whether every participant present has arrived at an open barrier. -/
def Context.full (cx : Context) (q : Bar) : Bool := q.fin.isNone && (cx.members q).all q.arrived.contains

/-- The members of a context's list that are on other modules, with their ranks. -/
def Context.others (cx : Context) (dev : Nat) : List ((Nat × Nat) × Nat) :=
  cx.coll.members.zipIdx.filter (fun m => m.1.1 != dev)

/-- What member `m` (device, context) is sent on the collective channel (R272): packets of at most 4,096 bytes, one where
there are no data. (log 77, DESIGN CHOICE) -/
def collPackets (env : Env) (k part opc seq : Nat) (m : Nat × Nat) (data : List Byte) : List Out :=
  let ps := if data.isEmpty then [(0, [])] else pieces (data.length / 4096 + 1) 0 data
  ps.map (fun q => Out.packet ((env.route m.1).getD 0)
    { dest := m.1, src := env.dev, epoch := env.epoch, opc := opc, spart := part, tag := k, addr := m.2 + q.1 * 2 ^ 16,
      arg := env.low % 16 * 2 ^ 60 + seq, data := q.2 })

/-- Data for every other member sent, once each has a route (R278). (log 59, DEDUCED; log 77, DESIGN CHOICE) -/
def X.tell (x : X) (opc seq : Nat) (data : Nat → List Byte) : Res X := do
  let ms := x.cx.others x.env.dev
  x.need (ms.all (fun m => (x.env.route m.1.1).isSome)) 0x0703
  let ps := ms.flatMap (fun m => collPackets x.env x.k x.cx.part opc seq m.1 (data m.2))
  return { x with c := { x.c with out := ps.reverse ++ x.c.out } }

/-- What a scope-3 barrier's packet carries for the number of a collective: bit 32 set, and the barrier's number. (log 77, DESIGN CHOICE) -/
def barSeq (num : Nat) : Nat := 2 ^ 32 + num

/-- Whether this member now arrives at a scope-3 barrier (R285): all its participants have, and the others do not know. -/
def Context.arrives (cx : Context) (q : Bar) : Bool := q.scope == 3 && !q.told && cx.full q

/-- The barriers with this member's arrivals sent. -/
def Context.toldBars (cx : Context) : List Bar := cx.bars.map (fun q => if cx.arrives q then { q with told := true } else q)

/-- The view with the arrivals sent that its context now owes (R285). -/
def X.tellBars (x : X) : Res X := do
  let y ← (x.cx.bars.filter x.cx.arrives).foldlM (fun (y : X) q => y.tell 0x10 (barSeq q.num) (fun _ => [])) x
  return { y with cx := { y.cx with bars := y.cx.toldBars } }

/-- The same for a context whose strand has ended: members without a route are passed over. (log 59, DEDUCED) -/
def Core.tellBars (env : Env) (k : Nat) (c : Core) : Core :=
  match lookup c.ctxs k with
  | none => c
  | some cx =>
    let ps := (cx.bars.filter cx.arrives).flatMap (fun q =>
      ((cx.others env.dev).filter (fun m => (env.route m.1.1).isSome)).flatMap (fun m =>
        collPackets env k cx.part 0x10 (barSeq q.num) m.1 []))
    { c.setCtx k { cx with bars := cx.toldBars } with out := ps.reverse ++ c.out }

/-- What BAR does once its predicate condition holds. (log 59, DEDUCED) -/
def barRun (x : X) (i : Ins) (_ : Unit) : Res X :=
  let scope := bits i.imm 0 2
  let num := bits i.imm 4 4
  match x.cx.bars.find? (fun q => q.names x.r scope num && q.arrived.contains x.r.rank) with
  | none => do
    x.check (scope != 3 || (x.cx.coll.listed && !x.cx.coll.aborted)) 0x0702
    x.released true
    let y ← ({ x with cx := { x.cx with bars := arriveAt x.cx.bars x.r scope num } } : X).tellBars
    .error (.hold (.barrier scope num) (some y))
  | some q =>
    let gone := { x with cx := { x.cx with bars := leaveBar x.cx.bars x.r scope num } }
    match q.fin with
    | none => .error (.hold (.barrier scope num) none)
    | some 0 => .ok gone
    | some st => .error (.fault { code := 0x0707, detail := leBytes 8 st } (some gone))

/-- BAR (R104, R140, R285): an arrival, as a release, then a wait until the barrier is released or aborted. -/
def barFn (b : Body) (x : X) : Res X := x.guard b noChk (barRun x)

/-- The strands of a resident context that wait at aborted barriers fault, each with its own record (R285); the barriers are
gone. -/
def Core.failBars (dev k : Nat) (c : Core) : Core :=
  match lookup c.ctxs k with
  | none => c
  | some cx =>
    if cx.slot.isNone ∨ cx.moving ≠ .none then c else
    let lost := cx.bars.filter (fun q => q.fin.any (· ≠ 0))
    if lost.isEmpty then c else
    let hit := fun (r : Strand) => (lost.find? (fun q => q.launch == r.launch && q.arrived.contains r.rank &&
      (r.held.map Held.wait) == some (.barrier q.scope q.num))).bind Bar.fin
    let c1 := c.setCtx k { cx with
      bars := cx.bars.filter (fun q => !lost.contains q)
      strands := cx.strands.map (fun p => if (hit p.2).isSome then (p.1, { p.2 with held := none, arrived := [], prg := 0, list := {} }) else p) }
    cx.strands.foldl (fun (c : Core) p =>
      match hit p.2 with
      | some st => c.raise dev k p.1 { code := 0x0707, detail := leBytes 8 st }
      | none => c) c1

/-! ### End of strands and launches -/

/-- Launches of a context whose strands have all ended (R87): they are gone, their commands have completed, and table slots
that no other launch binds hold nothing (R191). (log 60, DEDUCED) -/
def Core.endLaunches (c : Core) (k : Nat) : Core :=
  match lookup c.ctxs k with
  | none => c
  | some cx =>
    let isOver := fun (l : Launch) => l.base.isSome && !cx.strands.any (fun p => p.2.launch == l.num)
    let ended := cx.launches.filter isOver
    let left := cx.launches.filter (fun l => !isOver l)
    let cx1 := { cx with launches := left, chroma := if left.isEmpty then [] else cx.chroma }
    { c.setCtx k cx1 with
      dones := c.dones ++ ended.filterMap (fun l => l.cmd.map (fun q => { cmd := q, status := 0, result := 0 }))
      ftab := c.ftab.filter (fun t => t.1 / 128 != k || (c.bound cx1 (t.1 % 4)).isSome) }

/-! ### Member lists -/

/-- The members of a list of `n` (R280). -/
def membersOf (b : List Byte) (n : Nat) : List (Nat × Nat) := (List.range n).map (fun j => (fld b (8 * j) 2, fld b (8 * j + 2) 2))

/-- What MEMB does once its checks pass. -/
def membRun (x : X) (i : Ins) (_ : Unit) : Res X := do
  let a := x.s i.op2
  x.need (a % 64 == 0) 0x0701 2
  let (h, x1) ← x.load a 64 2
  let n := fld h 0 4
  x1.need (1 ≤ n && n ≤ 65536 && zeroAt h 4 60) 0x0701 2
  let (bs, x2) ← x1.load (a + 64) (8 * n) 2
  let ms := membersOf bs n
  x2.need ((List.range n).all (fun j => zeroAt bs (8 * j + 4) 4) && (ms.filter (· == (x.env.dev, x.k))).length == 1 &&
    decide ms.Nodup) 0x0701 2
  x2.need (x.s i.op3 < 2 ^ 32) 0x0701 3
  if ¬ x2.cx.coll.ops.isEmpty ∨ x2.cx.bars.any (fun q => q.scope == 3 && q.fin.isNone) then .error (.hold .memb none)
  else
    return { x2 with cx := { x2.cx with coll :=
      { x2.cx.coll with members := ms, gen := x.s i.op3, listed := true, aborted := false, nextSeq := 1 } } }

/-- MEMB (R280). -/
def membFn (b : Body) (x : X) : Res X := x.guard b noChk (membRun x)

/-! ### Registers -/

/-- The register a strand's address names and whether it may be written (R63, R141, R153, R177, R248). -/
inductive StrandReg where
  | own (g : SlotReg)
  | slot (s : Nat) (g : SlotReg)
  | table (j : Nat)
deriving DecidableEq, Repr

/-- The register a strand may read at an address; none where the access faults with 0x0202. -/
def X.strandReg (x : X) (a : Nat) : Option StrandReg :=
  match aliasOf a with
  | some g => some (.own g)
  | none =>
    match slotRegOf a with
    | some (s, .fitstat) => some (.slot s .fitstat)
    | some (s, .rcpstat) => some (.slot s .rcpstat)
    | some _ => none
    | none =>
      let t := blockOff 0x03 + 0x100
      if t ≤ a ∧ a < t + 0x80 ∧ a % 8 = 0 ∧ (x.c.tslot ((a - t) / 8)).owner = x.cx.part then some (.table ((a - t) / 8)) else none

/-- Registers of a slot as a strand reads them: those of its own slot lie in its view. -/
def X.slotRegs (x : X) (s : Nat) : NumRegs := if x.cx.slot = some s then x.num else x.c.slotNum s

/-- What RGRD does once its checks pass. (log 60, DEDUCED) -/
def rgrdRun (x : X) (i : Ins) (_ : Unit) : Res X := do
  let a := x.s i.op2
  x.need (a % 8 == 0) 0x0402 2
  match x.strandReg a with
  | none => x.fault 0x0202 2
  | some (.own .fpflags) => return x.setS i.op1 (x.num.read .fpflags)
  | some (.own g) => return x.setS i.op1 (x.num.read g)
  | some (.slot s g) => return x.setS i.op1 ((x.slotRegs s).read g)
  | some (.table j) => return x.setS i.op1 (x.c.tslot j).stat

/-- RGRD (R63, R141). -/
def rgrdFn (b : Body) (x : X) : Res X := x.guard b noChk (rgrdRun x)

/-- What RGWR does once its checks pass. (log 60, DEDUCED) -/
def rgwrRun (x : X) (i : Ins) (_ : Unit) : Res X := do
  let a := x.s i.op2
  let v := x.s i.op3
  let log := fun (code old : Nat) =>
    if a < mgmtBase ∨ mgmtEnd ≤ a then x else
    { x with c := x.c.journal (Src.strand x.k x.cx.part) { kind := 1, code := code, addr := a, old := old, new := v } }
  let refuse := fun (code old : Nat) => (.error (.fault { code := code, operand := 2, ecc := some x.c.ecc } (some (log code old))) : Res X)
  if a % 8 ≠ 0 then refuse 0x0402 0
  else match x.strandReg a with
    | some (.own g) =>
      let old := x.num.read g
      match x.num.write g v with
      | some num => return { log 0 old with num := num }
      | none => refuse 0x0401 old
    | _ => refuse 0x0202 0

/-- RGWR (R11, R63, R141): the write is journalled, refused or not (R388). -/
def rgwrFn (b : Body) (x : X) : Res X := x.guard b noChk (rgwrRun x)

end Sys2Proof.Machine
end

