-- ==== Sys2Proof/Machine/Collective.lean ====
section
/-!
DEFINITION. Remote copies, collectives and expert traffic (13, R279 to R284, R290 to R292): RPUT, COLL, XDISP and XCOMB. (log 59, DEDUCED) -/
namespace Sys2Proof.Machine

/-! ### RPUT -/

/-- The descriptors of RPUT. -/
def rputChk (x : X) (i : Ins) : Res (Td × Td) := do
  let d ← x.dreg i.op1 { dest := true }
  let s ← x.dreg i.op2 {}
  return (d, s)

/-- Elements of a format that a packet of at most 4,096 data bytes carries. -/
def perPacket (fmt : Nat) : Nat := if fmtWidth fmt = 6 then 5460 else 32768 / fmtWidth fmt

/-- The data packet of RPUT with the elements of row `r` from column `c`, `n` of them at most. -/
def X.rputPacket (x : X) (d s : Td) (r c n : Nat) : Res X := do
  let m := min n (s.e0 - c)
  let (cs, y) ← x.rowCodes s r c m
  y.store (d.rowAddr r + (rowBytes d.fmt c m).1) (packRow d.fmt cs) d.operand

/-- The destination of an RPUT names another module and has the source's format and extents (R279). -/
def X.rputShape (x : X) (d s : Td) : Res Unit :=
  x.check (!x.here d.base && d.fmt == s.fmt && d.e0 == s.e0 && d.e1 == s.e1 && d.e2 == s.e2 && d.e3 == s.e3) 0x0307

/-- What RPUT does once its predicate condition holds: its data packets, then, once every one is acknowledged, the flag. -/
def rputRun (x : X) (i : Ins) (q : Td × Td) : Res X := do
  let (d, s) := q
  let a := x.s i.op3
  x.rputShape d s
  x.flagChk a true
  let n := perPacket s.fmt
  let y ← x.points 0 ((List.range s.rows).flatMap (fun r => (List.range (ceilDiv s.e0 n)).map (fun b z => z.rputPacket d s r (n * b) n)))
  if y.r.acks ≠ 0 then .error (.hold .acks (some y))
  else if y.here a then y.store a (leBytes 8 (y.s i.op4)) 3
  else return y.post a [y.flagPacket a 6 (y.s i.op4) 0]

/-- RPUT (R279). Its progress is the next packet. -/
def rputFn (b : Body) (x : X) : Res X := x.guard b (rputChk x) (rputRun x)

/-! ### Operations in flight -/

/-- This strand's operation in flight. -/
def X.collOp (x : X) : Option CollOp := x.cx.coll.ops.find? (fun q => q.strand == x.i)

/-- The strand's operation begun (R278, R281, R290): what it has for each other member is sent, and it waits for theirs.
(log 77, DESIGN CHOICE) (log 59, DEDUCED) -/
def X.collStart (x : X) (params : List Nat) (data : Nat → List Byte) : Res X := do
  let y ← x.tell (if x.op = 0x88 then 0x10 else 0x11) (if x.op = 0x88 then x.cx.coll.nextSeq else 0) data
  .error (.hold .coll (some { y with
    cx := { y.cx with coll := { y.cx.coll with
      ops := y.cx.coll.ops ++ [{ strand := x.i, op := x.op, params := params, peers := [], fin := none, stalled := false }]
      nextSeq := if x.op = 0x88 then y.cx.coll.nextSeq + 1 else y.cx.coll.nextSeq } } }))

/-- A status word (R284): code and rank concerned. -/
def statusWord (code rank : Nat) : Nat := code + rank * 2 ^ 32

/-- Rank field of a status that concerns no member. -/
def noRank : Nat := 0xFFFFFFFF

/-- The status an operation ends with: what ended it, or the first member found to disagree (R281, R290). -/
def CollOp.status (q : CollOp) (st : Nat) : Nat :=
  if st ≠ 0 then st else
  match q.peers.find? (fun p => p.params != q.params) with
  | some p => statusWord 3 p.rank
  | none => statusWord 0 noRank

/-- A destination left undefined within its extents (R284). -/
def X.spoilDest (x : X) (t : Td) : X :=
  (List.range t.rows).foldl (fun (y : X) r =>
    let a := t.rowAddr r
    let n := rowLen t.fmt t.e0
    if y.here a ∧ y.c.access y.cx.part y.cx.pantry (localOf a) n true = 0 then
      { y with c := y.c.spoil (localOf a) n }
    else y) x

/-- The end of the strand's operation (R284): its result on status 0, else an undefined destination and an aborted list; then,
once its remote stores are acknowledged, the status word as a release (R103). (log 45, DEDUCED) -/
def X.collEnd (x : X) (q : CollOp) (st addr : Nat) (d : Td) (good : X → Res X) : Res X := do
  let w := q.status st
  let y ← x.points 0 [fun z => if w % 2 ^ 16 = 0 then good z else .ok (z.spoilDest d)]
  if y.r.acks ≠ 0 then .error (.hold .acks (some y))
  let cl := y.cx.coll
  let y1 := { y with cx := { y.cx with coll :=
    { cl with ops := cl.ops.filter (fun o => o.strand != x.i), aborted := cl.aborted || w % 2 ^ 16 != 0 } } }
  y1.store addr (leBytes 8 w)

/-- Rank of the issuing context in the current list (R280). -/
def X.rank (x : X) : Nat := (x.cx.coll.members.findIdx? (· == (x.env.dev, x.k))).getD 0

/-- Members of the current list. -/
def X.size (x : X) : Nat := x.cx.coll.members.length

/-- A status address: 8-byte aligned and writable by the partition (Table 13.6). -/
def X.statusOk (x : X) (a : Nat) : Bool :=
  a % 8 == 0 && x.here a && x.c.access x.cx.part x.cx.pantry (localOf a) 8 true == 0 && !x.c.hitsCode (localOf a) 8

/-- A current list that is not aborted (R281). -/
def X.listChk (x : X) : Res Unit := x.check (x.cx.coll.listed && !x.cx.coll.aborted) 0x0702

/-! ### COLL -/

/-- Elements of a chunk `r` of `n` of a view of `e` elements (R282): first and count. -/
def chunk (e n r : Nat) : Nat × Nat :=
  let c := ceilDiv e n
  let lo := min e (r * c)
  (lo, min e ((r + 1) * c) - lo)

/-- Elements of COLL's destination (R282). -/
def collSize (func e n r : Nat) : Nat :=
  match func with
  | 0 => (chunk e n r).2
  | 1 => n * e
  | _ => e

/-- All codes of a tensor in logical order (R94). -/
def X.allCodes (x : X) (t : Td) : Res (List Nat × X) := do
  let (rows, x1) ← mapRes x (List.range t.rows) (fun y r => y.rowCodes t r 0 t.e0)
  return (rows.flatten, x1)

/-- One element of a reduction before its destination's rounding (R283): codes of the source format by rank. -/
def reduceElem (fmt redop : Nat) (sat rdn : Bool) (cs : List Nat) : Val × Ev :=
  if isFloat fmt then
    let f := if fmt = 0 then fp64 else fp32
    let op := fun (a b : Nat) =>
      match redop with
      | 0 => rne f (sumN rdn 2 [f.decode a, f.decode b])
      | 1 => maxC f a b
      | _ => minC f a b
    let w := cs.map (fun c => rne f ((elemVal fmt c).num, Ev.none))
    let r := treeC op (w.map Prod.fst) 0
    (.f (f.decode r.1), (Ev.all (w.map Prod.snd)).join r.2)
  else
    let op := fun (a b : Nat) =>
      let za := signed a 32
      let zb := signed b 32
      match redop with
      | 0 => iadd sat (za + zb)
      | 1 => (encInt 32 (max za zb), Ev.none)
      | _ => (encInt 32 (min za zb), Ev.none)
    let w := cs.map (fun c => match elemVal fmt c with | .i z => encInt 32 z | .f _ => 0)
    let r := treeC op w 0
    (.i (signed r.1 32), r.2)

/-- The sources of ranks 0 to n − 1, this member's own among them. -/
def CollOp.sources (q : CollOp) (n rank : Nat) (own : List Nat) : List (List Nat) :=
  (List.range n).map (fun r =>
    if r = rank then own else ((q.peers.find? (fun p => p.rank == r)).map (fun p => p.rows.flatten)).getD [])

/-- COLL's result written (R282, R283). -/
def collWrite (d s : Td) (func redop : Nat) (q : CollOp) (x : X) : Res X := do
  let (own, x1) ← x.allCodes s
  let n := x.size
  let e := s.size
  let src := q.sources n x.rank own
  let copied := fun (l : List Nat) => l.map (fun c => ((c, Ev.none) : Nat × Ev))
  let reduced := fun (lo cnt : Nat) => (List.range cnt).map (fun k =>
    let v := reduceElem s.fmt redop d.sat (d.rmode == 3) (src.map (fun l => l.getD (lo + k) 0))
    let c := d.conv (k / d.e0) (k % d.e0) v.1
    ((c.1, v.2.join c.2) : Nat × Ev))
  let els := match func with
    | 0 => reduced (chunk e n x.rank).1 (chunk e n x.rank).2
    | 1 => copied src.flatten
    | 2 => reduced 0 e
    | _ => copied ((List.range n).flatMap (fun j => let k := chunk e n j; ((src.getD j []).drop k.1).take k.2))
  foldRes x1 (List.range d.rows) (fun y r => do
    let row := (els.drop (r * d.e0)).take d.e0
    let y1 := (List.range row.length).foldl (fun (z : X) c =>
      z.note ((row[c]?).map Prod.snd |>.getD Ev.none) { cause := 0, row := r, col := c }) y
    y1.putCodes d r 0 (row.map Prod.fst))

/-- The descriptors of COLL. -/
def collChk (x : X) (i : Ins) : Res (Td × Td) := do
  let d ← x.dreg i.op1 { scaled := false, dest := true }
  let s ← x.dreg i.op2 { scaled := false, fmt := fun f => !(i.func == 0 || i.func == 2) || f != 14 }
  return (d, s)

/-- What member `r` needs of the elements of member `me` (R282): chunk `r` of a reduce-scatter, block `me` in an all-to-all, or all. -/
def collPart (func n me r : Nat) (codes : List Nat) : List Nat :=
  if func = 0 ∨ func = 3 then
    let k := chunk codes.length n (if func = 0 then r else me)
    (codes.drop k.1).take k.2
  else codes

/-- What COLL does once its predicate condition holds. -/
def collRun (x : X) (i : Ins) (q : Td × Td) : Res X := do
  let (d, s) := q
  let a := x.s i.op4
  let (blk, x1) ← x.load a 64 4
  let redop := fld blk 2 1
  match x.collOp with
  | none => do
    x1.check (fld blk 0 2 == 1 && redop ≤ 2 && (redop == 0 || i.func == 0 || i.func == 2) && zeroAt blk 3 1 &&
      zeroAt blk 0x10 48 && x.statusOk (fld blk 8 8)) 0x0701 4
    x1.listChk
    x1.check (fld blk 4 4 == x.cx.coll.nextSeq) 0x0701 4
    x1.check (i.func == 0 || i.func == 2 || d.fmt == s.fmt) 0x0104
    x1.check (d.size == collSize i.func s.size x.size x.rank) 0x0307
    let (codes, x2) ← x1.allCodes s
    x2.collStart [i.func, redop, fld blk 4 4, x.cx.coll.gen, s.fmt, s.e0, s.e1, s.e2, s.e3]
      (fun r => packRow s.fmt (collPart i.func x.size x.rank r codes))
  | some q =>
    match q.fin with
    | none => .error (.hold .coll none)
    | some st => x1.collEnd q st (fld blk 8 8) d (collWrite d s i.func redop q)

/-- COLL (R281 to R284). -/
def collFn (b : Body) (x : X) : Res X := x.guard b (collChk x) (collRun x)

/-! ### Expert dispatch and combine -/

/-- The expert block (Table 13.10). -/
structure ExpertP where
  k : Nat
  policy : Nat
  cap : Nat
  nexp : Nat
  home : Nat
  route : Nat
  origin : Nat
  status : Nat
deriving DecidableEq, Repr

def expertOf (b : List Byte) : ExpertP :=
  { k := fld b 2 1, policy := fld b 3 1, cap := fld b 4 4, nexp := fld b 8 4, home := fld b 0x10 8, route := fld b 0x18 8,
    origin := fld b 0x20 8, status := fld b 0x28 8 }

/-- Checks of Table 13.10's fields (R290). (log 59, DEDUCED) -/
def X.expertChk (x : X) (b : List Byte) : Res ExpertP := do
  let p := expertOf b
  x.check (fld b 0 2 == 1 && 1 ≤ p.k && p.k ≤ 8 && p.policy ≤ 1 && 1 ≤ p.cap && p.cap ≤ 65536 && 1 ≤ p.nexp && p.nexp ≤ 4096 &&
    zeroAt b 0xC 4 && zeroAt b 0x30 16 && x.statusOk p.status) 0x0706 4
  return p

/-- The parameters members compare (R290). -/
def ExpertP.params (p : ExpertP) : List Nat := [p.k, p.policy, p.cap, p.nexp]

/-- HOME: home rank and local index of each expert (Table 13.10). -/
def X.homes (x : X) (p : ExpertP) : Res (List (Nat × Nat) × X) := do
  let (bs, x1) ← x.load p.home (4 * p.nexp) 4
  return ((List.range p.nexp).map (fun e => (fld bs (4 * e) 2, fld bs (4 * e + 2) 2)), x1)

/-- A (token, choice) pair: rank, row, choice, expert and the token's spare expert (R291). -/
structure Pair where
  rank : Nat
  row : Nat
  j : Nat
  id : Nat
  spare : Nat
deriving DecidableEq, Repr

/-- A pair's slot: the expert it was placed at, the slot, and whether in the second round. -/
structure Placed where
  pair : Pair
  expert : Nat
  slot : Nat
  second : Bool
deriving DecidableEq, Repr

/-- Pairs of a member's id rows in (row, j) order; an id outside 0 to NEXP − 1 takes no part. -/
def pairsOf (p : ExpertP) (rank : Nat) (ids : List (List Nat)) : List Pair :=
  (List.range ids.length).flatMap (fun r =>
    let row := ids.getD r []
    (List.range p.k).filterMap (fun j =>
      let id := row.getD j 0xFFFFFFFF
      if id < p.nexp then some ⟨rank, r, j, id, row.getD p.k 0xFFFFFFFF⟩ else none))

/-- The two rounds over pairs in (rank, row, j) order (R291): the placed pairs. -/
def dispatch (p : ExpertP) (ps : List Pair) : List Placed :=
  let put := fun (s : List Placed × List Pair) (q : Pair) (e : Nat) (second : Bool) =>
    let n := (s.1.filter (fun w => w.expert == e)).length
    if n < p.cap then (s.1 ++ [⟨q, e, n, second⟩], s.2) else (s.1, s.2 ++ [q])
  let r1 := ps.foldl (fun s q => put s q q.id false) (([], []) : List Placed × List Pair)
  if p.policy = 1 then r1.1 else
  (r1.2.foldl (fun s q => if q.spare < p.nexp then put s q q.spare true else s) ((r1.1, []) : List Placed × List Pair)).1

/-- The outcome word of a (row, choice) on the source side (R291). -/
def routeWord (ids : List Nat) (j : Nat) (p : ExpertP) (w : Option Placed) : Nat :=
  let id := ids.getD j 0xFFFFFFFF
  if p.nexp ≤ id then 0xFFFFFFFF * 2 ^ 32
  else match w with
    | some w => w.expert * 2 ^ 32 + 2 ^ 30 + w.slot
    | none => id * 2 ^ 32 + 2 * 2 ^ 30

/-- The origin record of a slot (R291). (log 59, DEDUCED) -/
def originRec (w : Placed) : Nat := w.pair.rank + w.pair.j * 2 ^ 16 + (if w.second then 2 ^ 20 else 0) + w.pair.row * 2 ^ 24

/-- XDISP's effects once every member's rows are known (R291). -/
def xdispWrite (d s ti : Td) (p : ExpertP) (q : CollOp) (x : X) : Res X := do
  let (hs, x1) ← x.homes p
  let (ids, x2) ← mapRes x1 (List.range ti.rows) (fun y r => y.rowCodes ti r 0 ti.e0)
  let me := x.rank
  let allIds := (List.range x.size).map (fun r =>
    if r = me then ids else ((q.peers.find? (fun z => z.rank == r)).map Peer.ids).getD [])
  let placed := dispatch p ((List.range allIds.length).flatMap (fun r => pairsOf p r (allIds.getD r [])))
  let mine := placed.filter (fun w => (hs.getD w.expert (0, 0)).1 == me)
  let x3 ← foldRes x2 mine (fun y w => do
    let loc := (hs.getD w.expert (0, 0)).2
    let (cs, y1) ← if w.pair.rank = me then y.rowCodes s w.pair.row 0 s.e0
      else .ok ((((q.peers.find? (fun z => z.rank == w.pair.rank)).map Peer.rows).getD []).getD w.pair.row [], y)
    let y2 ← if loc * p.cap + w.slot < d.rows then y1.putCodes d (loc * p.cap + w.slot) 0 (cs.take d.e0) else .ok y1
    y2.store (p.origin + loc * (4 + 8 * p.cap) + 4 + 8 * w.slot) (leBytes 8 (originRec w)) 4)
  let here := (List.range p.nexp).filter (fun e => (hs.getD e (0, 0)).1 == me)
  let x4 ← foldRes x3 here (fun y e =>
    y.store (p.origin + (hs.getD e (0, 0)).2 * (4 + 8 * p.cap)) (leBytes 4 (placed.filter (fun w => w.expert == e)).length) 4)
  foldRes x4 (List.range ids.length) (fun y r =>
    y.store (p.route + 8 * p.k * r) ((List.range p.k).flatMap (fun j =>
      leBytes 8 (routeWord (ids.getD r []) j p (placed.find? (fun w => w.pair.rank == me && w.pair.row == r && w.pair.j == j))))) 4)

/-- The descriptors of XDISP. -/
def xdispChk (x : X) (i : Ins) : Res (Td × Td × Td) := do
  let d ← x.dreg i.op1 { dest := true }
  let s ← x.dreg i.op2 {}
  let t ← x.dreg i.op3 {}
  return (d, s, t)

/-- What XDISP has for member `r` (R291): every id row, and the token rows that name an expert of its own. -/
def dispData (s : Td) (nexp : Nat) (hs : List (Nat × Nat)) (ids rows : List (List Nat)) (r : Nat) : List Byte :=
  ids.flatMap (fun row => row.flatMap (leBytes 4)) ++
  ids.zipIdx.flatMap (fun t =>
    if t.1.any (fun id => id < nexp && (hs.getD id (0, 0)).1 == r) then packRow s.fmt (rows.getD t.2 []) else [])

/-- What XDISP does once its predicate condition holds. (log 59, DEDUCED) -/
def xdispRun (x : X) (i : Ins) (q : Td × Td × Td) : Res X := do
  let (d, s, t) := q
  let (blk, x1) ← x.load (x.s i.op4) 128 4
  match x.collOp with
  | none => do
    let p ← x1.expertChk blk
    x1.listChk
    x1.check (t.fmt == 9 && !t.scaled && t.rank == 2 && t.e1 == s.rows && t.e0 == p.k + 1) 0x0706
    x1.check (d.fmt == s.fmt && d.e0 == s.e0) 0x0307
    let (hs, x2) ← x1.homes p
    x2.check (hs.all (fun h => h.1 < x.size)) 0x0706 4
    let (ids, x3) ← mapRes x2 (List.range t.rows) (fun y r => y.rowCodes t r 0 t.e0)
    x3.check (ids.all (fun row => row.all (fun v => v < p.nexp || v == 0xFFFFFFFF))) 0x0706
    let (rows, x4) ← mapRes x3 (List.range s.rows) (fun y r => y.rowCodes s r 0 s.e0)
    x4.collStart p.params (dispData s p.nexp hs ids rows)
  | some q =>
    match q.fin with
    | none => .error (.hold .coll none)
    | some st => x1.collEnd q st (expertOf blk).status d (xdispWrite d s t (expertOf blk) q)

/-- XDISP (R290, R291). -/
def xdispFn (b : Body) (x : X) : Res X := x.guard b (xdispChk x) (xdispRun x)

/-- The exact value an FP64 code of a peer's row stands for. -/
def peerVal (c : Nat) : Num := fp64.decode c

/-- XCOMB's effects once the results of the other members are known (R292). -/
def xcombWrite (d s w : Td) (xd : Nat) (p : ExpertP) (q : CollOp) (x : X) : Res X := do
  let (hs, x1) ← x.homes p
  let me := x.rank
  foldRes x1 (List.range d.rows) (fun y t => do
    let (rt, y1) ← y.load (p.route + 8 * p.k * t) (8 * p.k) 4
    let (wv, y2) ← y1.rowVals w .col t 0 p.k
    let (terms, y3) ← mapRes y2 (List.range p.k) (fun z j => do
      let word := fld rt (8 * j) 8
      let wj := (wv.getD j (.i 0)).num
      match bits word 30 2 with
      | 1 =>
        let h := hs.getD (word / 2 ^ 32) (0, 0)
        let row := h.2 * p.cap + bits word 0 16
        if h.1 = me then do
          let (ys, z1) ← z.rowVals s .col row 0 s.e0
          pure (some (wj, ys.map Val.num), z1)
        else
          let rows := ((q.peers.find? (fun r => r.rank == h.1)).map Peer.rows).getD []
          pure (some (wj, (rows.getD row []).map peerVal), z)
      | 2 => do
        let xt ← z.desc xd 0 16 { srcUse with comp := false }
        let (xs, z1) ← z.rowVals xt .col t 0 xt.e0
        pure (some (wj, xs.map Val.num), z1)
      | _ => pure (none, z))
    let ts := terms.filterMap id
    let els := (List.range d.e0).map (fun c =>
      let f32 := ts.map (fun (u : Num × List Num) => rne fp32 (mulN 3 u.1 (u.2.getD c (.fin false 0 0))))
      let r := treeC (fun a b => rne fp32 (sumN false 2 [d32 a, d32 b])) (f32.map Prod.fst) 0
      ((r.1, (Ev.all (f32.map Prod.snd)).join r.2) : Nat × Ev))
    let loc := fun c => ({ cause := 0, row := t, col := c } : NanInfo)
    let y4 := (List.range els.length).foldl (fun (z : X) c => z.note ((els[c]?).map Prod.snd |>.getD Ev.none) (loc c)) y3
    let (_, y5) ← y4.putRow d t 0 (els.map (fun e => Val.f (d32 e.1))) loc
    return y5)

/-- The descriptors of XCOMB: its rows are operands of arithmetic, so S8 is refused (R32). -/
def xcombChk (x : X) (i : Ins) : Res (Td × Td × Td) := do
  let d ← x.dreg i.op1 { dest := true }
  let s ← x.dreg i.op2 { srcUse with comp := false }
  let w ← x.dreg i.op3 { fmt := (· == 1) }
  return (d, s, w)

/-- Slots of this member's experts that hold a row of each member (R291, R292): (source rank, row of the results), by local
expert then slot, read from the origin records. -/
def X.origins (x : X) (p : ExpertP) (hs : List (Nat × Nat)) : Res (List (Nat × Nat) × X) := do
  let (per, y) ← mapRes x ((hs.filter (fun h => h.1 == x.rank)).map Prod.snd) (fun z loc => do
    let at' := p.origin + loc * (4 + 8 * p.cap)
    let (nb, z1) ← z.load at' 4 4
    let n := min (ofLE nb) p.cap
    let (rb, z2) ← z1.load (at' + 4) (8 * n) 4
    return ((List.range n).map (fun k => (fld rb (8 * k) 2, loc * p.cap + k)), z2))
  return (per.flatten, y)

/-- What XCOMB does once its predicate condition holds. (log 59, DEDUCED) -/
def xcombRun (x : X) (i : Ins) (q : Td × Td × Td) : Res X := do
  let (d, s, w) := q
  let (blk, x1) ← x.load (x.s i.op4) 128 4
  match x.collOp with
  | none => do
    let p ← x1.expertChk blk
    x1.listChk
    x1.check (w.rows == d.rows && w.e0 == p.k && d.e0 == s.e0) 0x0307
    let (hs, x2) ← x1.homes p
    x2.check (hs.all (fun h => h.1 < x.size)) 0x0706 4
    let (os, x3) ← x2.origins p hs
    let away := os.filter (fun o => o.1 != x.rank && o.2 < s.rows)
    let (rows, x4) ← mapRes x3 away (fun y o => do
      let (cs, y1) ← y.rowCodes s o.2 0 s.e0
      return ((o.1, packRow s.fmt cs), y1))
    x4.collStart p.params (fun r => (rows.filter (fun q => q.1 == r)).flatMap Prod.snd)
  | some q =>
    match q.fin with
    | none => .error (.hold .coll none)
    | some st => x1.collEnd q st (expertOf blk).status d (xcombWrite d s w (fld blk 0x40 64) (expertOf blk) q)

/-- XCOMB (R290, R292). -/
def xcombFn (b : Body) (x : X) : Res X := x.guard b (xcombChk x) (xcombRun x)

end Sys2Proof.Machine
end

