-- ==== Sys2Proof/Machine/State.lean ====
section
/-!
DEFINITION. The state of the M8: the queue of waiting commands, the compute side and the units beside it; the state after
reset; and the stops a step may answer.
-/
namespace Sys2Proof.Machine

/-- The state of the block. `pending` is the queue of commands, first in, first out; `started` lists host commands read
from their queues and not yet carried out; `rebinds` the binding commands accepted and not complete (R25). (log 63, DESIGN CHOICE) -/
structure State where
  pending : List Instr
  core : Core
  nym : Nym
  eth : Eth
  lan : Lan
  dmp : Dmp
  vid : Vector Engine 4
  sec : Sec
  flash : Flash
  silicon : Silicon
  board : Board
  bg : Bg
  started : List HostCmd
  rebinds : List Rebind
deriving DecidableEq, Repr

/-- Faults of the machine as a whole: none. Every fault of the M8 is a record, a status or a refused access, held in State
(R109, R304). -/
inductive Fault where
deriving DecidableEq, Repr

/-- Refusals of the model. -/
inductive Refusal where
  /-- Raised by `exec` for a command that has no meaning yet, by its mnemonic; safe. -/
  | notModelled (mnemonic : String)
deriving DecidableEq, Repr

/-- The ration image at reset (Table 15.6): VERSION 1, PERIOD 250, two slots each, ME shares 32 and others 28, no caps,
background shares 8, 8, 255, 8, 8. -/
def rationReset : List Byte :=
  [1, 0, 0, 0] ++ leBytes 4 250 ++ List.replicate 8 2 ++ List.replicate 8 32 ++ List.replicate 32 28 ++
  [0, 0, 0, 0, 0, 0, 0, 0] ++ [8, 8, 255, 8, 8] ++ List.replicate 59 0

/-- Memory after a reset: HBM (from 0) and LPDDR5X (from 2^40) hold undefined contents (R407; log 4, DESIGN CHOICE); pantries read 0. -/
def Mem.undefined (tag : Nat) : Mem := { junk := [(0, 0x006000000000, tag), (0x010000000000, 0x010000000000, tag + 1)] }

/-- The compute side at reset: nothing known, nothing bound, every set spread (Table 12.1), every partition in Ladle mode
(Table 6.1), samplers in STARTUP (Table 10.5). (log 30, DESIGN CHOICE) -/
def Core.reset : Core :=
  { mem := Mem.undefined 0, ecc := {}, windows := [], slotRegs := [], hbmSpread := 0xFFFFFFFFFFFF, ctxs := [], packs := [], owners := [],
    ration := rationReset, nextRation := none, pool := [], poolUse := [], credits := [], usage := [], acctReg := 0, pmode := 0xFF, ftab := [], acts := [],
    tslots := Vector.replicate 16 {}, decodes := [], stalls := [], samplers := Vector.replicate 8 {}, walks := [], live := [],
    cclk := [], wclk := 0, clocks := [], reqs := [], nextTag := 0, seq := 2, clock := 0, period := 0, jnl := {}, dones := [], out := [] }

/-- The board at reset (Tables 20.4, 20.5): input and clocks present, PWR_EN accepted, rails good, RESET_N asserted. (log 30, DESIGN CHOICE) -/
def Board.reset : Board :=
  { pwrEn := true, on := true, rails := true, pgood := true, settled := true }

/-- The machine with RESET_N asserted and everything cleared: every register holds its reset value (R13, R407). (log 30, DESIGN CHOICE) -/
def State.reset : State :=
  { pending := [], core := Core.reset, nym := {}, eth := {}, lan := {}, dmp := {}, vid := Vector.replicate 4 {}, sec := {},
    flash := {}, silicon := {}, board := Board.reset, bg := {}, started := [], rebinds := [] }

end Sys2Proof.Machine
end

