-- ==== Sys2Proof/Machine/Links.lean ====
section
/-!
DEFINITION. Nymhel's link layer as it sends (13: R270 to R272): flits, credits, the retry buffer, and packets put on links.
-/
namespace Sys2Proof.Machine

/-- A message put in the outbox. (log 65, DESIGN CHOICE) -/
def State.send (s : State) (o : Out) : State := { s with core := s.core.send o }
/-- The compute side changed. -/
def State.onCore (s : State) (f : Core → Core) : State := { s with core := f s.core }
/-- The Nymhel part changed. -/
def State.onNym (s : State) (f : Nym → Nym) : State := { s with nym := f s.nym }
/-- A link. -/
def Nym.link (n : Nym) (l : Nat) : Link := n.links.toList.getD l {}
/-- A link changed. -/
def Nym.modLink (n : Nym) (l : Nat) (f : Link → Link) : Nym := { n with links := n.links.setIfInBounds l (f (n.link l)) }

/-! ### Flits and packets -/

/-- A flit (Table 13.1). (log 32, DESIGN CHOICE) -/
def flitBytes (vc kind seq ack credvc credn : Nat) (body : List Byte) : List Byte :=
  let b := patch (layout 252 [(0, 1, vc), (1, 1, kind), (2, 2, seq), (4, 2, ack), (6, 1, credvc), (7, 1, credn)]) 8 (slice body 0 240)
  b ++ leBytes 4 (crc32 b)

/-- A packet head (Table 13.3). -/
def Packet.head (p : Packet) : List Byte :=
  layout 32 [(0, 2, p.dest), (2, 2, p.src), (4, 2, p.epoch), (6, 1, p.opc), (7, 1, p.spart), (8, 4, p.tag), (0xC, 2, p.data.length),
    (0x10, 8, p.addr), (0x18, 8, p.arg)]

/-- The packet that a head and its data spell. -/
def packetOf (b : List Byte) : Packet :=
  { dest := fld b 0 2, src := fld b 2 2, epoch := fld b 4 2, opc := fld b 6 1, spart := fld b 7 1, tag := fld b 8 4,
    addr := fld b 0x10 8, arg := fld b 0x18 8, data := slice b 32 (fld b 0xC 2) }

/-- The channel a packet is injected on (Table 13.2). -/
def Packet.vc (p : Packet) : Nat :=
  if p.opc = 1 ∨ p.opc = 2 ∨ p.opc = 5 then 0
  else if 3 ≤ p.opc ∧ p.opc ≤ 7 then 1
  else if p.opc = 0x10 ∨ p.opc = 0x11 then 2 else 3

/-- Bodies of a packet's flits: 240 bytes each, the first with the head (R272). -/
def flitBodies : Nat → List Byte → List (List Byte)
  | 0, _ => []
  | n + 1, b => if b.isEmpty then [] else b.take 240 :: flitBodies n (b.drop 240)

/-! ### Sending -/

/-- Whether a flit may be sent: the link is in service, no older flit of its channel or packet waits, a credit is held, and the
retry buffer of 512 flits has room (R271, R272). -/
def Link.mayGo (k : Link) (older : List Wflit) (w : Wflit) : Bool :=
  k.state == 2 && older.all (fun o => o.vc != w.vc && o.pkt != w.pkt) && 0 < k.credits.getD w.vc 0 && k.buf.length < 512

/-- A flit sent: numbered, kept in the retry buffer, its credit spent. -/
def Link.go (k : Link) (w : Wflit) : Link × List Byte :=
  let seq := (k.txSeq + 1) % 65536
  let f := flitBytes w.vc w.kind seq k.rxSeq 0xFF 0 w.body
  ({ k with txSeq := seq, buf := k.buf ++ [(seq, w.epoch, f)], credits := k.credits.modify w.vc (· - 1) }, f)

/-- Flits that wait on a link, sent in age order as far as they may be: the link, the flits sent, and the buffers that
flits in transit leave. -/
def Link.sendAll : List Wflit → List Wflit → Link → Link × List (List Byte) × List (Nat × Nat)
  | [], kept, k => ({ k with waiting := kept }, [], [])
  | w :: t, kept, k =>
    if k.mayGo kept w then
      let q := k.go w
      let r := Link.sendAll t kept q.1
      (r.1, q.2 :: r.2.1, w.origin.toList ++ r.2.2)
    else Link.sendAll t (kept ++ [w]) k

/-- Flit buffers of a channel returned to the peer, in a null flit (R270, R272); kept until the link is in service. -/
def State.credit (s : State) (l vc n : Nat) : State :=
  let k := s.nym.link l
  if n = 0 then s
  else if k.state ≠ 2 then s.onNym (fun m => m.modLink l (fun k => { k with owed := k.owed ++ [(vc, n)] }))
  else s.send (.flit l (flitBytes 0 0 k.txSeq k.rxSeq vc n []))

/-- Flit buffers returned, one for each channel listed. -/
def State.creditAll (s : State) (l : Nat) (vcs : List Nat) : State :=
  (List.range 5).foldl (fun (a : State) v => a.credit l v (vcs.filter (· == v)).length) s

/-- A link's waiting flits sent as far as they may be. -/
def State.drain (s : State) (l : Nat) : State :=
  let k := s.nym.link l
  let r := Link.sendAll k.waiting [] k
  let s1 := r.2.1.foldl (fun (a : State) f => a.send (.flit l f)) (s.onNym (fun n => n.modLink l (fun _ => r.1)))
  r.2.2.foldl (fun (a : State) o => a.credit o.1 o.2 1) s1

/-- A packet put on a link; `origin` gives the link and channels whose buffers its flits occupy, for one in transit: each flit
stays on the channel it came on, and a flit of a packet of this module takes channel `vc` (R272). -/
def State.inject (s : State) (l vc : Nat) (p : Packet) (origin : Option (Nat × List Nat)) : State :=
  let b := p.head ++ p.data
  let n := (s.nym.link l).pkts
  let fs := (flitBodies (b.length / 240 + 1) b).zipIdx.map (fun x =>
    let on := (origin.map (fun o => o.2.getD x.2 vc)).getD vc
    ({ vc := on, kind := if x.2 = 0 then 1 else 2, body := x.1, origin := origin.map (fun o => (o.1, on)), pkt := n,
       epoch := p.epoch } : Wflit))
  (s.onNym (fun m => m.modLink l (fun k => { k with waiting := k.waiting ++ fs, pkts := n + 1 }))).drain l

/-- Packets that a command put in the outbox, put on their links in order. (log 32, DESIGN CHOICE) -/
def State.pump (s : State) : State :=
  let ps := s.core.out.filterMap (fun o => match o with | .packet l p => some (l, p) | _ => none)
  let rest := s.core.out.filter (fun o => match o with | .packet _ _ => false | _ => true)
  ps.foldr (fun q (a : State) => a.inject q.1 q.2.vc q.2 none) (s.onCore (fun c => { c with out := rest }))

end Sys2Proof.Machine
end

