-- ==== Sys2Proof/Machine/Services.lean ====
section
/-!
DEFINITION. What Lantern does for every other unit: whom a path acts for (R298, R305), journal sources (R387), completions
(R303, R304), telemetry events (R393), ALERT_N causes (R412), and what is noticed at the end of each command.
-/
namespace Sys2Proof.Machine

/-! ### Paths -/

/-- The partition a queue pair acts for; none for the operator (R298). -/
def Core.qpPart (c : Core) (qp : Nat) : Option Nat :=
  let o := c.owner 5 (qp / 64)
  if o < 8 then some o else none

/-- The partition a path acts for; none for the operator (R305, R307, R310). -/
def Core.pathPart (c : Core) : Path → Option Nat
  | .roce qp => c.qpPart qp
  | .mailbox _ => none
  | .mctp _ _ => none

/-- The number a record carries for a party: its partition, 0xFFFF the operator. -/
def partField (p : Option Nat) : Nat := p.getD 0xFFFF

/-- A queue pair. -/
def Eth.qp (e : Eth) (n : Nat) : Qp := (lookup e.qps n).getD {}
/-- A queue pair changed. -/
def Eth.setQp (e : Eth) (n : Nat) (q : Qp) : Eth := { e with qps := insertKey n q e.qps }
/-- A command queue. -/
def Eth.queue (e : Eth) (n : Nat) : Queue := (lookup e.queues n).getD {}
/-- A command queue changed. -/
def Eth.setQueue (e : Eth) (n : Nat) (q : Queue) : Eth := { e with queues := insertKey n q e.queues }
/-- A port. -/
def Eth.port (e : Eth) (n : Nat) : Port := e.ports.toList.getD n {}
/-- A port changed. -/
def Eth.modPort (e : Eth) (n : Nat) (f : Port → Port) : Eth := { e with ports := e.ports.setIfInBounds n (f (e.port n)) }

/-- A value the spec does not state (log 10, DESIGN CHOICE). -/
def State.free (s : State) : Nat × State := (Config.freeNat s.core.seq, s.onCore (fun c => { c with seq := c.seq + 1 }))

/-! ### Frames sent -/

/-- A frame sent by a port with a priority (Table 14.1, Table 14.2): tagged with the port's VLAN ID, 0 for none; held back while the
port's partner pauses that priority. -/
def State.wire (s : State) (port prio : Nat) (o : Out) : State :=
  let p := s.eth.port port
  if p.paused.contains prio then { s with eth := { s.eth with held := s.eth.held ++ [(port, prio, o)] } }
  else s.send (.wire port (bits p.ctl 40 12) prio o)

/-- A frame of a queue pair: its port and its priority. -/
def State.wireQp (s : State) (qp : Nat) (o : Out) : State := s.wire (s.eth.qp qp).port (s.eth.qp qp).prio o

/-- A frame that no queue pair assigns, of ARP, neighbour discovery, ICMP and QP1: the port's default priority (Table 14.2). -/
def State.wirePort (s : State) (port : Nat) (o : Out) : State := s.wire port (bits (s.eth.port port).ctl 37 3) o

/-- A SEND or an RDMA WRITE of the M8 on a queue pair (R297, R306): sent, and kept, with the sequence number of its last packet, until
that is acknowledged. -/
def State.request (s : State) (qp : Nat) (o : Out) (b : List Byte) : State :=
  let q := s.eth.qp qp
  let last := q.npsn + (b.length - 1) / q.mtu
  let s1 := s.wireQp qp o
  { s1 with eth := s1.eth.setQp qp { q with npsn := (last + 1) % 2 ^ 24, unacked := q.unacked ++ [(last % 2 ^ 24, b)] } }

/-- The journal's name of the party at a path (Table 19.4). -/
def State.srcOf (s : State) (p : Path) : Src :=
  match p with
  | .roce qp => { typ := 1, id := qp, port := (s.eth.qp qp).port, part := partField (s.core.qpPart qp) }
  | .mailbox n => { typ := 4, id := n }
  | .mctp false a => { typ := 2, id := a }
  | .mctp true a => { typ := 3, id := a }

/-- An entry written to the journal, once the boot entry stands (R391). -/
def State.journal (s : State) (src : Src) (e : JEntry) : State :=
  if s.sec.journalled then { s with core := s.core.journal src e } else s

/-! ### Registers that telemetry repeats -/

/-- A die under the Damper. -/
def Dmp.die (d : Dmp) (n : Nat) : Die := d.dies.toList.getD n {}
/-- A die changed. -/
def Dmp.modDie (d : Dmp) (n : Nat) (f : Die → Die) : Dmp := { d with dies := d.dies.setIfInBounds n (f (d.die n)) }
/-- Every die changed. -/
def Dmp.allDies (d : Dmp) (f : Die → Die) : Dmp := { d with dies := d.dies.map f }

/-- The highest of the valid sensors and another reading, if it is given. (log 39, DEDUCED) -/
def hottest (v : Vector Sensor 16) (other : Option Int) : Int :=
  let l := other.toList ++ (v.toList.filter Sensor.valid).map Sensor.reading
  l.foldl max (l.headD 50)

/-- A flag in bit `i`. -/
def flag (b : Bool) (i : Nat) : Nat := if b then 2 ^ i else 0

/-- DMP_STAT (Table 16.4). -/
def Dmp.stat (d : Dmp) : Nat :=
  flag d.pwrbrk 63 + flag d.vtfall 62 + flag d.calhold 61 + d.measw % 2 ^ 16 * 2 ^ 32 + d.estw % 2 ^ 16 * 2 ^ 16 + d.vin % 2 ^ 16

/-- LAN_BIVSTAT (R400). -/
def Lan.bivStat (l : Lan) : Nat := flag l.bivActive 63 + l.bivCause * 2 ^ 8 + l.bivCount

/-! ### Telemetry -/

/-- CCLK counters of the eight dies, 0 for an unpowered one (Table 19.7). -/
def State.cclks (s : State) : List Nat × Core :=
  (List.range 8).foldl (fun (r : List Nat × Core) d =>
    if (s.dmp.die d).powered then
      let q := r.2.readCclk d
      (r.1 ++ [q.1], q.2)
    else (r.1 ++ [0], r.2)) ([], s.core)

/-- A telemetry record formed (Table 19.7): its bytes, and the state with its number taken. -/
def State.telRecord (s : State) (kind ev : Nat) (det : List Byte) : List Byte × State :=
  let q := s.cclks
  let w := q.2.readWclk
  let n := s.lan.tseq + 1
  let b := layout 192 [(0, 2, 1), (2, 1, kind), (3, 1, ev), (4, 2, s.nym.devnum), (8, 8, n), (0x10, 8, w.1), (0x18, 8, w.2.jnl.head),
    (0x70, 8, s.dmp.stat), (0x78, 8, s.lan.bivStat)]
  let tj := (List.range 8).flatMap (fun d => leBytes 1 (s.dmp.die d).tj)
  let op := (List.range 8).flatMap (fun d => leBytes 1 (s.dmp.die d).op)
  (patch (patch (patch (patch b 0x20 (q.1.flatMap (leBytes 8))) 0x60 tj) 0x68 op) 0x80 (slice det 0 64),
   { s with core := w.2, lan := { s.lan with tseq := n } })

/-- Whether a queue pair is served: in bivouac mode only the kept set's pairs are (R398). -/
def State.serves (s : State) (qp : Nat) : Bool := !s.lan.bivActive || s.lan.keptPort.any (fun k => k.2 == qp / 64)

/-- Whether a telemetry record can be sent now: QP is of an unbound set, connected and not in error (R393). -/
def State.telReady (s : State) : Bool :=
  s.lan.telEn && (s.core.qpPart s.lan.telQp).isNone && (s.eth.qp s.lan.telQp).state == .ready && s.serves s.lan.telQp

/-- Records sent on QP while it can carry them. -/
def State.telFlush (s : State) : State :=
  if s.telReady then
    (s.lan.telQueue ++ s.lan.telPeriodic.toList).foldl (fun (a : State) b => a.request s.lan.telQp (.telemetry b) b)
      { s with lan := { s.lan with telQueue := [], telPeriodic := none } }
  else s

/-- An event record formed and queued; the oldest of 64 waiting is dropped and counted (R393). -/
def State.telEvent (s : State) (ev : Nat) (det : List Byte) : State :=
  if ¬ s.lan.telEn then s else
  let r := s.telRecord 1 ev det
  let l := r.2.lan
  let q := l.telQueue ++ [r.1]
  let l' := if 64 < q.length then { l with telQueue := q.drop 1, telLost := satInc l.telLost 0xFFFFFFFF } else { l with telQueue := q }
  ({ r.2 with lan := l' } : State).telFlush

/-- A PLDM platform event sent to the receiver that SetEventReceiver named (R310): 0 a threshold crossing, 1 an
uncorrectable error, 2 bivouac entry. (log 46, PRESUMED) -/
def State.platform (s : State) (kind value : Nat) : State :=
  if s.lan.evReceiver = 0 then s else s.send (.event "PlatformEventMessage" kind value)

/-- A bit of LAN_ALERT set (R412). -/
def State.alert (s : State) (i : Nat) : State := { s with lan := { s.lan with alert := s.lan.alert ||| (1 <<< i) } }

/-- A fault recorded in the journal by Lantern (Table 19.5, KIND 3); one found before the boot entry stands follows it. (log 50, DEDUCED) -/
def State.noteFault (s : State) (code : Nat) (detail : List Byte := []) : State :=
  if s.sec.journalled then s.journal Src.lantern { kind := 3, code := code, detail := detail }
  else { s with sec := { s.sec with found := s.sec.found ++ [(false, code, detail)] } }

/-! ### Completions -/

/-- A completion record (Table 14.13). -/
def recBytes (cmdid status flags result info lcount : Nat) : List Byte :=
  layout 32 [(0, 2, cmdid), (2, 2, status), (4, 1, flags), (8, 8, result), (0x10, 8, info), (0x18, 8, lcount)]

/-- The fault record of a request of the management path or a host (R109): no strand, no ME; the WCLK counter. -/
def requestFault (code src ctx part lcount : Nat) (detail : List Byte) : List Byte :=
  faultRecord code src ctx 0xFFFF 0 0xFFFFFFFF 0 0xFF part lcount detail

/-- An unsolicited record for the ring of a queue pair (R304, R309, R356). -/
def State.unsolicited (s : State) (qp cmdid status result info : Nat) : State :=
  { s with eth := { s.eth with recs := s.eth.recs ++
    [{ qp := qp, cmdid := cmdid, status := status, unsol := true, result := result, info := info, event := false }] } }

/-- A completion answered through its path (R304, R310): a queue's record waits for its ring; MCTP and mailbox requests are
answered at once, with the fault record of a fault. -/
def State.answerDone (s : State) (d : Done) : State :=
  let w := s.core.readWclk
  let fr := if d.status = 0 then [] else requestFault d.status d.src d.ctx d.part w.1 d.detail
  let s1 := { s with core := w.2 }
  match d.cmd.path with
  | .roce qp =>
    let q := s1.eth.queue qp
    let e := s1.eth.setQueue qp { q with running := q.running - 1 }
    let rec1 : Rec := { qp := qp, cmdid := d.cmd.id, status := d.status, unsol := false, result := d.result, info := 0, event := d.cmd.event
                        frec := if d.status = 0 ∨ d.cmd.frec = 0 then none else some (d.cmd.frec, fr) }
    { s1 with eth := { e with recs := e.recs ++ [rec1] } }
  | p => s1.send (.record p (recBytes d.cmd.id d.status 0 d.result 0 w.1 ++ fr ++ d.extra))

/-! ### Refusals -/

/-- A refusal reported through the path its request took (R304, R11): an unsolicited record, or an answer. -/
def State.refuse (s : State) (p : Path) (code a : Nat) : State :=
  match p with
  | .roce qp => s.unsolicited qp 0xFFFF code 0 a
  | _ => s.send (.answer p code a)

/-- The fault record of a request of a path that has no completion to carry it (R109, R262): SOURCE 3, with its DETAIL. (log 65,
DESIGN CHOICE) -/
def State.reportFault (s : State) (p : Path) (code : Nat) (detail : List Byte) : State :=
  let t := s.core.readWclk
  ({ s with core := t.2 } : State).send (.record p (requestFault code 3 0xFFFF (partField (s.core.pathPart p)) t.1 detail))

/-- The queue pair of a path enters the error state (R299). -/
def State.qpError (s : State) (p : Path) : State :=
  match p with
  | .roce qp => { s with eth := s.eth.setQp qp { s.eth.qp qp with state := .error } }
  | _ => s

/-- A message to the requester that its RDMA request is refused: a NAK, and the error state (R299). -/
def State.nak (s : State) (p : Path) (what : String) : State :=
  match p with
  | .roce qp => (s.wireQp qp (.roce qp what [])).qpError p
  | _ => s

/-- A refusal of an access to a local address as its path reports it (R299, R304): through RoCE an unmapped address is
answered with a NAK alone, a breach of permission with a NAK and a record, any other refusal with a record. -/
def State.refuseAccess (s : State) (p : Path) (code a : Nat) : State :=
  match p with
  | .roce _ =>
    if code = 0x0201 then s.nak p "NAK remote access error"
    else if code = 0x0804 then (s.nak p "NAK remote access error").refuse p code a
    else s.refuse p code a
  | _ => s.refuse p code a

/-- A remote access of a queue pair refused by the holding module, or ended (R289, R299, R421): what cannot be read, and what
management ended, are operational errors. (log 50, DEDUCED) -/
def State.qpRefused (s : State) (qp code a : Nat) : State :=
  if code = 0x0201 then s.refuseAccess (.roce qp) 0x0201 a
  else if code = 0x0210 ∨ code = 0x0705 then (s.nak (.roce qp) "NAK remote operational error").refuse (.roce qp) code a
  else (s.nak (.roce qp) "NAK remote access error").refuse (.roce qp) (if code = 0x0202 then 0x0804 else code) a

/-! ### Context states -/

/-- Whether a wait is one of Table 15.3's BLOCKED: FWAIT, BAR, a remote transfer or a collective. (log 44, DEDUCED) -/
def Wait.blocks : Wait → Bool
  | .flag _ _ _ | .barrier _ _ | .remote _ _ | .panels _ _ | .remoteFlag _ _ _ _ | .memb | .coll | .acks => true
  | .splitK _ _ | .arrive _ _ | .walk _ | .tgen _ => false

/-- Whether every started strand waits for what R320 names: FWAIT, or BAR of scope 3. (log 44, DEDUCED) -/
def Wait.parks : Wait → Bool
  | .flag _ _ _ => true
  | .remoteFlag _ kind _ _ => kind < 4
  | .barrier scope _ => scope == 3
  | _ => false

/-- States of a context (Table 15.3). -/
inductive CtxState where
  | idle | runnable | blocked | faulted
deriving DecidableEq, Repr

/-- The state of a context (Table 15.3, R320). A context with a NaN trap is held (R58). -/
def Context.state (cx : Context) : CtxState :=
  let all := fun (f : Wait → Bool) => !cx.strands.isEmpty && cx.strands.all (fun p => p.2.held.any (fun h => f h.wait))
  if cx.faulted || cx.trap.isSome then .faulted
  else if cx.strands.isEmpty && cx.launches.isEmpty then .idle
  else if cx.slot.isSome then (if all Wait.blocks then .blocked else .runnable)
  else if all Wait.parks && !cx.woken then .blocked else .runnable

/-- A time kept while a condition holds: unchanged if already kept, `now` when it begins, 0 when it does not hold. -/
def keepSince (b : Bool) (old now : Nat) : Nat := if b then (if old = 0 then now else old) else 0

/-- The times of a context brought up to date (R319). -/
def Context.touch (cx : Context) (now : Nat) : Context :=
  let st := cx.state
  { cx with
    idleSince := keepSince (st == .idle) cx.idleSince now
    blockedSince := keepSince (st == .blocked) cx.blockedSince now
    residentSince := keepSince cx.slot.isSome cx.residentSince now
    runnableSince := keepSince (st == .runnable) cx.runnableSince now }

/-- The clock of scheduling events advanced, and every context's times brought up to date. -/
def Core.touch (c : Core) : Core :=
  { c with clock := c.clock + 1, ctxs := c.ctxs.map (fun p => (p.1, p.2.touch (c.clock + 1))) }

/-! ### Samplers -/

/-- A sampler changed, and each change of STATE reported (R232, R393). -/
def State.sampler (s : State) (d : Nat) (f : Sampler → Sampler) : State :=
  let old := (s.core.samplers.toList.getD d {}).state
  let s1 := s.onCore (fun c => c.modSampler d f)
  let new := (s1.core.samplers.toList.getD d {}).state
  if old = new then s1 else s1.telEvent 2 (leBytes 1 d ++ leBytes 1 old ++ leBytes 1 new)

/-- Wanted self-tests begun that no normal-mode request holds back any longer (R232). -/
def State.samplerTests (s : State) : State :=
  (List.range 8).foldl (fun (a : State) d => if a.core.testDue d then a.sampler d samplerDue else a) s

/-! ### The end of a command -/

/-- An uncorrectable word counted: ALERT_N, telemetry event 1 and the platform event (R265, R310, R393). -/
def State.noticeUE (s : State) (u : Nat × Nat) : State :=
  ((s.alert 0).telEvent 1 (leBytes 1 u.1 ++ leBytes 8 (2 ^ 63 + u.2 / 64 * 64))).platform 1 u.1

/-- The value of a word of 8 bytes as a check of it finds it now: none in an uncorrectable word (R262). The read of a submit's flag is
made when the submit starts, and then counts and writes back (R261, R265). (log 40, DEDUCED) -/
def Core.peek (c : Core) (a : Nat) : Option Nat :=
  let r := scanRange c.space c.mem c.ecc a 8
  if r.2.2.isSome then none else some (ofLE (r.1.read a 8))

/-- Whether a submit's flag has the value it waits for (R354, R355); the flag lies in a resident context's pantry range. -/
def State.flagReady (s : State) (part : Nat) (b : Submit) : Bool :=
  let a := localOf b.ready
  b.ready == 0 ||
  (ownAddr s.nym.devnum b.ready && s.core.ctxs.any (fun k => k.2.part == part && k.2.slot.isSome && inRanges k.2.pantry a 8) &&
    (s.core.peek a).any (fun v => b.readyVal ≤ v))

/-- Submits of an engine that have become eligible are numbered in that order, ties by ascending stream number (R355). -/
def State.ageEngine (s : State) (g : Engine) : Engine :=
  g.streams.foldl (fun (a : Engine) t =>
    match t.2.subs with
    | b :: rest =>
      if b.age.isNone ∧ s.flagReady t.2.part b then
        { a with ages := a.ages + 1, streams := insertKey t.1 { t.2 with subs := { b with age := some (a.ages + 1) } :: rest } a.streams }
      else a
    | [] => a) g

/-- What follows each command: uncorrectable words noticed, commands completed, packets put on their links,
video submits that become eligible, and times. -/
def State.settle (s : State) : State :=
  let s1 := s.core.ecc.news.foldl State.noticeUE { s with core := { s.core with ecc := { s.core.ecc with news := [], back := [] } } }
  let s2 := s1.core.dones.foldl State.answerDone { s1 with core := { s1.core with dones := [] } }
  let s3 := s2.pump
  { s3 with core := s3.core.touch, vid := s3.vid.map s3.ageEngine }

/-- The outcome of a command: the next state, once Lantern has noticed what it did. -/
def answer (s : State) : Host.Outcome State Fault Refusal := .next s.settle

/-! ### The environment of a context's strands -/

/-- The port of a destination in a bank (R274): none where it is unreachable. -/
def Bank.port (b : Bank) (d : Nat) : Option Nat := (lookup b.entries d).map Prod.fst

/-- The link a packet of partition `part` to device `d` is injected on (R278): none where there is no route, or its link is
bound to another partition. -/
def State.route (s : State) (part d : Nat) : Option Nat :=
  match s.nym.active.bind (fun b => b.port d) with
  | some p =>
    let o := s.core.owner 4 p
    if p < 24 ∧ (o = 0xFF ∨ o = part) then some p else none
  | none => none

/-- The lowest operating point of a powered die (R286), 0 where none is powered. -/
def Dmp.low (d : Dmp) : Nat := (((d.dies.toList.filter Die.powered).map Die.op).min?).getD 0

/-- Epoch of the packets this module injects (R274). -/
def State.epoch (s : State) : Nat := (s.nym.active.map Bank.epoch).getD 0

/-- What strands of partition `part` see of the rest of the module. -/
def State.env (s : State) (part : Nat) : Env :=
  { dev := s.nym.devnum, route := s.route part, epoch := s.epoch, low := s.dmp.low }

/-- What the strands of context `k` see. -/
def State.envOf (s : State) (k : Nat) : Env := s.env (((lookup s.core.ctxs k).map Context.part).getD 0)

end Sys2Proof.Machine
end

