-- ==== Sys2Proof/Machine/Image.lean ====
section
/-!
DEFINITION. Context images (R264, R321 to R323, Table 15.5): what a save writes, what a restore checks and reads. The layout
inside the context body and inside the spans Table 15.5 names without offsets is the model's (log 27, DESIGN CHOICE).
-/
namespace Sys2Proof.Machine

/-! ### Sizes -/

/-- Body length of a strand section (Table 15.5). -/
def strandBody (acm : Nat) : Nat := 32768 + 4096 * acm + 2097152

/-- IMAGESIZE (R322). -/
def imageSize (a dies len : Nat) : Nat := 128 + 65600 + 128 * (2129984 + 4096 * a) + dies * (64 + 65536 * len)

/-- Dies in a pantry mask. -/
def maskDies (mask : Nat) : List Nat := (List.range 8).filter (bit mask)

/-- The largest ACMALLOC of a pack's entry points (R322). -/
def Pack.acmMax (p : Pack) : Nat := (p.entries.map Entry.acmAlloc).foldl max 0

/-! ### Reading with a list of bad words -/

/-- A range read for a save (R264): its bytes as read, the memory after the check, and the words found uncorrectable. -/
def scanBad (sp : Space) (m : Mem) (e : Ecc) (a n : Nat) : List Byte × Mem × Ecc × List Nat :=
  let r := (errWords sp e a n).foldl (fun (r : Mem × Ecc × List Nat) w =>
    let q := scanWord sp r.1 r.2.1 w
    (q.1, q.2.1, if q.2.2 then r.2.2 ++ [w] else r.2.2)) (m, e, [])
  let bs := r.2.2.foldl (fun bs w => patch bs (w - a) (flipWord r.1 w ((lookup r.2.1.errs (sp.off + w / 64)).getD []))) (r.1.read a n)
  (bs, r.1, r.2.1, r.2.2)

/-- Errors of a range of words forgotten. -/
def Ecc.forget (e : Ecc) (sp : Space) (a n : Nat) : Ecc :=
  let out := fun (x : Nat) => x < sp.off + a / 64 || sp.off + (a + n + 63) / 64 ≤ x
  { e with errs := e.errs.filter (fun x => out x.1), bad := e.bad.filter out, once := e.once.filter out }

/-- A word entered in the bad-word table of its memory (R264): every read of it faults until it is wholly rewritten. -/
def Ecc.markBad (e : Ecc) (sp : Space) (w : Nat) : Ecc := e.enterBad (sp.off + w / 64)

/-- A bad-word list of at most `cap` word numbers; its count is 0xFF when it overflowed. -/
def badList (cap : Nat) (ws : List Nat) : List Byte :=
  if cap < ws.length then leBytes 1 0xFF else slice (leBytes 1 ws.length ++ List.replicate 15 0 ++ ws.flatMap (leBytes 4)) 0 (16 + 4 * cap)

/-- Whether a bad-word list overflowed. -/
def badOver (l : List Byte) : Bool := fld l 0 1 == 0xFF
/-- The word numbers of a bad-word list. -/
def badWords (l : List Byte) : List Nat := (List.range (fld l 0 1)).map (fun j => fld l (16 + 4 * j) 4)

/-- Words of the OSP or ACM of strand index `i` of context `k`, placed on ME `me`. -/
def tileSpaceOf (k i me : Nat) (acm : Bool) : Space :=
  let o := if acm then 0x200000 else 0
  ⟨2 ^ 50 + (k * 128 + i) * 2 ^ 16 + o / 64, fun _ => 0x28 + me / 16, fun w => winBase + me * 0x400000 + o + w⟩

/-! ### Strand bodies -/

/-- A wait as five numbers (log 27, DESIGN CHOICE). -/
def Wait.code : Wait → List Nat
  | .flag a c v => [1, a, c, v, 0]
  | .barrier s n => [2, s, n, 0, 0]
  | .remote a n => [3, a, n, 0, 0]
  | .remoteFlag a k v v2 => [4, a, k, v, v2]
  | .panels a n => [5, a, n, 0, 0]
  | .splitK a v => [6, a, v, 0, 0]
  | .arrive a v => [7, a, v, 0, 0]
  | .walk o => [8, o, 0, 0, 0]
  | .memb => [9, 0, 0, 0, 0]
  | .tgen s => [10, s, 0, 0, 0]
  | .coll => [11, 0, 0, 0, 0]
  | .acks => [12, 0, 0, 0, 0]

/-- The wait five numbers spell; none for no wait. A load that had not completed is executed again (R108). -/
def Wait.ofCode (k a b c d : Nat) : Option Wait :=
  match k with
  | 1 => some (.flag a b c)
  | 2 => some (.barrier a b)
  | 4 => some (.remoteFlag a b c d)
  | 6 => some (.splitK a b)
  | 7 => some (.arrive a b)
  | 8 => some (.walk a)
  | 9 => some .memb
  | 10 => some (.tgen a)
  | 11 => some .coll
  | 12 => some .acks
  | _ => none

/-- One accumulation record of 192 bytes (R321). (log 27, DESIGN CHOICE) -/
def accRecord (t : Nat) (a : Acc) : List Byte :=
  patch (layout 192 [(0, 1, t + 1), (1, 1, a.kind.code), (2, 1, flag a.dirty 0 + flag a.sat 1 + flag a.rdnz 2 + flag a.finished 3),
    (3, 1, a.stack.length), (4, 1, a.depth), (5, 8, a.kext), (0x0D, 8, a.gstart), (0x15, 8, a.next), (0x1D, 4, a.row), (0x21, 4, a.col)])
    0x25 (a.stack.flatMap (fun e => leBytes 1 e.1 ++ leBytes 4 e.2))

/-- The accumulation a record holds, with its slot. -/
def accOf (b : List Byte) : Option (Nat × Acc) :=
  if fld b 0 1 = 0 then none else
  let f := fld b 2 1
  some (fld b 0 1 - 1,
    { kind := (AccKind.ofCode (fld b 1 1)).getD .acc, depth := fld b 4 1, kext := fld b 5 8, gstart := fld b 0x0D 8, next := fld b 0x15 8, dirty := bit f 0,
      stack := (List.range (fld b 3 1)).map (fun j => (fld b (0x25 + 5 * j) 1, fld b (0x26 + 5 * j) 4)),
      sat := bit f 1, rdnz := bit f 2, row := fld b 0x1D 4, col := fld b 0x21 4, finished := bit f 3 })

/-- The first 32,768 bytes of a strand body (Table 15.5), its bad-word list apart. (log 27, DESIGN CHOICE) -/
def strandRegs (r : Strand) (tm : TileMem) : List Byte :=
  let w := match r.held with | some h => h.wait.code | none => [0, 0, 0, 0, 0]
  let p := (List.range 8).foldl (fun n j => n + flag (r.p.toList.getD j false) j) 0
  let b0 := layout 32768 [(0, 8, r.pc.toNat), (8, 8, r.prg.toNat), (0x10, 1, p), (0x14, 4, r.acks), (0x18, 4, r.launch), (0x1C, 1, r.count),
    (0x1D, 1, r.prefer), (0x1F, 1, w.getD 0 0), (0x20, 8, w.getD 1 0), (0x28, 8, w.getD 2 0), (0x30, 8, w.getD 3 0), (0x38, 8, w.getD 4 0)]
  let b1 := patch b0 0x100 (r.s.toList.flatMap (fun x => leBytes 8 x.toNat))
  let b2 := patch b1 0x200 (r.d.toList.flatMap (fun x => leBytes 64 x.toNat))
  let b3 := patch b2 0x600 (r.v.toList.flatMap (fun x => x.toList.flatMap (fun l => leBytes 4 l.toNat)))
  let b4 := patch b3 0x2600 ((tm.accs.take 64).flatMap (fun a => accRecord a.1 a.2))
  let b5 := patch b4 0x5720 ([r.list.entries, r.list.points, r.list.seen, r.list.base].flatMap (leBytes 8))
  match r.held with
  | some h => patch b5 0x5700 (leBytes 1 h.op ++ leBytes 1 (flag h.trapOn 0) ++ leBytes 15 h.body.toNat)
  | none => b5

/-- The strand of index `i` that a body and its section header give (R321): its rank is its index less its base. -/
def strandOf (i base acm : Nat) (b : List Byte) : Strand :=
  let wait := Wait.ofCode (fld b 0x1F 1) (fld b 0x20 8) (fld b 0x28 8) (fld b 0x30 8) (fld b 0x38 8)
  { launch := fld b 0x18 4, rank := i - base, count := fld b 0x1C 1, base := base, acmAlloc := acm, me := none
    s := Vector.ofFn (fun j => BitVec.ofNat 64 (fld b (0x100 + 8 * j.val) 8))
    d := Vector.ofFn (fun j => BitVec.ofNat 512 (fld b (0x200 + 64 * j.val) 64))
    p := Vector.ofFn (fun j => bit (fld b 0x10 1) j.val)
    v := Vector.ofFn (fun j => Vector.ofFn (fun l => BitVec.ofNat 32 (fld b (0x600 + 256 * j.val + 4 * l.val) 4)))
    pc := BitVec.ofNat 64 (fld b 0 8), prg := BitVec.ofNat 64 (fld b 8 8)
    held := wait.map (fun w => ⟨w, fld b 0x5700 1, BitVec.ofNat 120 (fld b 0x5702 15), bit (fld b 0x5701 1) 0⟩)
    arrived := [], acks := fld b 0x14 4, prefer := fld b 0x1D 1 % 16, stalled := false
    list := ⟨fld b 0x5720 8, fld b 0x5728 8, fld b 0x5730 8, fld b 0x5738 8⟩ }

/-- What the module keeps of a strand while its context is saved: its wait, and what still arrives for it (R108, R320). (log 45, DEDUCED) -/
def Strand.parked (r : Strand) : Strand :=
  { r with me := none, s := Vector.replicate 32 0, d := Vector.replicate 16 0, p := Vector.replicate 8 false,
           v := Vector.replicate 32 (Vector.replicate 64 0), prg := 0, list := {}
           arrived := match r.held with
             | some h => (match h.wait with | .remoteFlag _ _ _ _ => r.arrived | _ => [])
             | none => [] }

/-- A restored strand with what arrived for it meanwhile (R108). (log 45, DEDUCED) -/
def Strand.joined (r old : Strand) : Strand := { r with acks := old.acks, arrived := old.arrived, stalled := old.stalled }

/-! ### The context body -/

/-- Registers of a histogram set (Tables 2.11 to 2.13). -/
def histBytes (h : Hist) : List Byte :=
  leBytes 8 (h.base * 2 ^ 32 + flag h.en 0) ++ leBytes 8 h.tiles ++ (List.range 64).flatMap (fun n => leBytes 8 ((lookup h.bins n).getD 0))

def histOf (b : List Byte) : Hist :=
  { base := fld b 4 2, en := bit (fld b 0 8) 0, tiles := fld b 8 8,
    bins := ((List.range 64).map (fun n => (n, fld b (16 + 8 * n) 8))).filter (fun p => p.2 != 0) }

/-- Registers of the slot, as a context body holds them. -/
def numBytes (n : NumRegs) : List Byte :=
  [NumRegs.read n .numctl, n.read .fpflags, n.read .nanrec, n.read .fltring, n.read .fltstat, n.read .fitstat, n.read .rcpstat].flatMap (leBytes 8)

def numOf (b : List Byte) : NumRegs :=
  { nantrap := bit (fld b 0 8) 0, fpflags := BitVec.ofNat 7 (fld b 8 8), nanrec := fld b 16 8, ringAddr := fld b 24 8 / 4096 * 4096,
    ringLog := fld b 24 8 % 16, head := fld b 32 2, tail := fld b 34 2, dropped := fld b 36 2,
    h0 := histOf (slice b 0x100 528), h1 := histOf (slice b 0x310 528), h2 := histOf (slice b 0x520 528), h3 := histOf (slice b 0x730 528),
    fitCount := fld b 40 4, fitLast := fld b 44 1, rcpCount := fld b 48 4, rcpLast := fld b 52 1 }

/-- A launch in 32 bytes. (log 27, DESIGN CHOICE) -/
def launchBytes (l : Launch) : List Byte :=
  layout 32 [(0, 4, l.num), (4, 2, l.entry), (6, 1, l.count), (7, 1, flag l.base.isSome 0), (8, 1, l.base.getD 0), (0x10, 8, l.arg)]

def launchOf (b : List Byte) : Launch :=
  { num := fld b 0 4, entry := fld b 4 2, count := fld b 6 1, base := if fld b 7 1 = 0 then none else some (fld b 8 1), arg := fld b 0x10 8, cmd := none }

/-- Arrivals at barriers, one each 32 bytes. (log 27, DESIGN CHOICE) -/
def barBytes (q : Bar) : List Byte :=
  q.arrived.flatMap (fun r => layout 32 [(0, 4, q.launch), (4, 1, q.scope), (5, 1, q.num), (6, 2, q.group), (8, 1, r), (9, 1, flag q.fin.isSome 0 + flag q.told 1),
    (0x10, 8, q.fin.getD 0)])

/-- Barriers rebuilt from their arrivals. -/
def barsOf (l : List (List Byte)) : List Bar :=
  l.foldl (fun acc b =>
    let q : Bar := { launch := fld b 0 4, scope := fld b 4 1, num := fld b 5 1, group := fld b 6 2, arrived := [],
                     fin := if bit (fld b 9 1) 0 then some (fld b 0x10 8) else none, told := bit (fld b 9 1) 1 }
    let same := fun (o : Bar) =>
      o.launch == q.launch && o.scope == q.scope && o.num == q.num && o.group == q.group && o.fin == q.fin && o.told == q.told
    if acc.any same then acc.map (fun o => if same o then { o with arrived := o.arrived ++ [fld b 8 1] } else o)
    else acc ++ [{ q with arrived := [fld b 8 1] }]) []

/-- Table bindings of a context's started launches (R191): the image bound to each slot, 0xFFFF for none. -/
def Context.slotImages (cx : Context) (p : Pack) : List Nat :=
  (List.range 4).map (fun j =>
    ((cx.launches.filter (fun l => l.base.isSome)).findSome? (fun l => (p.entries[l.entry]?).bind (fun e => e.tables.getD j none))).getD 0xFFFF)

/-- The condition a strand waits for in FWAIT or BAR (R320), in 32 bytes. (log 27, DESIGN CHOICE) -/
def waitBytes (q : Nat × Strand) : List Byte :=
  match q.2.held.map Held.wait with
  | some (.flag a c v) => layout 32 [(0, 1, 1), (1, 1, q.1), (2, 1, c), (8, 8, a), (16, 8, v)]
  | some (.barrier s n) => layout 32 [(0, 1, 2), (1, 1, q.1), (2, 1, s), (3, 1, n)]
  | _ => []

/-- The strand and the condition that 32 bytes spell. -/
def waitOf (b : List Byte) : Nat × Wait :=
  (fld b 1 1, if fld b 0 1 = 1 then .flag (fld b 8 8) (fld b 2 1) (fld b 16 8) else .barrier (fld b 2 1) (fld b 3 1))

/-- The context body (Table 15.5). `bad` are the bad-word lists of the pantry sections by die. (log 27, DESIGN CHOICE) -/
def contextBody (cx : Context) (p : Pack) (bad : List (Nat × List Byte)) : List Byte :=
  let n := cx.num
  let ls := (cx.launches.take 1024).flatMap launchBytes
  let bs := (cx.bars.flatMap barBytes).take 4096
  let b0 := patch (List.replicate 65536 0) 0 (numBytes n)
  let b1 := patch b0 0x40 (layout 16 [(0, 1, cx.mask), (2, 2, cx.poff), (4, 2, cx.plen), (6, 2, (cx.launches.take 1024).length), (8, 4, cx.nextLaunch),
    (12, 2, bs.length / 32)])
  let b2 := patch b1 0x100 (histBytes n.h0 ++ histBytes n.h1 ++ histBytes n.h2 ++ histBytes n.h3)
  let b3 := patch b2 0xA00 ((cx.slotImages p).flatMap (leBytes 2))
  let ws := cx.strands.flatMap waitBytes
  let b4 := patch (patch (patch (patch b3 0x1000 ls) 0x9000 bs) 0x4E (leBytes 2 (ws.length / 32))) 0xD000 ws
  bad.foldl (fun b e => patch b (0xC000 + 0x110 * e.1) e.2) b4

/-! ### Saving -/

/-- A section header (R321). -/
def sectionHead (typ num acm base len : Nat) : List Byte := layout 64 [(0, 1, typ), (2, 2, num), (4, 2, acm), (6, 2, base), (8, 8, len)]

/-- A strand's section: its bytes, and the error state after the reads. -/
def strandSection (k : Nat) (cx : Context) (e : Ecc) (i : Nat) (r : Strand) : List Byte × Ecc :=
  let tm := (lookup cx.tiles i).getD {}
  let me := r.me.getD 0
  let a := scanBad (tileSpaceOf k i me true) tm.acm e 0 (4096 * r.acmAlloc)
  let o := scanBad (tileSpaceOf k i me false) tm.osp a.2.2.1 0 2097152
  let bad := a.2.2.2.map (fun w => (0x8000 + w) / 64) ++ o.2.2.2.map (fun w => (0x8000 + 4096 * r.acmAlloc + w) / 64)
  let regs := patch (strandRegs r tm) 0x5600 (badList 16 bad)
  (sectionHead 2 i r.acmAlloc r.base (strandBody r.acmAlloc) ++ regs ++ a.1 ++ o.1, o.2.2.1)

/-- The image of a context (R321) and the core after its reads. -/
def Core.image (c : Core) (k : Nat) (cx : Context) (p : Pack) : List Byte × Core :=
  let st := cx.strands.foldl (fun (r : List Byte × Ecc) q =>
    let s := strandSection k cx r.2 q.1 q.2
    (r.1 ++ s.1, s.2)) ([], c.ecc)
  let pn := (maskDies cx.mask).foldl (fun (r : List Byte × List (Nat × List Byte) × Mem × Ecc) d =>
    let a := pantryBase + d * 0x4000000 + cx.poff * 65536
    let q := scanBad c.space r.2.2.1 r.2.2.2 a (65536 * cx.plen)
    (r.1 ++ sectionHead 3 d 0 0 (65536 * cx.plen) ++ q.1, r.2.1 ++ [(d, badList 64 (q.2.2.2.map (fun w => (w - a) / 64)))], q.2.1, q.2.2.1))
    ([], [], c.mem, st.2)
  let secs := sectionHead 1 0 0 0 65536 ++ contextBody cx p pn.2.1 ++ st.1 ++ pn.1
  let len := 128 + secs.length
  let hd := patch (layout 128 [(0, 2, 1), (2, 1, 1), (3, 1, 0), (4, 1, 64), (5, 1, 10), (6, 1, flag cx.ladle 0 + flag cx.faulted 1),
    (7, 1, cx.strands.length), (8, 8, len), (0x10, 16, p.caps), (0x40, 2, p.acmMax)]) 0x20 p.digest
  (patch hd 0x44 (leBytes 4 (crc32c (hd.take 0x44 ++ secs))) ++ secs, { c with mem := pn.2.2.1, ecc := pn.2.2.2 })

/-- Function tables of a context dropped. -/
def Core.dropTables (c : Core) (k : Nat) : Core := { c with ftab := c.ftab.filter (fun t => t.1 / 128 != k) }

/-- On-chip state of a context cleared (R25, 15): the OSP and ACM of the strand indices that `gone` says, tables, and its pantry
range. -/
def Core.clearChip (c : Core) (k : Nat) (cx : Context) (gone : Nat → Bool := fun _ => true) : Core :=
  let c1 := cx.pantry.foldl (fun (a : Core) r =>
    { a with mem := a.mem.clear r.1 r.2, ecc := a.ecc.forget a.space r.1 r.2 }) c
  let lo := 2 ^ 50 + k * 128 * 2 ^ 16
  let out := fun (x : Nat) => x < lo || lo + 2 ^ 23 ≤ x || !gone ((x - lo) / 2 ^ 16)
  { c1 with ecc := { c1.ecc with errs := c1.ecc.errs.filter (fun x => out x.1), bad := c1.ecc.bad.filter out } }.dropTables k

/-! ### Checking and reading -/

/-- Offset of the first strand section. -/
def strandsAt : Nat := 128 + 64 + 65536

/-- The strand sections of an image from offset `o`: (index, ACMALLOC, base, offset of the body), and the offset after
them; none where a section header breaks R321. -/
def strandSections (img : List Byte) : Nat → Nat → Nat → Option (List (Nat × Nat × Nat × Nat) × Nat)
  | 0, o, _ => some ([], o)
  | n + 1, o, low =>
    let h := slice img o 64
    let i := fld h 2 2
    let acm := fld h 4 2
    if fld h 0 1 = 2 ∧ fld h 1 1 = 0 ∧ low ≤ i ∧ i < 128 ∧ acm ≤ 128 ∧ fld h 6 2 ≤ i ∧ fld h 8 8 = strandBody acm ∧ zeroAt h 16 48 ∧
        o + 64 + strandBody acm ≤ img.length then
      (strandSections img n (o + 64 + strandBody acm) (i + 1)).map (fun r => ((i, acm, fld h 6 2, o + 64) :: r.1, r.2))
    else none

/-- The pantry sections for the dies of a mask and a length: (die, offset of the body); none where they do not fit. -/
def pantrySections (img : List Byte) (len : Nat) : List Nat → Nat → Option (List (Nat × Nat))
  | [], o => if o = img.length then some [] else none
  | d :: t, o =>
    let h := slice img o 64
    if h = sectionHead 3 d 0 0 (65536 * len) ∧ o + 64 + 65536 * len ≤ img.length then
      (pantrySections img len t (o + 64 + 65536 * len)).map (fun r => (d, o + 64) :: r)
    else none

/-- The parts of an image: strand sections and pantry sections. -/
def imageParts (img : List Byte) : Option (List (Nat × Nat × Nat × Nat) × List (Nat × Nat)) :=
  let cb := slice img 192 65536
  if slice img 128 64 = sectionHead 1 0 0 0 65536 ∧ fld img 7 1 ≤ 128 then
    match strandSections img (fld img 7 1) strandsAt 0 with
    | some (ss, o) => (pantrySections img (fld cb 0x44 2) (maskDies (fld cb 0x40 1)) o).map (fun ps => (ss, ps))
    | none => none
  else none

/-- R115 for a version, vector length, grain and capability mask: 0 or its fault. -/
def versionFault (major minor vlen grain caps : Nat) : Nat :=
  if major ≠ 1 ∨ vlen ≠ 64 ∨ grain ≠ 10 then 0x0403
  else if minor ≠ 0 then 0x0409
  else if caps / 2 ^ 15 ≠ 0 then 0x0408 else 0

/-- Whether an image's registers and accumulation records hold no reserved value (R116). (log 27, DESIGN CHOICE) -/
def bodyOk (img : List Byte) (ss : List (Nat × Nat × Nat × Nat)) : Bool :=
  let cb := slice img 192 65536
  let ok := fun (g : SlotReg) (o : Nat) => (NumRegs.write {} g (fld cb o 8)).isSome
  ok .numctl 0 && ok .fpflags 8 && ok .nanrec 16 && ok .fltring 24 && bits (fld cb 32 8) 48 16 == 0 && ok .fitstat 40 && ok .rcpstat 48 &&
    (List.range 4).all (fun h => ok (.histctl h) (0x100 + 528 * h) && ok (.histstat h) (0x108 + 528 * h)) &&
    ss.all (fun s => (List.range 64).all (fun j =>
      let b := slice img (s.2.2.2 + 0x2600 + 192 * j) 192
      fld b 0 1 == 0 || (AccKind.ofCode (fld b 1 1)).isSome && fld b 2 1 < 16))

/-- The checks of R323 after the first, in the order of its table: 0 or the fault; `tile` says that the partition is in tile
mode. -/
def imageFault (cx : Context) (p : Pack) (tile : Bool) (img : List Byte) : Nat :=
  let hd := img.take 128
  let cb := slice img 192 65536
  if fld hd 0 2 ≠ 1 then 0x0C03
  else if cx.imgLen < fld hd 8 8 then 0x0C04
  else match imageParts img with
    | none => 0x0C03
    | some (ss, ps) =>
      if fld hd 0x44 4 ≠ crc32c (img.take 0x44 ++ img.drop 0x80) ∨ slice hd 0x20 32 ≠ p.digest ∨ fld hd 6 1 / 4 ≠ 0 ∨ !(zeroAt hd 0x48 56) ∨
          !(zeroAt hd 0x42 2) ∨ !(bodyOk img ss) then 0x0C03
      else if fld cb 0x40 1 ≠ cx.mask ∨ fld cb 0x42 2 ≠ cx.poff ∨ fld cb 0x44 2 ≠ cx.plen then 0x0C04
      else
        let v := versionFault (fld hd 2 1) (fld hd 3 1) (fld hd 4 1) (fld hd 5 1) (fld hd 0x10 16)
        if v ≠ 0 then v
        else if bit (fld hd 6 1) 0 ∧ tile then 0x0302
        else if ss.any (fun s => badOver (slice img (s.2.2.2 + 0x5600) 16)) ∨ ps.any (fun q => badOver (slice cb (0xC000 + 0x110 * q.1) 16)) then 0x0211
        else 0

/-- An image read from memory at `a`, no further than `limit` bytes (R262, R323): the core after the reads, and the image or
the fault with its DETAIL, with the word met and not delivered. -/
def Core.readImage (c : Core) (dev : Nat) (cx : Context) (a : Nat) : Core × Except (Nat × List Byte × Nat) (List Byte) :=
  let ue := fun (w : Nat) => (0x0210, ueDetail dev w (memUnit c.hbmSpread w) false, w)
  match scanRange c.space c.mem c.ecc a 128 with
  | (m, e, some w) => ({ c with mem := m, ecc := e }, .error (ue w))
  | (m, e, none) =>
    let hd := m.read a 128
    let len := fld hd 8 8
    let c1 := { c with mem := m, ecc := e }
    if fld hd 0 2 ≠ 1 then (c1, .error (0x0C03, [], 0))
    else if cx.imgLen < len then (c1, .error (0x0C04, [], 0))
    else match scanRange c1.space c1.mem c1.ecc a len with
      | (m2, e2, some w) => ({ c1 with mem := m2, ecc := e2 }, .error (ue w))
      | (m2, e2, none) => ({ c1 with mem := m2, ecc := e2 }, .ok (m2.read a len))

/-- Launches of an image, with the commands this module still holds for them; launches the image does not hold, submitted
since it was written or beyond its room, stay as they are (R317). -/
def joinLaunches (img old : List Launch) : List Launch :=
  img.map (fun l => { l with cmd := (old.find? (fun o => o.num == l.num)).bind Launch.cmd }) ++
  old.filter (fun o => !(img.any (fun l => l.num == o.num)))

/-- Launches an image holds. -/
def imageLaunches (cb : List Byte) : List Launch := (List.range (fld cb 0x46 2)).map (fun j => launchOf (slice cb (0x1000 + 32 * j) 32))

/-- The barrier records an image holds. -/
def imageBars (img : List Byte) : List (List Byte) :=
  let cb := slice img 192 65536
  (List.range (fld cb 0x4C 2)).map (fun j => slice cb (0x9000 + 32 * j) 32)

/-- Barriers of an image with what became of them since it was written: those aborted meanwhile are (R285). -/
def joinBars (img old : List Bar) : List Bar :=
  img.map (fun q =>
    match old.find? (fun o => o.launch == q.launch && o.scope == q.scope && o.group == q.group && o.num == q.num) with
    | some o => { q with fin := q.fin.or o.fin, told := q.told || o.told }
    | none => q)

/-- A context as an accepted image gives it (R323), its tile memory and pantry apart. (log 78, DESIGN CHOICE) -/
def Context.fromImage (cx : Context) (img : List Byte) (ss : List (Nat × Nat × Nat × Nat)) : Context :=
  let cb := slice img 192 65536
  let waits := (List.range (fld cb 0x4E 2)).map (fun j => waitOf (slice cb (0xD000 + 32 * j) 32))
  let strands := ss.map (fun s =>
    let r := strandOf s.1 s.2.2.1 s.2.1 (slice img s.2.2.2 32768)
    let r1 := match lookup waits s.1 with
      | some w => { r with held := r.held.map (fun h => { h with wait := w }) }
      | none => r
    (s.1, match lookup cx.strands s.1 with | some old => r1.joined old | none => r1))
  { cx with strands := strands, num := numOf cb, faulted := bit (fld img 6 1) 1, launches := joinLaunches (imageLaunches cb) cx.launches,
            nextLaunch := max cx.nextLaunch (fld cb 0x48 4), bars := joinBars (barsOf (imageBars img)) cx.bars }

/-- The tile memory of a strand section, wholly rewritten (R263), and its words entered in the bad-word table (R264). -/
def tileOfImage (k : Nat) (img : List Byte) (e : Ecc) (s : Nat × Nat × Nat × Nat) : TileMem × Ecc :=
  let acmLen := 4096 * s.2.1
  let b := s.2.2.2
  let accs := ((List.range 64).map (fun j => accOf (slice img (b + 0x2600 + 192 * j) 192))).filterMap id
  let bad := badWords (slice img (b + 0x5600) 80)
  let e0 := (e.forget (tileSpaceOf k s.1 0 true) 0 0x80000).forget (tileSpaceOf k s.1 0 false) 0 0x200000
  let e1 := bad.foldl (fun e n =>
    let o := 64 * n - 0x8000
    if o < acmLen then e.markBad (tileSpaceOf k s.1 0 true) o else e.markBad (tileSpaceOf k s.1 0 false) (o - acmLen)) e0
  ({ osp := Mem.write {} 0 (slice img (b + 32768 + acmLen) 2097152), acm := Mem.write {} 0 (slice img (b + 32768) acmLen), accs := accs }, e1)

/-- An accepted image taken into the chip (R323): strands, tiles and the pantry range. (log 78, DESIGN CHOICE) -/
def Core.load (c : Core) (k : Nat) (cx : Context) (img : List Byte) : Core × Context :=
  match imageParts img with
  | none => (c, cx)
  | some (ss, ps) =>
    let cb := slice img 192 65536
    let t := ss.foldl (fun (r : List (Nat × TileMem) × Ecc) s =>
      let q := tileOfImage k img r.2 s
      (insertKey s.1 q.1 r.1, q.2)) ([], c.ecc)
    let c1 := ps.foldl (fun (a : Core) q =>
      let base := pantryBase + q.1 * 0x4000000 + cx.poff * 65536
      let a1 := a.store base (slice img q.2 (65536 * cx.plen))
      { a1 with ecc := (badWords (slice cb (0xC000 + 0x110 * q.1) 272)).foldl (fun e n => e.markBad a1.space (base + 64 * n)) a1.ecc })
      { c with ecc := t.2 }
    (c1, { cx.fromImage img ss with tiles := t.1.foldl (fun l q => insertKey q.1 q.2 l) cx.tiles })

end Sys2Proof.Machine
end

