-- ==== Sys2Proof/Machine/Sched.lean ====
section
/-!
DEFINITION. The scheduler (15): admission, placement, pre-emption and eviction (R85, R86, R319, R320), function-table slots
(R191), saving and readmission (R318, R321), and accounting (R327). (log 14, DEDUCED) -/
namespace Sys2Proof.Machine

/-! ### Order -/

/-- An element put in its place in a list sorted by `le`, behind its equals. -/
def insertBy {α : Type} (le : α → α → Bool) (x : α) : List α → List α
  | [] => [x]
  | h :: t => if le h x then h :: insertBy le x t else x :: h :: t

/-- A list sorted by `le`, equals in their order. -/
def sortBy {α : Type} (le : α → α → Bool) (l : List α) : List α := l.foldl (fun acc x => insertBy le x acc) []

/-- Descending PRIO, then ascending key (R319). -/
def prioLe (key : Context → Nat) (a b : Nat × Context) : Bool :=
  b.2.prio < a.2.prio || (b.2.prio == a.2.prio && key a.2 ≤ key b.2)

/-- Ascending PRIO, then ascending key: the order in which contexts are evicted (R319). -/
def evictLe (key : Context → Nat) (a b : Nat × Context) : Bool :=
  a.2.prio < b.2.prio || (a.2.prio == b.2.prio && key a.2 ≤ key b.2)

/-! ### What a partition has -/

/-- Share of foreground activity `a` of partition `p` in a ration image (Table 15.6). -/
def shareOf (img : List Byte) (a p : Nat) : Nat := fld img (0x10 + 8 * a + p) 1
/-- Slot quota of partition `p`. -/
def Core.quota (c : Core) (p : Nat) : Nat := fld c.ration (8 + p) 1

/-- MEs of partition `p`, ascending: those of its quads, and, when its ME ration is not zero, those of the pool that are given to
no other (R314). (log 38, DESIGN CHOICE) -/
def Core.mesOf (c : Core) (p : Nat) : List Nat :=
  (List.range 32).flatMap (fun q =>
    let o := c.owner 1 q
    if o = p then span (4 * q) 4
    else if o = 0xFD ∧ shareOf c.ration 0 p ≠ 0 then (span (4 * q) 4).filter (fun m => (lookup c.pool m).all (· == p))
    else [])

/-- Whether a strand is placed on an ME. -/
def Core.meBusy (c : Core) (m : Nat) : Bool := c.ctxs.any (fun k => k.2.strands.any (fun r => r.2.me == some m))

/-- Resident contexts of partition `p`. -/
def Core.residents (c : Core) (p : Nat) : List (Nat × Context) := c.ctxs.filter (fun k => k.2.part == p && k.2.slot.isSome)

/-- Contexts of partition `p` that wait for residency, in their order (R319 rule 1). -/
def Core.waiting (c : Core) (p : Nat) : List (Nat × Context) :=
  sortBy (prioLe Context.runnableSince)
    (c.ctxs.filter (fun k => k.2.part == p && k.2.slot.isNone && k.2.moving == .none && k.2.state == .runnable))

/-- Whether the pantry ranges of two contexts share a byte of a die (R317). -/
def Context.clash (a b : Context) : Bool :=
  (a.mask &&& b.mask) % 256 != 0 && overlaps a.poff a.plen b.poff b.plen

/-- Whether a context can become resident now (R319 rule 1). (log 38, DESIGN CHOICE) -/
def Core.canAdmit (c : Core) (p : Nat) (cx : Context) : Bool :=
  (c.residents p).length < c.quota p && (List.range 16).any (fun s => c.ctxs.all (fun k => k.2.slot != some s)) &&
    c.ctxs.all (fun k => k.2.slot.isNone || !k.2.clash cx)

/-! ### Admission and eviction -/

/-- A context made resident in the lowest free slot: its image is read, or, with no image, it starts as it was created. -/
def Core.readmit (c : Core) (k : Nat) (cx : Context) : Core :=
  let s := ((List.range 16).find? (fun s => c.ctxs.all (fun k => k.2.slot != some s))).getD 0
  { c with slotRegs := eraseKey s c.slotRegs }.setCtx k
    { cx with slot := some s, moving := if cx.savedLen = 0 then .none else .restoring, woken := false }

/-- Contexts of partition `p` admitted while any can be; `fuel` bounds them. (log 44, DEDUCED) -/
def Core.admitAll (p : Nat) : Nat → Core → Core
  | 0, c => c
  | n + 1, c =>
    match (c.waiting p).find? (fun k => c.canAdmit p k.2) with
    | some k => Core.admitAll p n (c.readmit k.1 k.2)
    | none => c

/-- The eviction of a context requested: its strands are to stop at pre-emption points (R319). -/
def Core.evict (c : Core) (k : Nat) : Core :=
  match lookup c.ctxs k with
  | some cx => c.setCtx k { cx with moving := .stopping }
  | none => c

/-- Residents of `p` that keep a waiting context out: all of them when its quota is held, else those whose pantry range
clashes. -/
def Core.keepers (c : Core) (p : Nat) (cx : Context) : List (Nat × Context) :=
  let rs := c.residents p
  if c.quota p ≤ rs.length then rs else rs.filter (fun k => k.2.clash cx)

/-- The context of `p` to evict for those that wait (R319 rules 1 and 3); none while one of `p` is already leaving. (log 44, DEDUCED) -/
def Core.victim (c : Core) (p : Nat) : Option Nat :=
  let rs := c.residents p
  if rs.any (fun k => k.2.moving == .stopping || k.2.moving == .saving) then none else
  let still := fun (k : Nat × Context) => k.2.moving == .none
  let ws := (c.waiting p).filter (fun w => !c.canAdmit p w.2)
  match ws with
  | [] => none
  | w :: _ =>
    match sortBy (fun a b => decide (a.2.idleSince ≤ b.2.idleSince)) ((c.keepers p w.2).filter (fun k => still k && k.2.state == .idle)) with
    | q :: _ => some q.1
    | [] =>
      ws.findSome? (fun w =>
        ((sortBy (evictLe Context.residentSince) (rs.filter (fun k => decide (k.2.prio < w.2.prio)))).head?).bind (fun k =>
          if still k then some k.1 else none))

/-! ### Placement -/

/-- The tables that the context's launches bind, loaded into the slots of a quad (R191); a slot bound to none holds no
table. (log 14, DEDUCED) -/
def Core.loadTables (c : Core) (k quad : Nat) (cx : Context) : Core :=
  (List.range 4).foldl (fun (a : Core) j =>
    match a.bound cx j with
    | some img => { a with ftab := insertKey (ftabKey k quad j) img a.ftab }
    | none => { a with ftab := eraseKey (ftabKey k quad j) a.ftab }) c

/-- Strand `i` of context `k` placed on the ME of its index, or on the lowest free one, of those of its partition (R86). -/
def Core.placeStrand (c : Core) (k i : Nat) : Core :=
  match lookup c.ctxs k with
  | none => c
  | some cx =>
    match lookup cx.strands i with
    | none => c
    | some r =>
      let mes := c.mesOf cx.part
      let free := mes.filter (fun m => !c.meBusy m)
      match (match mes[i]? with | some m => if free.contains m then some m else free.head? | none => free.head?) with
      | none => c
      | some m =>
        (c.setCtx k { cx with strands := insertKey i { r with me := some m, turn := c.clock } cx.strands, acct := { cx.acct with ran := true } }).loadTables k (m / 4) cx

/-- Unplaced strands of the live resident contexts of `p`, as (context, strand), in the order of R319 rules 1 and 2; a rotation
takes those placed longest ago first. -/
def Core.unplaced (c : Core) (p : Nat) (rotate : Bool) : List (Nat × Nat) :=
  let cs := sortBy (prioLe Context.runnableSince) ((c.residents p).filter (fun k => k.2.live))
  let l := cs.flatMap (fun k => (k.2.strands.filter (fun r => r.2.me.isNone)).map (fun r => (k.2.prio, r.2.turn, r.1, k.1)))
  let le := fun (a b : Nat × Nat × Nat × Nat) =>
    b.1 < a.1 || (b.1 == a.1 && (a.2.1 < b.2.1 || (a.2.1 == b.2.1 && a.2.2.1 ≤ b.2.2.1)))
  (if rotate then sortBy le l else l).map (fun x => (x.2.2.2, x.2.2.1))

/-- Free MEs given to unplaced strands of partition `p`. (log 44, DEDUCED) -/
def Core.place (c : Core) (p : Nat) (rotate : Bool := false) : Core :=
  (c.unplaced p rotate).foldl (fun (a : Core) s => a.placeStrand s.1 s.2) c

/-- A context's strands taken off their MEs. -/
def Context.unplace (cx : Context) : Context := { cx with strands := cx.strands.map (fun r => (r.1, { r.2 with me := none })) }

/-- Strands of `p` moved round when some of them have no ME (R86, R319 rule 2). (log 44, DEDUCED) -/
def Core.rotate (c : Core) (p : Nat) : Core :=
  if (c.unplaced p false).isEmpty then c
  else ({ c with ctxs := c.ctxs.map (fun k => if k.2.part = p ∧ k.2.live then (k.1, k.2.unplace) else k) } : Core).place p true

/-! ### The pool -/

/-- MEs of pool quads, ascending (R314). -/
def Core.poolMes (c : Core) : List Nat := (List.range 32).flatMap (fun q => if c.owner 1 q = 0xFD then span (4 * q) 4 else [])

/-- Strands of partition `p` that its own quads have no room for: its demand on the pool. -/
def Core.poolWant (c : Core) (p : Nat) : Nat :=
  if shareOf c.ration 0 p = 0 then 0 else
  (((c.residents p).filter (fun k => k.2.live)).map (fun k => k.2.strands.length)).sum -
    4 * ((List.range 32).filter (fun q => c.owner 1 q == p)).length

/-- The partition that a pool ME is given to for a period: of those with demand left, the one that has had fewest turns by its
share (R314). `given` are the pool MEs given so far. (log 38, DESIGN CHOICE) -/
def Core.poolNext (c : Core) (want : List Nat) (given : List (Nat × Nat)) : Option Nat :=
  let use := fun (p : Nat) => (lookup c.poolUse p).getD 0
  let open' := (List.range 8).filter (fun p => (given.filter (fun g => g.2 == p)).length < want.getD p 0)
  (sortBy (fun a b => decide (use a * shareOf c.ration 0 b ≤ use b * shareOf c.ration 0 a)) open').head?

/-- The pool's MEs given out for a period by ME ration, and strands taken off those of another partition (R86, R314). (log 38,
DESIGN CHOICE) -/
def Core.sharePool (c : Core) : Core :=
  let want := (List.range 8).map c.poolWant
  let c1 := c.poolMes.foldl (fun (a : Core) m =>
    match a.poolNext want a.pool with
    | some p => { a with pool := insertKey m p a.pool, poolUse := insertKey p ((lookup a.poolUse p).getD 0 + 1) a.poolUse }
    | none => a) { c with pool := [] }
  { c1 with ctxs := c1.ctxs.map (fun k => (k.1, { k.2 with strands := k.2.strands.map (fun r =>
      (r.1, if r.2.me.any (fun m => (lookup c1.pool m).any (· != k.2.part)) then { r.2 with me := none } else r.2)) })) }

/-- The scheduler's work for partition `p`: admission, an eviction for those that wait, placement. -/
def Core.schedulePart (c : Core) (p : Nat) : Core :=
  let c1 := Core.admitAll p 16 c
  let c2 := match c1.victim p with | some k => c1.evict k | none => c1
  c2.place p

/-- The scheduler's work for every partition. -/
def Core.schedule (c : Core) : Core := (List.range 8).foldl Core.schedulePart c.touch

/-! ### Launches -/

/-- Indices held by strands that have started and not ended (R85). -/
def Context.freeBase (cx : Context) (n : Nat) : Option Nat :=
  (List.range 129).find? (fun b => b + n ≤ 128 && cx.strands.all (fun r => r.1 < b || b + n ≤ r.1))

/-- Whether two entry points bind a slot to different images (R191): images of a pack are told apart by their number. (log 95, DESIGN
CHOICE) -/
def Entry.conflicts (a b : Entry) : Bool :=
  (List.range 4).any (fun j =>
    match a.tables.getD j none, b.tables.getD j none with
    | some x, some y => x != y
    | _, _ => false)

/-- A new strand of a launch (Table 4.1). -/
def newStrand (l : Launch) (e : Entry) (base rank : Nat) : Strand :=
  { launch := l.num, rank := rank, count := l.count, base := base, acmAlloc := e.acmAlloc, me := none
    s := (((Vector.replicate 32 (0 : W64)).set 1 (BitVec.ofNat 64 l.arg)).set 2 (BitVec.ofNat 64 rank)).set 3 (BitVec.ofNat 64 l.count)
    d := Vector.replicate 16 0, p := (Vector.replicate 8 false).set 0 true, v := Vector.replicate 32 (Vector.replicate 64 0)
    pc := BitVec.ofNat 64 e.addr, prg := 0, held := none, arrived := [], acks := 0, prefer := 15, stalled := false }

/-- The first waiting launch of a context started (R85, R191), when there is room for its strands and no launch that has not
ended binds a slot otherwise. -/
def Context.start (cx : Context) (p : Pack) : Context :=
  match cx.launches.find? (fun l => l.base.isNone) with
  | none => cx
  | some l =>
    match p.entries[l.entry]?, cx.freeBase l.count with
    | some e, some b =>
      if cx.launches.any (fun o => o.base.isSome && (p.entries[o.entry]?).any (fun oe => e.conflicts oe)) then cx
      else
        { cx with launches := cx.launches.map (fun o => if o.num = l.num then { o with base := some b } else o)
                  strands := (List.range l.count).foldl (fun m r => insertKey (b + r) (newStrand l e b r) m) cx.strands }
    | _, _ => cx

/-- LAUNCH_START (R85). -/
def Core.launchStart (c : Core) (k : Nat) : Core :=
  match lookup c.ctxs k with
  | none => c
  | some cx =>
    match lookup c.packs cx.pack with
    | some p => if cx.live then (c.setCtx k (cx.start p)).place cx.part else c
    | none => c

/-! ### Credits -/

/-- Claimants of a resource (R326) with their shares: the partitions, numbered 0 to 7, and the background activities charged to it
(Table 15.6), from 8 on. -/
def claimants (img : List Byte) (res : Nat) : List (Nat × Nat) :=
  (List.range 8).map (fun p => (p, shareOf img res p)) ++
    ([[], [0, 1], [0, 1, 4], [1], [3]].getD res []).map (fun b => (8 + b, fld img (0x40 + b) 1))

/-- The credits of a period (R326): each claimant's share of each resource's capacity in it. What was not used has lapsed. (log
38, DESIGN CHOICE) (log 38, DESIGN CHOICE) -/
def Core.grantCredits (c : Core) : Core :=
  { c with credits := (List.range 5).flatMap (fun res =>
      (claimants c.ration res).map (fun q => (16 * res + q.1, q.2 * Config.capacity res (fld c.ration 4 4) / 256))) }

/-! ### Accounting -/

/-- A counter advanced by a free amount (R327; log 28, DESIGN CHOICE). -/
def grow (seq v : Nat) : Nat := (v + Config.elapsed seq) % 2 ^ 64

/-- The counters that time advances (R327): they grow while a strand was placed; throttled and stalled cycles are some of those
run. (log 28, DESIGN CHOICE) -/
def Acct.grow (a : Acct) (seq : Nat) (now : Bool) : Acct :=
  if a.ran then
    let n := Config.elapsed seq
    let part := fun (j v : Nat) => (v + Config.elapsed (seq + j) % (n + 1)) % 2 ^ 64
    { a with run := (a.run + n) % 2 ^ 64, throttled := part 1 a.throttled, opstall := part 2 a.opstall, collwait := part 3 a.collwait
             energy := Sys2Proof.Machine.grow (seq + 4) a.energy, ran := now }
  else a

/-- The accounting record of a context (R327). -/
def acctRecord (a : Acct) (lcount : Nat) : List Byte :=
  [a.run, a.throttled, a.opstall, a.collwait, a.hbm, a.lp, a.nym, a.eth, a.switch, a.energy, a.saves, lcount, 0, 0, 0, 0].flatMap (leBytes 8)

/-- The record of context `k` updated while SCH_ACCT.EN is 1 and its area lies in this module's memory of no partition (R20,
R327). (log 28, DESIGN CHOICE) -/
def Core.account (c : Core) (dev k : Nat) : Core :=
  let area := c.acctReg / 2 ^ 17 * 2 ^ 17
  if ¬ bit c.acctReg 0 ∨ ¬ ownAddr dev area ∨ c.access 0xFF [] (localOf area) 0x20000 true ≠ 0 then c else
  match lookup c.ctxs k with
  | none => c
  | some cx =>
    let used := fun (res : Nat) => (lookup c.usage (8 * k + res)).getD 0
    let a := { cx.acct.grow c.seq (cx.strands.any (fun r => r.2.me.isSome)) with hbm := used 1, lp := used 2, nym := used 3 }
    let w := ({ c with seq := c.seq + 5 } : Core).readWclk
    (w.2.store (localOf area + 128 * k) (acctRecord a w.1)).setCtx k { cx with acct := a }

/-! ### Saving -/

/-- A context's strands at pre-emption points (R107, R318, R319): those of a context being stopped leave their MEs and the
save begins; of any other, those without an ME get their turn (R86). -/
def Core.preempted (c : Core) (k : Nat) : Core :=
  match lookup c.ctxs k with
  | none => c
  | some cx =>
    if cx.moving = .stopping then c.setCtx k { cx with moving := .saving }
    else if cx.live then c.rotate cx.part
    else c

/-- Completion of commands that waited for a context. -/
def Core.finishCmds (c : Core) (qs : List CmdRef) (k part status result : Nat) : Core :=
  { c with dones := c.dones ++ qs.map (fun q => { cmd := q, status := status, result := result, ctx := k, part := part }) }

/-- A context's loads from other modules given up (R108): their instructions are executed again. Flag operations stay under
way. -/
def Core.dropLoads (c : Core) (k : Nat) : Core :=
  { c with reqs := c.reqs.filter (fun q =>
      match q.who, q.wait with
      | .strand n _ _ _, some (.remote _ _) | .strand n _ _ _, some (.panels _ _) => n != k
      | _, _ => true) }

/-- Bytes that the switch engine moved for a context (R324). -/
def Acct.switched (a : Acct) (n : Nat) : Acct := { a with switch := (a.switch + n) % 2 ^ 64 }

/-- A save of `n` bytes counted (R324, R327). -/
def Acct.saved (a : Acct) (n : Nat) : Acct := { a.switched n with saves := (a.saves + 1) % 2 ^ 64 }

/-- CONTEXT_SAVE_COMPLETE (R318, R321): the image is in the image area, the chip is cleared, the slot is free, and the
context waits with the others. Tile memory of an index without a started strand has no section in the image and is kept beside
it (R90; log 78, DESIGN CHOICE). -/
def Core.saved (c : Core) (dev k : Nat) : Core :=
  match lookup c.ctxs k with
  | none => c
  | some cx =>
    match cx.moving, lookup c.packs cx.pack with
    | .saving, some p =>
      let q := c.image k cx p
      let len := q.1.length
      let held := fun (i : Nat) => (lookup cx.strands i).isSome
      let c1 := ((((q.2.store cx.imgAddr q.1).dropDecodes k).dropLoads k).clearChip k cx held)
      let a := cx.acct.saved len
      let cx1 := { cx with slot := none, moving := .none, savedLen := len, woken := false, acct := a, num := {}, tiles := cx.tiles.filter (fun t => !held t.1),
                           saveCmds := [], strands := cx.strands.map (fun r => (r.1, r.2.parked))
                           late := { ringAddr := cx.num.ringAddr, ringLog := cx.num.ringLog, head := cx.num.head, tail := cx.num.tail }
                           lateRecs := 0, lateFault := false }
      ((c1.setCtx k cx1).account dev k).finishCmds cx.saveCmds k cx.part 0 len
    | _, _ => c

/-! ### Readmission -/

/-- The fault record of a readmission that failed (R319 rule 5): to the ring the image's context body names. (log 45, DEDUCED) -/
def Core.postFailed (c : Core) (dev k : Nat) (cx : Context) (num : NumRegs) (code : Nat) (detail : List Byte) : Core :=
  let w := c.readWclk
  (postRecord w.2 dev cx.away num (faultRecord code 2 k 0xFFFF 0 0xFFFFFFFF 0 0xFF cx.part w.1 detail)).1

/-- Fault-ring registers after records written and records dropped (R110). -/
def NumRegs.after (n : NumRegs) (drops recs : Nat) : NumRegs :=
  { n with head := (n.head + recs) % 65536, dropped := min 0xFFFF (n.dropped + drops) }

/-- CONTEXT_RESTORE_COMPLETE (R319 rule 5, R323): the image is read and taken in, or the context stays saved and is held
FAULTED. A Ladle-mode image whose partition is in tile mode by now is refused with 0x0302 (R144, R323). (log 45, DEDUCED; log 96, DESIGN
CHOICE) -/
def Core.restored (c : Core) (dev k : Nat) : Core :=
  match lookup c.ctxs k with
  | none => c
  | some cx =>
    match cx.moving, lookup c.packs cx.pack with
    | .restoring, some p =>
      let fail := fun (c1 : Core) (code : Nat) (detail : List Byte) (body : Option (List Byte)) (moved : Nat) =>
        let cx1 := { cx with acct := cx.acct.switched moved, slot := none, moving := .none, faulted := true, resumeCmd := none }
        let c2 := match body with
          | some cb => c1.postFailed dev k cx (numOf cb) code detail
          | none => c1
        (c2.setCtx k cx1).finishCmds cx.resumeCmd.toList k cx.part code 0
      match c.readImage dev cx cx.imgAddr with
      | (c1, .error (code, detail, w)) =>
        let cb := c1.mem.read (cx.imgAddr + 192) 65536
        let whole := code = 0x0210 ∧ cx.imgAddr + 192 + 65536 ≤ w
        fail c1 code detail (if whole then some cb else none) (if code = 0x0210 then w - cx.imgAddr else 128)
      | (c1, .ok img) =>
        let f := imageFault cx p (!bit c1.pmode cx.part) img
        if f ≠ 0 then fail c1 f [] (some (slice img 192 65536)) img.length
        else
          let q := c1.load k cx img
          let cx1 := { q.2 with moving := .none, resumeCmd := none, faulted := (q.2.faulted && cx.resumeCmd.isNone) || cx.lateFault,
                                num := q.2.num.after cx.late.dropped cx.lateRecs, late := {}, lateRecs := 0, lateFault := false,
                                acct := cx.acct.switched img.length }
          (q.1.setCtx k cx1).finishCmds cx.resumeCmd.toList k cx.part 0 0
    | _, _ => c

/-! ### The period boundary -/

/-- Where a word of the pantry range of a context that is not resident lies: in the pantry section of its image (R321). -/
def Context.inImage (cx : Context) (l : Nat) : Nat :=
  let d := (l - pantryBase) / 0x4000000
  let strands := (cx.strands.map (fun r => 64 + strandBody r.2.acmAlloc)).sum
  let before := ((maskDies cx.mask).filter (· < d)).length
  cx.imgAddr + strandsAt + strands + before * (64 + 65536 * cx.plen) + 64 + (l - (pantryBase + d * 0x4000000 + cx.poff * 65536))

/-- A flag read (R261, R262): the core after the read, and its value, none where the word is uncorrectable. -/
def Core.readFlag (c : Core) (a : Nat) : Core × Option Nat :=
  let r := scanRange c.space c.mem c.ecc a 8
  ({ c with mem := r.1, ecc := r.2.1 }, if r.2.2.isSome then none else some (ofLE (r.1.read a 8)))

/-- Whether what a non-resident strand waits for has come (R262, R320), and the core after the flag's read; a word of the context's own
pantry range lies in its image. -/
def Core.flagHolds (c : Core) (dev : Nat) (cx : Context) (r : Strand) : Core × Bool :=
  match r.held with
  | none => (c, false)
  | some h =>
    match h.wait with
    | .flag a cmp v =>
      let l := localOf a
      if ¬ ownAddr dev a then (c, false) else
      let q := c.readFlag (if inRanges cx.pantry l 8 then cx.inImage l else l)
      (q.1, q.2.any (fun old => flagCmp cmp old v))
    | .remoteFlag _ _ _ _ => (c, !r.arrived.isEmpty)
    | .barrier scope num => (c, cx.bars.any (fun q => q.names r scope num && q.arrived.contains r.rank && q.fin.isSome))
    | _ => (c, false)

/-- Non-resident contexts of which some wait is satisfied become RUNNABLE (R320). -/
def Core.poll (c : Core) (dev : Nat) : Core :=
  (c.ctxs.filter (fun k => k.2.slot.isNone && k.2.state == .blocked)).foldl (fun (a : Core) k =>
    let q := k.2.strands.foldl (fun (b : Core × Bool) r =>
      let f := b.1.flagHolds dev k.2 r.2
      (f.1, b.2 || f.2)) (a, false)
    if q.2 then q.1.setCtx k.1 { k.2 with woken := true } else q.1) c

/-- Blocked eviction (R319 rule 4): when a context of `p` waits, every resident of `p` is BLOCKED and nothing else is under
way, the BLOCKED context of lowest PRIO, blocked longest, resident since before this period. `start` is the clock at the
period's start. (log 44, DEDUCED) -/
def Core.evictBlocked (c : Core) (start p : Nat) : Core :=
  let rs := c.residents p
  if (c.waiting p).isEmpty ∨ (c.waiting p).any (fun w => c.canAdmit p w.2) ∨ (c.victim p).isSome ∨ rs.isEmpty ∨
      !(rs.all (fun k => k.2.moving == .none && k.2.state == .blocked)) then c
  else match sortBy (evictLe Context.blockedSince) (rs.filter (fun k => k.2.residentSince < start)) with
    | k :: _ => c.evict k.1
    | [] => c

/-- Evictions for a quota now smaller than the residency (R325). -/
def Core.evictOver (p : Nat) : Nat → Core → Core
  | 0, c => c
  | n + 1, c =>
    let rs := (c.residents p).filter (fun k => k.2.moving != .stopping && k.2.moving != .saving)
    if rs.length ≤ c.quota p then c
    else match sortBy (evictLe Context.residentSince) (rs.filter (fun k => k.2.moving == .none)) with
      | k :: _ => Core.evictOver p n (c.evict k.1)
      | [] => c

/-- RATION_PERIOD_BOUNDARY (R319, R320, R325 to R327). (log 38, DESIGN CHOICE) (log 83, DESIGN CHOICE) -/
def Core.boundary (c : Core) (dev : Nat) : Core :=
  let c0 := match c.nextRation with
    | some r => { c with ration := r, nextRation := none }
    | none => c
  let c1 := (c0.poll dev).touch.sharePool.grantCredits
  let c2 := (List.range 8).foldl (fun (a : Core) p => a.rotate p |> Core.evictOver p 16 |> (fun b => b.evictBlocked c.period p)) c1
  let c3 := c2.schedule
  { (c3.ctxs.map Prod.fst).foldl (fun (a : Core) k => a.account dev k) c3 with period := c3.clock }

end Sys2Proof.Machine
end

