-- ==== Sys2Proof/Machine/Strand.lean ====
section
/-!
DEFINITION. The instructions of strands and the events that end their waits (04, 05): each instruction runs on the working
view of its strand (Issue), and an event takes a waiting instruction up again when its condition holds.
-/
namespace Sys2Proof.Machine

/-- The meaning of an opcode (R125). -/
def opFn (op : Nat) (b : Body) (x : X) : Res X :=
  match op with
  | 0x00 => nopFn b x
  | 0x01 => saluFn b x
  | 0x02 => saluiFn b x
  | 0x03 => scmpFn b x
  | 0x04 => scmpiFn b x
  | 0x05 => plogFn b x
  | 0x06 => smoviFn b x
  | 0x07 => sldFn b x
  | 0x08 => sstFn b x
  | 0x10 => brFn b x
  | 0x11 => callFn b x
  | 0x12 => briFn b x
  | 0x13 => endFn b x
  | 0x20 => valuFn b x
  | 0x21 => vfmaFn b x
  | 0x22 => vcmpFn b x
  | 0x23 => vselFn b x
  | 0x24 => vredFn b x
  | 0x25 => vpermFn b x
  | 0x26 => vbcastFn b x
  | 0x27 => vmovsFn b x
  | 0x28 => vexp2Fn b x
  | 0x29 => vlog2Fn b x
  | 0x2A => vtabFn b x
  | 0x2B => vstatFn b x
  | 0x30 => vldFn b x
  | 0x31 => vstFn b x
  | 0x32 => vtrdFn b x
  | 0x33 => vtwrFn b x
  | 0x40 => dldFn b x
  | 0x41 => dstFn b x
  | 0x42 => dsetFn b x
  | 0x43 => dgetFn b x
  | 0x44 => tldFn b x
  | 0x45 => tstFn b x
  | 0x50 => aopenFn b x
  | 0x51 => mmaFn b x
  | 0x52 => mconvFn b x
  | 0x53 => afinFn b x
  | 0x54 => aexpFn b x
  | 0x55 => aimpFn b x
  | 0x56 => gredFn b x
  | 0x60 => gemmFn b x
  | 0x61 => convFn b x
  | 0x62 => attnFn b x
  | 0x63 => bgemmFn b x
  | 0x68 => rapplyFn b x
  | 0x70 => ptpubFn b x
  | 0x71 => kvputFn b x
  | 0x72 => msumFn b x
  | 0x73 => bsortFn b x
  | 0x78 => tndwFn b x
  | 0x79 => tnduFn b x
  | 0x7A => tndnFn b x
  | 0x7B => tfillFn b x
  | 0x7C => sampleFn b x
  | 0x80 => pressFn b x
  | 0x81 => phistFn b x
  | 0x82 => tgenFn b x
  | 0x88 => collFn b x
  | 0x89 => membFn b x
  | 0x8A => rputFn b x
  | 0x8B => xdispFn b x
  | 0x8C => xcombFn b x
  | 0xA0 => fsetFn b x
  | 0xA1 => faddFn b x
  | 0xA2 => fcasFn b x
  | 0xA3 => fwaitFn b x
  | 0xA4 => barFn b x
  | 0xA5 => fenceFn b x
  | 0xB0 => ophintFn b x
  | 0xC0 => ccntFn b x
  | 0xC1 => caprdFn b x
  | 0xC2 => rgrdFn b x
  | 0xC3 => rgwrFn b x
  | 0xC4 => yieldFn b x
  | _ => fIssue 0x0406

/-! ### Aborts of collectives -/

/-- The link of a packet on the management channel: the route alone, whatever the binding (R278). -/
def State.routeAny (s : State) (d : Nat) : Option Nat :=
  match s.nym.active.bind (fun b => b.port d) with
  | some p => if p < 24 then some p else none
  | none => none

/-- Whether a context has a collective, XDISP, XCOMB or scope-3 barrier in flight (R285). -/
def Context.inFlight (cx : Context) : Bool :=
  cx.coll.ops.any (fun q => q.fin.isNone) || cx.bars.any (fun q => q.scope == 3 && q.fin.isNone)

/-- The operations in flight of a context ended with a status (R284, R285). -/
def Context.abortOps (cx : Context) (status : Nat) : Context :=
  let ops := cx.coll.ops.map (fun q => if q.fin.isNone then { q with fin := some status, stalled := false } else q)
  { cx with coll := { cx.coll with ops := ops }
            bars := cx.bars.map (fun q => if q.scope = 3 ∧ q.fin.isNone then { q with fin := some status } else q) }

/-- The operations of context `k` ended with a status, at another member's word or its own. -/
def Core.abortCtx (c : Core) (k status : Nat) : Core :=
  match lookup c.ctxs k with
  | some cx => c.setCtx k (cx.abortOps status)
  | none => c

/-- Rank of context `k` of this module in a member list, or the field of a status that concerns no member. -/
def State.rankIn (s : State) (k : Nat) (ms : List (Nat × Nat)) : Nat := (ms.findIdx? (· == (s.nym.devnum, k))).getD noRank

/-- An abort with a status to every other member that can be reached (R285): over the management channel, or within the
module. -/
def State.tellMembers (s : State) (k status : Nat) : State :=
  match lookup s.core.ctxs k with
  | none => s
  | some cx =>
    cx.coll.members.foldl (fun (a : State) m =>
      if m = (s.nym.devnum, k) then a
      else if m.1 = s.nym.devnum then a.onCore (fun c => c.abortCtx m.2 status)
      else match s.routeAny m.1 with
        | some l => a.send (.packet l { dest := m.1, src := s.nym.devnum, epoch := s.epoch, opc := 0x21,
                                        spart := cx.part, tag := k, addr := m.2, arg := status, data := [] })
        | none => a) s

/-- Operations in flight of context `k` ended everywhere with a status (R285). -/
def State.abortAll (s : State) (k status : Nat) : State :=
  match lookup s.core.ctxs k with
  | some cx => if cx.inFlight then (s.tellMembers k status).onCore (fun c => c.abortCtx k status) else s
  | none => s

/-- A context that has faulted ends its operations at all members with status 5 (Table 13.7). -/
def State.onFault (s : State) (k : Nat) : State :=
  match lookup s.core.ctxs k with
  | some cx => if cx.faulted then s.abortAll k (statusWord 5 (s.rankIn k cx.coll.members)) else s
  | none => s

/-- The same for every context. -/
def State.onFaults (s : State) : State := (s.core.ctxs.map Prod.fst).foldl State.onFault s

/-! ### Issuing and resuming -/

/-- One instruction of a strand. -/
def State.issue (s : State) (t : StrandId) (b : Body) (op : Nat) (f : Body → X → Res X) : State :=
  (s.onCore (issueCore (s.envOf t.ctx.val) f op t.ctx.val t.idx.val b)).onFault t.ctx.val

/-- A waiting instruction of strand `i` of context `k` taken up again. -/
def State.resumeStrand (s : State) (k i : Nat) : State := ((s.onCore (resumeCore (s.envOf k) opFn k i)).onFault k).samplerTests

/-- A strand of a context. -/
def Core.strand (c : Core) (k i : Nat) : Option Strand := (lookup c.ctxs k).bind (fun cx => lookup cx.strands i)

/-- What a strand waits for. -/
def Core.waitOf (c : Core) (k i : Nat) : Option Wait := ((c.strand k i).bind Strand.held).map Held.wait

/-- Whether what a strand waits for has come: returned bytes, acknowledgements, or the end of a barrier or collective. -/
def Core.come (cx : Context) (i : Nat) (r : Strand) : Bool :=
  match r.held with
  | none => false
  | some h =>
    match h.wait with
    | .remote a n | .panels a n => (r.got a n).isSome
    | .remoteFlag a _ _ _ => (r.got a 8).isSome
    | .barrier scope num => cx.bars.any (fun q => q.names r scope num && q.arrived.contains r.rank && q.fin.isSome)
    | .coll => cx.coll.ops.any (fun q => q.strand == i && q.fin.isSome)
    | .acks => r.acks == 0
    | .memb => cx.coll.ops.isEmpty && !(cx.bars.any (fun q => q.scope == 3 && q.fin.isNone))
    | _ => false

/-- Strands of context `k` at aborted barriers fault (R285), and every placed strand for which what it waits for has come is
taken up again. -/
def State.wakeCtx (s0 : State) (k : Nat) : State :=
  let s := (s0.onCore (fun c => c.failBars s0.nym.devnum k)).onFault k
  match lookup s.core.ctxs k with
  | none => s
  | some cx =>
    cx.strands.foldl (fun (a : State) p =>
      match lookup a.core.ctxs k with
      | some cy => if p.2.me.isSome ∧ (lookup cy.strands p.1).any (fun r => Core.come cy p.1 r) then a.resumeStrand k p.1 else a
      | none => a) s

/-- Every context's strands that may go on. -/
def State.wakeAll (s : State) : State := (s.core.ctxs.map Prod.fst).foldl State.wakeCtx s

/-- The scheduler's work after a change (R319), strands that may now go on, and self-tests nothing holds back. -/
def State.schedule (s : State) : State := (s.onCore Core.schedule).wakeAll.samplerTests

/-- What follows a strand's END (R87): its launch may have ended, this member may have arrived at a barrier (R285), and the
scheduler goes on. -/
def State.endOf (s : State) (k : Nat) : State := (s.onCore (fun c => (c.endLaunches k).tellBars (s.envOf k) k)).schedule

/-- A waiting strand taken up again when it waits for what `f` says. -/
def State.resumeIf (s : State) (t : StrandId) (f : Wait → Bool) : State :=
  match s.core.waitOf t.ctx.val t.idx.val with
  | some w => if f w then s.resumeStrand t.ctx.val t.idx.val else s
  | none => s

/-! ### Instructions -/

/-- NOP (R126): Scalar instruction that performs no operation. -/
def execNop (t : StrandId) (b : Body) (s : State) : Host.Outcome State Fault Refusal := answer (s.issue t b 0x00 nopFn)
/-- SALU (R126): Scalar ALU operation selected by FUNC on two scalar registers. -/
def execSalu (t : StrandId) (b : Body) (s : State) : Host.Outcome State Fault Refusal := answer (s.issue t b 0x01 saluFn)
/-- SALUI (R126): Scalar ALU operation selected by FUNC on a scalar register and the immediate. -/
def execSalui (t : StrandId) (b : Body) (s : State) : Host.Outcome State Fault Refusal := answer (s.issue t b 0x02 saluiFn)
/-- SCMP (R126): Scalar comparison of two registers into a predicate register. -/
def execScmp (t : StrandId) (b : Body) (s : State) : Host.Outcome State Fault Refusal := answer (s.issue t b 0x03 scmpFn)
/-- SCMPI (R126): Scalar comparison of a register with the immediate into a predicate register. -/
def execScmpi (t : StrandId) (b : Body) (s : State) : Host.Outcome State Fault Refusal := answer (s.issue t b 0x04 scmpiFn)
/-- PLOG (R126): Logical operation on predicate registers. -/
def execPlog (t : StrandId) (b : Body) (s : State) : Host.Outcome State Fault Refusal := answer (s.issue t b 0x05 plogFn)
/-- SMOVI (R126): Moves the immediate into a scalar register. -/
def execSmovi (t : StrandId) (b : Body) (s : State) : Host.Outcome State Fault Refusal := answer (s.issue t b 0x06 smoviFn)
/-- SLD (R127): Scalar load of the size FUNC selects. -/
def execSld (t : StrandId) (b : Body) (s : State) : Host.Outcome State Fault Refusal := answer (s.issue t b 0x07 sldFn)
/-- SST (R127): Scalar store of the size FUNC selects. -/
def execSst (t : StrandId) (b : Body) (s : State) : Host.Outcome State Fault Refusal := answer (s.issue t b 0x08 sstFn)
/-- BR (R126): Relative branch by the signed immediate. -/
def execBr (t : StrandId) (b : Body) (s : State) : Host.Outcome State Fault Refusal := answer (s.issue t b 0x10 brFn)
/-- CALL (R126): Writes the link register and branches by the immediate. -/
def execCall (t : StrandId) (b : Body) (s : State) : Host.Outcome State Fault Refusal := answer (s.issue t b 0x11 callFn)
/-- BRI (R126): Indirect branch to a scalar register with bits [3:0] cleared. -/
def execBri (t : StrandId) (b : Body) (s : State) : Host.Outcome State Fault Refusal := answer (s.issue t b 0x12 briFn)
/-- END (R87): the strand ends, its launch with the last strand, and the scheduler goes on. -/
def execEndStrand (t : StrandId) (b : Body) (s : State) : Host.Outcome State Fault Refusal :=
  answer ((s.issue t b 0x13 endFn).endOf t.ctx.val)
/-- VALU (R128): Element-wise vector arithmetic selected by FUNC. -/
def execValu (t : StrandId) (b : Body) (s : State) : Host.Outcome State Fault Refusal := answer (s.issue t b 0x20 valuFn)
/-- VFMA (R128): Vector fused multiply-add in FP32 or FP64. -/
def execVfma (t : StrandId) (b : Body) (s : State) : Host.Outcome State Fault Refusal := answer (s.issue t b 0x21 vfmaFn)
/-- VCMP (R128): Vector comparison producing a mask. -/
def execVcmp (t : StrandId) (b : Body) (s : State) : Host.Outcome State Fault Refusal := answer (s.issue t b 0x22 vcmpFn)
/-- VSEL (R128): Vector element select by a mask. -/
def execVsel (t : StrandId) (b : Body) (s : State) : Host.Outcome State Fault Refusal := answer (s.issue t b 0x23 vselFn)
/-- VRED (R129): Vector reduction in the canonical tree into element 0. -/
def execVred (t : StrandId) (b : Body) (s : State) : Host.Outcome State Fault Refusal := answer (s.issue t b 0x24 vredFn)
/-- VPERM (R128): Vector permutation by index. -/
def execVperm (t : StrandId) (b : Body) (s : State) : Host.Outcome State Fault Refusal := answer (s.issue t b 0x25 vpermFn)
/-- VBCAST (R128): Broadcasts a scalar into every vector element. -/
def execVbcast (t : StrandId) (b : Body) (s : State) : Host.Outcome State Fault Refusal := answer (s.issue t b 0x26 vbcastFn)
/-- VMOVS (R128): Moves one vector element into a scalar register. -/
def execVmovs (t : StrandId) (b : Body) (s : State) : Host.Outcome State Fault Refusal := answer (s.issue t b 0x27 vmovsFn)
/-- VEXP2 (R184): Correctly rounded base-2 exponential of each element. -/
def execVexp2 (t : StrandId) (b : Body) (s : State) : Host.Outcome State Fault Refusal := answer (s.issue t b 0x28 vexp2Fn)
/-- VLOG2 (R185): Correctly rounded base-2 logarithm of each element. -/
def execVlog2 (t : StrandId) (b : Body) (s : State) : Host.Outcome State Fault Refusal := answer (s.issue t b 0x29 vlog2Fn)
/-- VTAB (R188): Function-table evaluation of each element. -/
def execVtab (t : StrandId) (b : Body) (s : State) : Host.Outcome State Fault Refusal := answer (s.issue t b 0x2A vtabFn)
/-- VSTAT (R199): Shifted Welford update of a state pair. -/
def execVstat (t : StrandId) (b : Body) (s : State) : Host.Outcome State Fault Refusal := answer (s.issue t b 0x2B vstatFn)
/-- VLD (R130): Vector load from a descriptor, with widening and scales. -/
def execVld (t : StrandId) (b : Body) (s : State) : Host.Outcome State Fault Refusal := answer (s.issue t b 0x30 vldFn)
/-- VST (R130): Vector store through a descriptor, with rounding and scale choice. -/
def execVst (t : StrandId) (b : Body) (s : State) : Host.Outcome State Fault Refusal := answer (s.issue t b 0x31 vstFn)
/-- VTRD (R423): Reads two rows of an ACM slot into a vector register. -/
def execVtrd (t : StrandId) (b : Body) (s : State) : Host.Outcome State Fault Refusal := answer (s.issue t b 0x32 vtrdFn)
/-- VTWR (R423): Writes a vector register into two rows of an ACM slot. -/
def execVtwr (t : StrandId) (b : Body) (s : State) : Host.Outcome State Fault Refusal := answer (s.issue t b 0x33 vtwrFn)
/-- DLD (R131): Loads a 64-byte descriptor from memory. -/
def execDld (t : StrandId) (b : Body) (s : State) : Host.Outcome State Fault Refusal := answer (s.issue t b 0x40 dldFn)
/-- DST (R131): Stores a descriptor register to memory. -/
def execDst (t : StrandId) (b : Body) (s : State) : Host.Outcome State Fault Refusal := answer (s.issue t b 0x41 dstFn)
/-- DSET (R131): Sets one 64-bit word of a descriptor register. -/
def execDset (t : StrandId) (b : Body) (s : State) : Host.Outcome State Fault Refusal := answer (s.issue t b 0x42 dsetFn)
/-- DGET (R131): Reads one 64-bit word of a descriptor register. -/
def execDget (t : StrandId) (b : Body) (s : State) : Host.Outcome State Fault Refusal := answer (s.issue t b 0x43 dgetFn)
/-- TLD (R132): Loads a tile block into the OSP, with scales and decoding. -/
def execTld (t : StrandId) (b : Body) (s : State) : Host.Outcome State Fault Refusal := answer (s.issue t b 0x44 tldFn)
/-- TST (R133): Rounds and stores slots to memory or to the OSP. -/
def execTst (t : StrandId) (b : Body) (s : State) : Host.Outcome State Fault Refusal := answer (s.issue t b 0x45 tstFn)
/-- AOPEN (R135): Opens an accumulation at an even slot. -/
def execAopen (t : StrandId) (b : Body) (s : State) : Host.Outcome State Fault Refusal := answer (s.issue t b 0x50 aopenFn)
/-- MMA (R135): Applies N beats of a matrix product to an open accumulation. -/
def execMma (t : StrandId) (b : Body) (s : State) : Host.Outcome State Fault Refusal := answer (s.issue t b 0x51 mmaFn)
/-- MCONV (R136): Applies beats of a convolution with A lanes generated from an OSP band. -/
def execMconv (t : StrandId) (b : Body) (s : State) : Host.Outcome State Fault Refusal := answer (s.issue t b 0x52 mconvFn)
/-- AFIN (R74): Applies finish to an accumulation. -/
def execAfin (t : StrandId) (b : Body) (s : State) : Host.Outcome State Fault Refusal := answer (s.issue t b 0x53 afinFn)
/-- AEXP (R135): Exports the tree stack as node records and closes the accumulation. -/
def execAexp (t : StrandId) (b : Body) (s : State) : Host.Outcome State Fault Refusal := answer (s.issue t b 0x54 aexpFn)
/-- AIMP (R135): Pushes an imported node record by push_node. -/
def execAimp (t : StrandId) (b : Body) (s : State) : Host.Outcome State Fault Refusal := answer (s.issue t b 0x55 aimpFn)
/-- GRED (R75): Grain reduce of node records into a finished accumulation. -/
def execGred (t : StrandId) (b : Body) (s : State) : Host.Outcome State Fault Refusal := answer (s.issue t b 0x56 gredFn)
/-- GEMM (R148): Ladle macro for a whole matrix product. -/
def execGemm (t : StrandId) (b : Body) (s : State) : Host.Outcome State Fault Refusal := answer (s.issue t b 0x60 gemmFn)
/-- CONV (R148): Ladle macro for a whole convolution. -/
def execConvolve (t : StrandId) (b : Body) (s : State) : Host.Outcome State Fault Refusal := answer (s.issue t b 0x61 convFn)
/-- BGEMM (R155): Ladle macro for a pointer-list batched product. -/
def execBgemm (t : StrandId) (b : Body) (s : State) : Host.Outcome State Fault Refusal := answer (s.issue t b 0x63 bgemmFn)
/-- ATTN (R205): Attention chain over sequence records and page tables. -/
def execAttn (t : StrandId) (b : Body) (s : State) : Host.Outcome State Fault Refusal := answer (s.issue t b 0x62 attnFn)
/-- RAPPLY (R161): Applies a recipe to a tensor as a separate operation. -/
def execRapply (t : StrandId) (b : Body) (s : State) : Host.Outcome State Fault Refusal := answer (s.issue t b 0x68 rapplyFn)
/-- PTPUB (R210): Publishes the shadow copy of a page-table object. -/
def execPtpub (t : StrandId) (b : Body) (s : State) : Host.Outcome State Fault Refusal := answer (s.issue t b 0x70 ptpubFn)
/-- KVPUT (R214): Writes key and value rows through the page walker. -/
def execKvput (t : StrandId) (b : Body) (s : State) : Host.Outcome State Fault Refusal := answer (s.issue t b 0x71 kvputFn)
/-- MSUM (R216): Builds mask tile summary codes from a bitmap. -/
def execMsum (t : StrandId) (b : Body) (s : State) : Host.Outcome State Fault Refusal := answer (s.issue t b 0x72 msumFn)
/-- BSORT (R217): Length-bucket sort into per-bucket index lists. -/
def execBsort (t : StrandId) (b : Body) (s : State) : Host.Outcome State Fault Refusal := answer (s.issue t b 0x73 bsortFn)
/-- TNDW (R226): Writes Tinder-128 words into a vector register. -/
def execTndw (t : StrandId) (b : Body) (s : State) : Host.Outcome State Fault Refusal := answer (s.issue t b 0x78 tndwFn)
/-- TNDU (R226): Writes uniform FP32 values of Tinder words. -/
def execTndu (t : StrandId) (b : Body) (s : State) : Host.Outcome State Fault Refusal := answer (s.issue t b 0x79 tnduFn)
/-- TNDN (R226): Writes normal FP32 values of Tinder words. -/
def execTndn (t : StrandId) (b : Body) (s : State) : Host.Outcome State Fault Refusal := answer (s.issue t b 0x7A tndnFn)
/-- TFILL (R227): Fills a tensor with raw, uniform or normal Tinder values. -/
def execTfill (t : StrandId) (b : Body) (s : State) : Host.Outcome State Fault Refusal := answer (s.issue t b 0x7B tfillFn)
/-- SAMPLE (R229): Draws one index from a row of scores in normal or Gumbel mode. -/
def execSample (t : StrandId) (b : Body) (s : State) : Host.Outcome State Fault Refusal := answer (s.issue t b 0x7C sampleFn)
/-- PRESS (R243): Compresses a tensor block by block into a compressed pair. -/
def execPress (t : StrandId) (b : Body) (s : State) : Host.Outcome State Fault Refusal := answer (s.issue t b 0x80 pressFn)
/-- PHIST (R241): Counts delta bytes into a slot generation's histograms. -/
def execPhist (t : StrandId) (b : Body) (s : State) : Host.Outcome State Fault Refusal := answer (s.issue t b 0x81 phistFn)
/-- TGEN (R244): Starts a new generation of a table slot. -/
def execTgen (t : StrandId) (b : Body) (s : State) : Host.Outcome State Fault Refusal := answer (s.issue t b 0x82 tgenFn)
/-- COLL (R281): Starts a collective operation over the current member list. -/
def execColl (t : StrandId) (b : Body) (s : State) : Host.Outcome State Fault Refusal := answer (s.issue t b 0x88 collFn)
/-- MEMB (R280): Sets the context's current member list and generation. -/
def execMemb (t : StrandId) (b : Body) (s : State) : Host.Outcome State Fault Refusal := answer (s.issue t b 0x89 membFn)
/-- RPUT (R279): Copies a tensor to a remote module and then sets a flag as a release. -/
def execRput (t : StrandId) (b : Body) (s : State) : Host.Outcome State Fault Refusal := answer (s.issue t b 0x8A rputFn)
/-- XDISP (R291): Expert dispatch of token rows to home members. -/
def execXdisp (t : StrandId) (b : Body) (s : State) : Host.Outcome State Fault Refusal := answer (s.issue t b 0x8B xdispFn)
/-- XCOMB (R292): Expert combine of result rows in canonical order. -/
def execXcomb (t : StrandId) (b : Body) (s : State) : Host.Outcome State Fault Refusal := answer (s.issue t b 0x8C xcombFn)
/-- FSET (R102): Stores a value to a pantry flag. -/
def execFset (t : StrandId) (b : Body) (s : State) : Host.Outcome State Fault Refusal := answer (s.issue t b 0xA0 fsetFn)
/-- FADD (R102): Atomically adds to a flag and returns the old value. -/
def execFadd (t : StrandId) (b : Body) (s : State) : Host.Outcome State Fault Refusal := answer (s.issue t b 0xA1 faddFn)
/-- FCAS (R102): Atomic compare-and-swap on a flag. -/
def execFcas (t : StrandId) (b : Body) (s : State) : Host.Outcome State Fault Refusal := answer (s.issue t b 0xA2 fcasFn)
/-- FWAIT (R102): Blocks until a flag satisfies a comparison. -/
def execFwait (t : StrandId) (b : Body) (s : State) : Host.Outcome State Fault Refusal := answer (s.issue t b 0xA3 fwaitFn)
/-- BAR (R104): Arrival at a barrier of a scope. -/
def execBar (t : StrandId) (b : Body) (s : State) : Host.Outcome State Fault Refusal := answer (s.issue t b 0xA4 barFn)
/-- FENCE (R105): FENCE.MEM or FENCE.HOST ordering of the strand's accesses. -/
def execFence (t : StrandId) (b : Body) (s : State) : Host.Outcome State Fault Refusal := answer (s.issue t b 0xA5 fenceFn)
/-- OPHINT (R333): Sets the strand's preferred operating point. -/
def execOphint (t : StrandId) (b : Body) (s : State) : Host.Outcome State Fault Refusal := answer (s.issue t b 0xB0 ophintFn)
/-- CCNT (R141): Reads the CCLK counter of the strand's die. -/
def execCcnt (t : StrandId) (b : Body) (s : State) : Host.Outcome State Fault Refusal := answer (s.issue t b 0xC0 ccntFn)
/-- CAPRD (R114): Reads CAP_VERSION or a capability mask. -/
def execCaprd (t : StrandId) (b : Body) (s : State) : Host.Outcome State Fault Refusal := answer (s.issue t b 0xC1 caprdFn)
/-- RGRD (R141): Strand read of a permitted management register. -/
def execRgrd (t : StrandId) (b : Body) (s : State) : Host.Outcome State Fault Refusal := answer (s.issue t b 0xC2 rgrdFn)
/-- RGWR (R141): Strand write of a permitted management register. -/
def execRgwr (t : StrandId) (b : Body) (s : State) : Host.Outcome State Fault Refusal := answer (s.issue t b 0xC3 rgwrFn)
/-- YIELD (R107): Marks a preferred pre-emption point. -/
def execYield (t : StrandId) (b : Body) (s : State) : Host.Outcome State Fault Refusal := answer (s.issue t b 0xC4 yieldFn)

/-! ### Ends of waits -/

/-- Whether a request is the one a strand waits on for a wait. -/
def Req.serves (q : Req) (k i : Nat) (w : Wait) : Bool :=
  q.wait == some w && (match q.who with | .strand k' i' _ _ => k' == k && i' == i | _ => false)

/-- PANEL_ARRIVAL (R148, R150): panels that an instruction waits for arrive, their request is answered, and it goes on. -/
def execPanelArrival (t : StrandId) (data : List Byte) (s : State) : Host.Outcome State Fault Refusal :=
  answer (match s.core.waitOf t.ctx.val t.idx.val with
    | some (.panels a n) =>
      if data.length = n then
        (s.onCore (fun c =>
          { c.modStrand t.ctx.val t.idx.val (fun r => { r with arrived := addArrived r.arrived a data, stalled := false }) with
            reqs := c.reqs.filter (fun q => !q.serves t.ctx.val t.idx.val (.panels a n)) })).resumeIf t (fun _ => true)
      else s
    | _ => s)

/-- SPLIT_K_FLAG_READY (R154): a lane's flag that a part waits for is looked at again. -/
def execSplitKFlagReady (t : StrandId) (s : State) : Host.Outcome State Fault Refusal :=
  answer (s.resumeIf t (fun w => match w with | .splitK _ _ => true | _ => false))

/-- ARRIVE_FLAG_READY (R181): a unit's ready flag is looked at again. -/
def execArriveFlagReady (t : StrandId) (s : State) : Host.Outcome State Fault Refusal :=
  answer (s.resumeIf t (fun w => match w with | .arrive _ _ => true | _ => false))

/-- FWAIT_SATISFIED (R102): the flag is compared again, and the strand proceeds when it satisfies. -/
def execFwaitSatisfied (t : StrandId) (s : State) : Host.Outcome State Fault Refusal :=
  answer (s.resumeIf t (fun w => match w with | .flag _ _ _ => true | _ => false))

/-- WALK_BEGIN (R213): the walk a strand waits to begin. -/
def execWalkBegin (t : StrandId) (obj : W64) (s : State) : Host.Outcome State Fault Refusal :=
  answer (s.resumeIf t (fun w => w == .walk obj.toNat))

/-- MEMB_WAIT_COMPLETE (R280). -/
def execMembWaitComplete (t : StrandId) (s : State) : Host.Outcome State Fault Refusal := answer (s.resumeIf t (· == .memb))

/-- TGEN_DRAIN_COMPLETE (R244). -/
def execTgenDrainComplete (t : StrandId) (s : State) : Host.Outcome State Fault Refusal :=
  answer (s.resumeIf t (fun w => match w with | .tgen _ => true | _ => false))

/-- The barrier a strand waits at released when it may be (R104, R285): every participant of the module has arrived, and for
scope 3 this event says that the other members have. -/
def Context.releaseBar (cx : Context) (r : Strand) (scope num : Nat) : Context :=
  { cx with bars := cx.bars.map (fun q =>
      if q.names r scope num && q.arrived.contains r.rank && cx.full q then { q with fin := some 0 } else q) }

/-- BARRIER_COMPLETE (R104): the barrier a strand waits at releases its participants. -/
def execBarrierComplete (t : StrandId) (s : State) : Host.Outcome State Fault Refusal :=
  answer (match lookup s.core.ctxs t.ctx.val, s.core.strand t.ctx.val t.idx.val, s.core.waitOf t.ctx.val t.idx.val with
    | some cx, some r, some (.barrier scope num) =>
      (s.onCore (fun c => c.setCtx t.ctx.val (cx.releaseBar r scope num))).wakeCtx t.ctx.val
    | _, _, _ => s)

/-- Whether peers are the other members of a list, each once. -/
def othersOnce (n own : Nat) (ps : List Peer) : Bool :=
  (List.range n).all (fun r => (ps.filter (fun p => p.rank == r)).length == (if r = own then 0 else 1)) && ps.all (fun p => p.rank < n)

/-- COLLECTIVE_COMPLETE (R281 to R284, R290): what the other members brought has arrived, and the operation of a strand ends:
its result and its status are written when the strand goes on. -/
def execCollectiveComplete (t : StrandId) (peers : List Peer) (s : State) : Host.Outcome State Fault Refusal :=
  answer (match lookup s.core.ctxs t.ctx.val with
    | some cx =>
      let own := (cx.coll.members.findIdx? (· == (s.nym.devnum, t.ctx.val))).getD 0
      if cx.live && othersOnce cx.coll.members.length own peers && cx.coll.ops.any (fun q => q.strand == t.idx.val && q.fin.isNone) then
        let ops := cx.coll.ops.map (fun q => if q.strand = t.idx.val ∧ q.fin.isNone then { q with peers := peers, fin := some 0, stalled := false } else q)
        (s.onCore (fun c => c.setCtx t.ctx.val { cx with coll := { cx.coll with ops := ops } })).wakeCtx t.ctx.val
      else s
    | none => s)

/-- DECODE_REQUEST_ACCEPT (R245, R249, R251). -/
def execDecodeRequestAccept (t : StrandId) (d : Fin 16) (i : Nat) (s : State) : Host.Outcome State Fault Refusal :=
  answer ((s.onCore (decodeAccept s.envOf t.ctx.val t.idx.val d.val i)).onFaults)

/-- BLOCK_DELIVERED (R249): the oldest accepted request whose bytes are here; one that waits may then be accepted. -/
def execBlockDelivered (s : State) : Host.Outcome State Fault Refusal := answer (s.onCore (blockDelivered s.envOf)).onFaults

/-- START_ADMISSION (R341): a start is timing only. -/
def execStartAdmission (_d : Fin 8) (s : State) : Host.Outcome State Fault Refusal := answer s

/-! ### The NaN trap -/

/-- The NaN-trap record (Table 2.15). -/
def trapRecord (k : Nat) (t : Trap) : List Byte :=
  layout 256 [(0, 2, 1), (2, 2, t.info.cause), (4, 2, if t.path then 0xFFFF else t.me.getD 0xFFFF), (6, 2, k), (8, 8, t.pc), (0x10, 4, t.info.row), (0x14, 4, t.info.col),
    (0x18, 4, t.info.entry), (0x1C, 4, t.info.grain), (0x20, 2, t.info.koff), (0x22, 1, (t.me.map (· % 16)).getD 0xFF), (0x28, 8, t.cc),
    (0x40, 64, t.da.toNat), (0x80, 64, t.db.toNat), (0xC0, 64, t.dd.toNat)]

/-- The record of a NaN trap written and fault 0x0101 raised, once every strand has stopped (R58 to R60). (log 72, DEDUCED) -/
def Core.nanTrap (c : Core) (dev k : Nat) : Core :=
  match lookup c.ctxs k with
  | none => c
  | some cx =>
    match cx.trap with
    | none => c
    | some t =>
      let ok := c.writable dev cx cx.num.nanrec 256
      let c2 := if ok then c.store (localOf cx.num.nanrec) (trapRecord k t) else c
      let c3 := c2.setCtx k { cx with trap := none }
      c3.raise dev k t.strand { code := 0x0101, detail := if ok then [] else [1] }

/-- NAN_TRAP_RECORD (R58). -/
def execNanTrapRecord (k : Fin 1024) (s : State) : Host.Outcome State Fault Refusal :=
  answer ((s.onCore (fun c => c.nanTrap s.nym.devnum k.val)).onFault k.val)

/-! ### Samplers -/

/-- SAMPLER_FAULT_DETECTED (R230, R232): a check of a normal-mode draw fails; the sampler recovers, and the SAMPLE in progress
is restarted in Gumbel mode: those that wait for their rows, and the one the event names. -/
def execSamplerFaultDetected (d : Fin 8) (t : Option (StrandId × Body)) (s : State) : Host.Outcome State Fault Refusal :=
  answer (if (s.core.samplers.toList.getD d.val {}).state = 0 then
      let s1 := (s.onCore (fun c => c.toGumbel d.val)).sampler d.val samplerFault
      match t with
      | some (t, b) => s1.issue t b 0x7C sampleFn
      | none => s1
    else s)

/-- SAMPLER_SELFTEST_COMPLETE (R232). -/
def execSamplerSelftestComplete (d : Fin 8) (pass : Bool) (s : State) : Host.Outcome State Fault Refusal :=
  answer (if 2 ≤ (s.core.samplers.toList.getD d.val {}).state then s.sampler d.val (selftestEnd pass) else s)

/-- POWER_ON_SELFTEST_COMPLETE (R232). -/
def execPowerOnSelftestComplete (d : Fin 8) (pass : Bool) (s : State) : Host.Outcome State Fault Refusal :=
  answer (if (s.core.samplers.toList.getD d.val {}).state = 1 then s.sampler d.val (selftestEnd pass) else s)

end Sys2Proof.Machine
end

