-- ==== Sys2Proof/Machine/Fabric.lean ====
section
/-!
DEFINITION. Nymhel's links, routing banks and stalled transfers as registers act on them (13: R269, R274 to R277, R286 to
R289).
-/
namespace Sys2Proof.Machine

/-! ### Links -/

/-- STATE of a link changed; a change is reported by telemetry event 6 (R393). -/
def State.linkState (s : State) (l st : Nat) : State :=
  let old := (s.nym.link l).state
  let s1 := s.onNym (fun n => n.modLink l (fun k => { k with state := st }))
  if old = st then s1 else s1.telEvent 6 (leBytes 1 l ++ leBytes 1 old ++ leBytes 1 st)

/-- What training sends the peer (R269): device number, level and link number, and the epochs of the routing tables held.
(log 23, DESIGN CHOICE) -/
def State.sendIdentity (s : State) (l : Nat) : State :=
  let eps := (s.nym.active.toList ++ s.nym.previous.toList ++ s.nym.pendingBank.toList).map Bank.epoch
  eps.foldl (fun (a : State) e => a.send (.event "training epoch" l e))
    (s.send (.event "training identity" l (s.nym.devnum + s.nym.level * 2 ^ 16 + l * 2 ^ 24)))

/-- A link begins to train (R269). -/
def State.train (s : State) (l : Nat) : State := (s.linkState l 1).sendIdentity l

/-- Links let train or held out of service by LINKEN (Table 13.8), where their die is powered. -/
def State.linkEnable (s : State) : State :=
  (List.range 24).foldl (fun (a : State) l =>
    let k := a.nym.link l
    if ¬ bit a.nym.linken l ∨ ¬ (a.dmp.die (l / 3)).powered then a.linkState l 0
    else if k.state = 0 then a.train l else a) s

/-! ### Routing banks -/

/-- The banks that forward packets: the active one, the previous one, and the other once its check has passed (R274, R275). -/
def Nym.banks (n : Nym) : List Bank :=
  n.active.toList ++ n.previous.toList ++ (if n.pstate = 2 then n.pendingBank.toList else [])

/-- OLDLIVE: a packet of the previous bank's epoch is in a buffer of this module (R276). -/
def Nym.oldLive (n : Nym) : Bool :=
  match n.previous with
  | none => false
  | some b =>
    n.heldPkts.any (fun p => p.pkt.epoch == b.epoch) || n.mine.any (fun p => p.epoch == b.epoch) ||
    n.parked.any (fun p => p.epoch == b.epoch) || n.inbox.any (fun p => fld p.2.2 4 2 == b.epoch) ||
    n.links.toList.any (fun l => l.buf.any (fun f => f.2.1 == b.epoch) || l.waiting.any (fun f => f.epoch == b.epoch) ||
      l.partly.any (fun f => fld f.got 4 2 == b.epoch))

/-- Whether a bank holds a table. -/
def Nym.tables (n : Nym) : Bool := n.active.isSome || n.previous.isSome || n.pendingBank.isSome

/-- The first failing entry of an image's own check (R275 check 1): none when it passes. (log 47, DEDUCED) -/
def imageFail (own : Nat) (img : List Byte) : Option Nat :=
  if fld img 0 2 ≠ 1 ∨ ¬ zeroAt img 4 60 then some 0 else
  let ports := slice img 64 65536
  let hops := wordsOf 2 65536 (img.drop 65600)
  (List.zip (List.range 65536) (List.zip ports hops)).findSome? (fun e =>
    let p := e.2.1.toNat
    let ok := if e.1 = own then p = 24 ∧ e.2.2 = 0
      else (p < 24 ∧ 1 ≤ e.2.2) ∨ (p = 31 ∧ e.2.2 = 0)
    if ok then none else some e.1)

/-- The bank an image describes. -/
def bankOf (img : List Byte) : Bank :=
  let ports := slice img 64 65536
  let hops := wordsOf 2 65536 (img.drop 65600)
  { epoch := fld img 2 2
    entries := (List.zip (List.range 65536) (List.zip ports hops)).filterMap (fun e =>
      if e.2.1.toNat = 31 then none else some (e.1, e.2.1.toNat, e.2.2)) }

/-- Links a bank's entries name. -/
def Bank.linksOf (b : Bank) : List Nat := (List.range 24).filter (fun l => b.entries.any (fun e => e.2.1 == l))

/-- The check of the inactive bank ended as failed at a destination (R275, R276). (log 47, DEDUCED) -/
def Nym.checkFailed (n : Nym) (dest : Nat) : Nym := { n with pstate := 3, failDest := dest }

/-- A table vector as bytes: the directions of the 24 ports, then destination, port and hop count of each entry. (log 23, DESIGN CHOICE) -/
def Nym.vectorBytes (n : Nym) (b : Bank) : List Byte :=
  n.links.toList.flatMap (fun l => leBytes 1 l.dir) ++ b.entries.flatMap (fun e => leBytes 2 e.1 ++ leBytes 1 e.2.1 ++ leBytes 2 e.2.2)

/-- A bank's table vector sent over a link, as packets of the management channel to the peer (R272, R275): ARG holds the epoch,
and bit 32 says that it answers the peer's own. -/
def State.sendVector (s : State) (l : Nat) (b : Bank) (reply : Bool) : State :=
  let bs := s.nym.vectorBytes b
  (pieces (bs.length / 4096 + 1) 0 bs).foldl (fun (a : State) q =>
    a.send (.packet l { dest := (s.nym.link l).peerDev, src := s.nym.devnum, epoch := s.epoch, opc := 0x22, spart := 0, tag := 0, addr := q.1,
                        arg := b.epoch + flag reply 32, data := q.2 })) s

/-- LOAD (R275, R276): the image at ADDR is read into the inactive bank and checked as far as this module alone can; table
vectors go out on every link an entry names. (log 47, DEDUCED) -/
def State.loadRouting (s : State) : State :=
  let a := localOf s.nym.rtAddr
  let n0 := { s.nym with previous := none, pendingBank := none, vectors := [], pstate := 1 }
  let own := [Area.hbm, Area.lp].contains (areaOf a).1 && ownAddr s.nym.devnum s.nym.rtAddr &&
    decide (s.core.access 0xFF [] a 196672 false = 0)
  if ¬ own then { s with nym := n0.checkFailed 0 } else
  let r := scanRange s.core.space s.core.mem s.core.ecc a 196672
  let s1 := s.onCore (fun c => { c with mem := r.1, ecc := r.2.1 })
  if r.2.2.isSome then { s1 with nym := n0.checkFailed 0 } else
  let img := r.1.read a 196672
  match imageFail s.nym.devnum img with
  | some d => { s1 with nym := n0.checkFailed d }
  | none =>
    let b := bankOf img
    let s2 : State := { s1 with nym := { n0 with pendingBank := some b } }
    b.linksOf.foldl (fun (x : State) l => x.sendVector l b false) s2

/-- ACTIVATE (R276): the banks exchange roles. (log 47, DEDUCED) -/
def Nym.activateBank (n : Nym) : Nym :=
  let new := if n.pendingBank.isSome then n.pendingBank else n.previous
  { n with active := new, previous := n.active, pendingBank := none, actBank := 1 - n.actBank
           pstate := if n.active.isSome then 2 else 0 }

/-- RETIRE (R276): the previous bank is emptied. (log 47, DEDUCED) -/
def Nym.retireBank (n : Nym) : Nym :=
  { n with previous := none, pstate := if n.pendingBank.isSome then n.pstate else if n.pstate = 2 then 0 else n.pstate }

/-- NYM_RTSTAT: ACTEPOCH, PENDEPOCH and FAILDEST (R276). -/
def Nym.rtStat (n : Nym) : Nat :=
  let ep := fun (b : Option Bank) => (b.map Bank.epoch).getD 0
  ep n.active * 2 ^ 48 + ep (if n.pendingBank.isSome then n.pendingBank else n.previous) * 2 ^ 32 + n.failDest

/-- NYM_RTCTL as it reads (Table 13.5). -/
def Nym.rtCtl (n : Nym) : Nat := n.rtAddr + flag n.oldLive 3 + n.actBank * 4 + n.pstate

/-! ### Stalled transfers -/

/-- Requests of queue pairs and of decode requests reported as stalled. -/
def Core.stalledReqs (c : Core) : List Req :=
  c.reqs.filter (fun q => q.stalled && match q.who with | .strand _ _ _ _ => false | _ => true)

/-- NYM_STALL.COUNT: transfers reported as stalled that have not progressed since (R288). -/
def State.stallCount (s : State) : Nat :=
  s.core.stalledReqs.length + (s.core.ctxs.map (fun k => (k.2.strands.filter (fun r => r.2.stalled)).length +
    (k.2.coll.ops.filter (fun q => q.stalled && q.fin.isNone)).length)).sum + (s.nym.heldPkts.filter HeldPkt.stalled).length

/-- Stalled collectives of context `k` ended with status 4 at all reachable members (R289). -/
def State.abortStalledOps (s : State) (k : Nat) : State :=
  match lookup s.core.ctxs k with
  | none => s
  | some cx =>
    if cx.coll.ops.any (fun q => q.stalled && q.fin.isNone) then
      let st := statusWord 4 noRank
      let ops := cx.coll.ops.map (fun q => if q.stalled && q.fin.isNone then { q with fin := some st, stalled := false } else q)
      (((s.tellMembers k st).onCore (fun c => match lookup c.ctxs k with
        | some cy => c.setCtx k { cy with coll := { cy.coll with ops := ops } }
        | none => c)).wakeAll)
    else s

/-- A strand whose transfer has ended without its data: its instruction is no longer in progress. -/
def Strand.dropTransfer (r : Strand) : Strand := { r with held := none, arrived := [], acks := 0, stalled := false }

/-- Whether strand index `i` of context `k` made a request. -/
def Asker.isStrand (w : Asker) (k i : Nat) : Bool := match w with | .strand a b _ _ => a == k && b == i | _ => false

/-- Whether a strand of context `k` made a request. -/
def Asker.ofCtx (w : Asker) (k : Nat) : Bool := match w with | .strand a _ _ _ => a == k | _ => false

/-- A strand's transfer ended: what it asked of other modules is forgotten, and its answers find no request. -/
def Core.dropTransfer (c : Core) (k i : Nat) : Core :=
  let c1 := c.modStrand k i Strand.dropTransfer
  { c1 with reqs := c1.reqs.filter (fun q => !q.who.isStrand k i) }

/-- Parts of packets already received that answer ended requests, or that carry data of ended operations (context, packet opcode):
their buffers are freed and their credits returned; what still comes of them is discarded (R289). -/
def State.freeParts (s : State) (tags : List Nat) (ops : List (Nat × Nat)) : State :=
  let hit := fun (p : Partly) =>
    !p.drop && 32 ≤ p.got.length && fld p.got 0 2 == s.nym.devnum &&
      ((3 ≤ fld p.got 6 1 && fld p.got 6 1 ≤ 7 && tags.contains (fld p.got 8 4)) || ops.contains (fld p.got 0x10 2, fld p.got 6 1))
  (List.range 24).foldl (fun (a : State) l =>
    let vcs := ((a.nym.link l).partly.filter hit).flatMap Partly.vcs
    if vcs.isEmpty then a else
    (a.onNym (fun n => n.modLink l (fun k =>
      { k with partly := k.partly.map (fun p => if hit p then { p with vcs := [], drop := true } else p) }))).creditAll l vcs) s

/-- Strands of context `k` whose transfer is stalled fault with 0x0705 (R289). -/
def State.abortStalledStrands (s : State) (k : Nat) : State :=
  match lookup s.core.ctxs k with
  | none => s
  | some cx =>
    let l := cx.strands.filter (fun r => r.2.stalled)
    if l.isEmpty then s else
    (l.foldl (fun (a : State) r =>
      a.onCore (fun c => (c.dropTransfer k r.1).raise s.nym.devnum k r.1 { code := 0x0705 })) s).onFault k

/-- Stalled requests of decode requests and queue pairs ended with 0x0705 (R289). -/
def State.abortStalledReqs (s : State) : State :=
  s.core.stalledReqs.foldl (fun (a : State) q =>
    let b := a.onCore (fun c => { c with reqs := c.reqs.erase q })
    match q.who with
    | .sieve n =>
      match b.core.decodes.find? (·.num == n) with
      | some d => (b.onCore (fun c => (c.dropDecode d).raise s.nym.devnum d.ctx d.strand { code := 0x0705 })).onFault d.ctx
      | none => b
    | .qp n => b.qpRefused n 0x0705 q.addr
    | _ => b) s

/-- Tags of the requests whose transfers are stalled. -/
def Core.stalledTags (c : Core) : List Nat :=
  (c.reqs.filter (fun q => q.stalled || match q.who with
    | .strand k i _ _ => (((lookup c.ctxs k).bind (fun cx => lookup cx.strands i)).map Strand.stalled).getD false
    | _ => false)).map Req.tag

/-- Operations reported as stalled, as context and packet opcode. -/
def Core.stalledOps (c : Core) : List (Nat × Nat) :=
  c.ctxs.flatMap (fun k => (k.2.coll.ops.filter (fun q => q.stalled && q.fin.isNone)).map (fun q => (k.1, q.packetOpc)))

/-- ABORT (R289): every transfer stalled at this moment ends, and no other; held packets and parts are freed and their credits
returned. -/
def State.abortStalled (s : State) : State :=
  let ks := s.core.ctxs.map Prod.fst
  let tags := s.core.stalledTags
  let ops := s.core.stalledOps
  let s1 := ks.foldl State.abortStalledOps s
  let s2 := ((ks.foldl State.abortStalledStrands s1).abortStalledReqs).freeParts tags ops
  (s2.nym.heldPkts.filter HeldPkt.stalled).foldl (fun (a : State) p => a.creditAll p.link p.vcs)
    (s2.onNym (fun n => { n with heldPkts := n.heldPkts.filter (fun p => !p.stalled) }))

end Sys2Proof.Machine
end

