-- ==== Sys2Proof/Machine/Registers.lean ====
section
/-!
DEFINITION. The management register space (R9 to R13, R97, R98): every register by its address, what it reads as, which
writes are refused, and what an accepted write does.
-/
namespace Sys2Proof.Machine

/-- The registers of the management register space, by the tables that name them; ETH_WINA and ETH_WINB carry their window
index s × 16 + w. -/
inductive Reg where
  | bivStat | bivCtl | telCtl | telStat | pinStat | alert | vid
  | cap | dmpStat | cal | hours | die (d : Nat) | vt (d n : Nat)
  | pmode (p : Nat) | act (me x : Nat)
  | slotPart | slotStat (j : Nat) | sivStall (d : Nat)
  | smpStat (d : Nat) | smpCtl (d : Nat)
  | devnum | rtCtl | rtStat | nymCtl | follow | nymStall | linkStat (n : Nat)
  | portCtl (n : Nat) | portStat (n : Nat) | ets (n : Nat) | ip4 (n : Nat) | ip6h (n : Nat) | ip6l (n : Nat) | mac (n : Nat)
  | cmdq (n : Nat) | cplq (n : Nat) | cplkey (n : Nat) | qstat (n : Nat) | winA (w : Nat) | winB (w : Nat)
  | engStat (e : Nat)
  | schSlot (n : Nat) | acct | bind (n : Nat) | slot (s : Nat) (g : SlotReg)
  | rtn (n : Nat)
  | hbmmap | eccCnt (u : Nat) | ueLast (u : Nat) | scrub
  | bootStat | vers | meas (i w : Nat)
  | headSeq | flashSeq | headHash (w : Nat) | jnlStat
  | capVersion | capMask (w : Nat)
deriving DecidableEq, Repr

/-! ### Addresses -/

/-- Registers of the LAN block (R311, R395, R400, R412). -/
def lanReg (o : Nat) : Option Reg :=
  match o with
  | 0x100 => some .bivStat
  | 0x108 => some .bivCtl
  | 0x110 => some .telCtl
  | 0x118 => some .telStat
  | 0x120 => some .pinStat
  | 0x128 => some .alert
  | 0x130 => some .vid
  | _ => none

/-- Registers of the DMP block (R345). -/
def dmpReg (o : Nat) : Option Reg :=
  if o = 0 then some .cap else if o = 8 then some .dmpStat else if o = 0x10 then some .cal else if o = 0x18 then some .hours
  else if 0x100 ≤ o ∧ o < 0x140 ∧ o % 8 = 0 then some (.die ((o - 0x100) / 8))
  else if 0x1000 ≤ o ∧ o < 0x1400 ∧ o % 8 = 0 then some (.vt ((o - 0x1000) / 0x80) (o % 0x80 / 8))
  else none

/-- Registers of the LDL block other than slot registers (R79, R143). -/
def ldlReg (o : Nat) : Option Reg :=
  if o < 0x40 ∧ o % 8 = 0 then some (.pmode (o / 8))
  else if 0x60000 ≤ o ∧ o < 0x61000 ∧ o % 8 = 0 ∧ o % 0x20 < 0x18 then some (.act ((o - 0x60000) / 0x20) (o % 0x20 / 8))
  else none

/-- Registers of the SIV block (R247, R248, R251). -/
def sivReg (o : Nat) : Option Reg :=
  if o = 0 then some .slotPart
  else if 0x100 ≤ o ∧ o < 0x180 ∧ o % 8 = 0 then some (.slotStat ((o - 0x100) / 8))
  else if 0x200 ≤ o ∧ o < 0x240 ∧ o % 8 = 0 then some (.sivStall ((o - 0x200) / 8))
  else none

/-- Registers of the TND block (R233). -/
def tndReg (o : Nat) : Option Reg :=
  if o < 0x80 ∧ o % 8 = 0 then some (if o % 16 = 0 then .smpStat (o / 16) else .smpCtl (o / 16)) else none

/-- Registers of the NYM block (R276, R286, R289). -/
def nymReg (o : Nat) : Option Reg :=
  match o with
  | 0x000 => some .devnum
  | 0x008 => some .rtCtl
  | 0x010 => some .rtStat
  | 0x018 => some .nymCtl
  | 0x020 => some .follow
  | 0x028 => some .nymStall
  | _ => if 0x100 ≤ o ∧ o < 0x1C0 ∧ o % 8 = 0 then some (.linkStat ((o - 0x100) / 8)) else none

/-- Registers of the ETH block (R296, R299, R301). -/
def ethReg (o : Nat) : Option Reg :=
  if o < 0x100 then
    match o % 0x40 with
    | 0x00 => some (.portCtl (o / 0x40))
    | 0x08 => some (.portStat (o / 0x40))
    | 0x10 => some (.ets (o / 0x40))
    | 0x18 => some (.ip4 (o / 0x40))
    | 0x20 => some (.ip6h (o / 0x40))
    | 0x28 => some (.ip6l (o / 0x40))
    | 0x30 => some (.mac (o / 0x40))
    | _ => none
  else if 0x10000 ≤ o ∧ o < 0x30000 then
    match o % 0x20 with
    | 0x00 => some (.cmdq ((o - 0x10000) / 0x20))
    | 0x08 => some (.cplq ((o - 0x10000) / 0x20))
    | 0x10 => some (.cplkey ((o - 0x10000) / 0x20))
    | 0x18 => some (.qstat ((o - 0x10000) / 0x20))
    | _ => none
  else if 0x30000 ≤ o ∧ o < 0x34000 then
    match o % 0x10 with
    | 0x0 => some (.winA ((o - 0x30000) / 0x10))
    | 0x8 => some (.winB ((o - 0x30000) / 0x10))
    | _ => none
  else none

/-- Registers of the SCH block other than slot registers (R314, R318, R327). -/
def schReg (o : Nat) : Option Reg :=
  if o < 0x80 ∧ o % 8 = 0 then some (.schSlot (o / 8))
  else if o = 0x10000 then some .acct
  else if 0x50000 ≤ o ∧ o < 0x50890 ∧ o % 8 = 0 then some (.bind ((o - 0x50000) / 8))
  else none

/-- Registers of the MEM block (R255, R265, R382). -/
def memReg (o : Nat) : Option Reg :=
  if o = 0 then some .hbmmap
  else if 0x1000 ≤ o ∧ o < 0x1400 ∧ o % 8 = 0 then
    some (if o % 16 = 0 then .eccCnt ((o - 0x1000) / 16) else .ueLast ((o - 0x1000) / 16))
  else if o = 0x2000 then some .scrub
  else none

/-- Registers of the SEC block (R379). -/
def secReg (o : Nat) : Option Reg :=
  if o = 0 then some .bootStat else if o = 8 then some .vers
  else if 0x100 ≤ o ∧ o < 0x200 ∧ o % 8 = 0 then some (.meas ((o - 0x100) / 0x20) (o % 0x20 / 8))
  else none

/-- Registers of the JNL block (R392). -/
def jnlReg (o : Nat) : Option Reg :=
  if o = 0 then some .headSeq else if o = 8 then some .flashSeq
  else if 0x10 ≤ o ∧ o < 0x30 ∧ o % 8 = 0 then some (.headHash ((o - 0x10) / 8))
  else if o = 0x30 then some .jnlStat
  else none

/-- The register at offset `o` of block `n` (Table 4.4); the PRS, ATT and MBX blocks name none. -/
def blockReg (n o : Nat) : Option Reg :=
  match n with
  | 0x00 => lanReg o
  | 0x01 => dmpReg o
  | 0x02 => ldlReg o
  | 0x03 => sivReg o
  | 0x05 => tndReg o
  | 0x07 => nymReg o
  | 0x08 => ethReg o
  | 0x0A => if o < 0x20 ∧ o % 8 = 0 then some (.engStat (o / 8)) else none
  | 0x0B => schReg o
  | 0x0C => if o < 0x48 ∧ o % 8 = 0 then some (.rtn (o / 8)) else none
  | 0x0D => memReg o
  | 0x0E => secReg o
  | 0x0F => jnlReg o
  | 0x10 => if o = 0 then some .capVersion else if o = 8 ∨ o = 0x10 then some (.capMask (o / 8 - 1)) else none
  | _ => none

/-- The register a local address names (R97, R98). -/
def regAt (a : Nat) : Option Reg :=
  match slotRegOf a with
  | some (s, g) => some (.slot s g)
  | none => if mgmtBase ≤ a ∧ a < mgmtEnd then blockReg ((a - mgmtBase) / 0x1000000) (a % 0x1000000) else none

/-! ### Reading -/

/-- Highest voltages of the points (Table 16.1). -/
def vMax : List Nat := [650, 660, 670, 680, 690, 710, 730, 750, 770, 790, 810, 830, 850, 870, 885, 900]
/-- Lowest voltages of the points (Table 16.1). -/
def vMin : List Nat := [560, 570, 580, 590, 600, 620, 640, 660, 680, 700, 720, 740, 760, 780, 795, 810]

/-- DMP_VTd_n (R345). -/
def Die.vtWord (d : Die) (n : Nat) : Nat :=
  let b := d.base.getD n 0
  d.margin % 2 ^ 8 * 2 ^ 32 + b * 2 ^ 16 + min (b + d.margin) (vMax.getD n 0)

/-- DMP_DIEd (Table 16.7). -/
def Die.word (d : Die) : Nat :=
  d.droops * 2 ^ 48 + d.tj % 256 * 2 ^ 40 + d.nsens * 2 ^ 32 + d.op * 2 ^ 28 + d.pref % 16 * 2 ^ 24 + d.capceil * 2 ^ 20 +
  d.thceil * 2 ^ 16 + d.folceil * 2 ^ 12 + d.limceil * 2 ^ 8

/-- NYM_LINKSTATn (R289). -/
def Link.stat (l : Link) : Nat :=
  l.peerDev * 2 ^ 48 + l.peerLevel * 2 ^ 40 + l.peerLink * 2 ^ 35 + l.retries * 2 ^ 16 + l.proterr * 2 ^ 8 + l.dir * 4 + l.state

/-- SCH_SLOTn.STATE of a resident context (Table 15.4). -/
def Context.slotState (cx : Context) : Nat :=
  match cx.moving with
  | .stopping | .saving => 4
  | .restoring => 5
  | .none => match cx.state with
    | .runnable => 0
    | .blocked => 1
    | .faulted => 2
    | .idle => 3

/-- SCH_SLOTn (Table 15.4). -/
def Core.slotWord (c : Core) (n : Nat) : Nat :=
  match c.ctxs.find? (fun k => k.2.slot == some n) with
  | some k => 2 ^ 63 + k.2.part * 2 ^ 48 + k.1 * 2 ^ 32 + k.2.slotState
  | none => 0

/-- Offsets of the owner bytes of each class (Table 15.1). -/
def ownerBases : List (Nat × Nat) :=
  [(1, 0), (2, 0x100), (3, 0x300), (4, 0x800), (5, 0x840), (6, 0x880), (7, 0x888)]

/-- The owner byte at an offset from 0x5_0000; a gap byte reads 0 (R314). -/
def Core.ownerByte (c : Core) (o : Nat) : Nat :=
  match ownerBases.find? (fun b => b.2 ≤ o && o < b.2 + classSize b.1) with
  | some b => c.owner b.1 (o - b.2)
  | none => 0

/-- MEM_ECCCNTu (Table 12.7). -/
def EccCount.word (k : EccCount) : Nat := k.drop * 2 ^ 48 + k.ue * 2 ^ 32 + k.ce
/-- MEM_UELASTu (Table 12.8). -/
def EccCount.lastWord (k : EccCount) : Nat := flag k.ueValid 63 + k.ueAddr / 64 * 64

/-- SEC_BOOTSTAT (Table 18.5): ROMREV reads 1. -/
def Sec.bootStat (x : Sec) : Nat :=
  0x1000 + flag x.trial 11 + flag x.idok 10 + flag x.fallback 9 + x.slot % 2 * 2 ^ 8 + x.stage % 16

/-- ETH_PORTSTATn (Table 14.3). -/
def Port.stat (p : Port) : Nat := p.fecunc * 2 ^ 32 + p.dropnr * 2 ^ 16 + flag p.andone 1 + flag p.up 0

/-- VID_ENGSTATe (Table 17.5). -/
def Engine.stat (e : Engine) : Nat :=
  e.streams.length * 2 ^ 48 + e.cur % 256 * 2 ^ 32 + flag e.run.isSome 31 + e.wdog

/-- The value of an FW field as it reads (R13, R369): 0 until the firmware reaches stage 5. LAN_MCTPVID alone is read from
stage 2 (R311). At stage 7 the loaded value is read, also where bivouac mode was entered before stage 5. (log 92, DESIGN CHOICE) -/
def State.fw (s : State) (v : Nat) : Nat := if s.sec.stage = 5 ∨ s.sec.stage = 7 then v else 0

/-- What a register reads as (R10): RES0 spans and WO fields read 0. -/
def State.regRead (s : State) : Reg → Nat
  | .bivStat => s.lan.bivStat
  | .bivCtl => s.lan.bivPort * 2 ^ 8 + s.lan.bivQset
  | .telCtl => s.lan.telQp * 2 ^ 32 + s.lan.telMs * 2 ^ 16 + flag s.lan.telEn 0
  | .telStat => s.lan.telLost
  | .pinStat => s.board.pbtrans * 2 ^ 32 + flag s.dmp.pwrbrk 10 + flag s.board.rawPwrbrk 9 + flag s.board.pwrEn 8
  | .alert => s.lan.alert.toNat
  | .vid => if 2 ≤ s.sec.stage then s.lan.vid % 2 ^ 32 else 0
  | .cap => s.dmp.cap
  | .dmpStat => s.dmp.stat
  | .cal => encInt 16 s.dmp.offset * 2 ^ 32 + s.dmp.gain % 2 ^ 16
  | .hours => s.fw (s.dmp.hours % 2 ^ 32)
  | .die d => (s.dmp.die d).word
  | .vt d n => s.fw ((s.dmp.die d).vtWord n)
  | .pmode p => flag (bit s.core.pmode p) 0
  | .act m x =>
    let a := (lookup s.core.acts m).getD {}
    ([a.beat, a.gate, a.skip].getD x 0) % 2 ^ 64
  | .slotPart => ((List.range 16).map (fun j => (s.core.tslot j).owner % 16 * 16 ^ j)).sum
  | .slotStat j => (s.core.tslot j).stat
  | .sivStall d => (lookup s.core.stalls d).getD 0 % 2 ^ 64
  | .smpStat d =>
    let x := s.core.samplers.toList.getD d {}
    x.errs * 2 ^ 40 + flag x.failed 35 + x.state * 2 ^ 32 + x.gcount
  | .smpCtl _ => 0
  | .devnum => s.nym.level * 2 ^ 16 + s.fw s.nym.devnum
  | .rtCtl => s.nym.rtCtl
  | .rtStat => s.nym.rtStat
  | .nymCtl => s.nym.linken
  | .follow => s.nym.fmargin * 16 + flag s.nym.follow 0
  | .nymStall => s.stallCount % 2 ^ 32
  | .linkStat n => (s.nym.link n).stat
  | .portCtl n => (s.eth.port n).ctl
  | .portStat n => (s.eth.port n).stat
  | .ets n => (s.eth.port n).ets
  | .ip4 n => (s.eth.port n).ip4
  | .ip6h n => (s.eth.port n).ip6h
  | .ip6l n => (s.eth.port n).ip6l
  | .mac n => s.fw (s.eth.port n).mac
  | .cmdq n => (s.eth.queue n).addr + (s.eth.queue n).log2d
  | .cplq n => (s.eth.queue n).haddr
  | .cplkey n => (s.eth.queue n).rkey * 2 ^ 32 + (s.eth.queue n).clog2d
  | .qstat n =>
    let q := s.eth.queue n
    q.cplhead * 2 ^ 48 + q.cpltail * 2 ^ 32 + q.ctail * 2 ^ 16 + q.chead
  | .winA w => ((lookup s.eth.wins w).getD (0, 0)).1
  | .winB w => ((lookup s.eth.wins w).getD (0, 0)).2
  | .engStat e => (s.vid.toList.getD e {}).stat
  | .schSlot n => s.core.slotWord n
  | .acct => s.core.acctReg
  | .bind n => ofLE ((List.range 8).map (fun j => BitVec.ofNat 8 (s.core.ownerByte (8 * n + j))))
  | .slot k g => (s.core.slotNum k).read g
  | .rtn n => fld s.core.ration (8 * n) 8
  | .hbmmap => s.core.hbmSpread
  | .eccCnt u => (s.core.ecc.count u).word
  | .ueLast u => (s.core.ecc.count u).lastWord
  | .scrub => s.bg.sramMin * 2 ^ 16 + s.bg.lpH * 2 ^ 8 + s.bg.hbmH
  | .bootStat => s.sec.bootStat
  | .vers => s.fw (s.sec.minsec % 2 ^ 32 * 2 ^ 32 + s.sec.secver % 2 ^ 32)
  | .meas i w => fld (s.sec.meas.toList.getD i []) (8 * w) 8
  | .headSeq => s.fw s.core.jnl.head
  | .flashSeq => s.fw s.core.jnl.copied
  | .headHash w => s.fw (fld s.core.jnl.hash (8 * w) 8)
  | .jnlStat => flag s.core.jnl.ringLost 32 + s.fw (s.core.jnl.bootn % 2 ^ 32)
  | .capVersion => 0x400A0100
  | .capMask w => if w = 0 then 0x7FFF else 0

/-! ### Checking a write -/

/-- The bits of a span [hi:lo]. -/
def spanBits (hi lo : Nat) : Nat := (2 ^ (hi + 1 - lo) - 1) * 2 ^ lo

/-- RES0 bits of a register (log 48, DEDUCED); CAP_MASK1, which has no field map, has none: it holds RO capability bits that read
as zero (log 85, DESIGN CHOICE). -/
def Reg.res0 : Reg → Nat
  | .bivStat => spanBits 62 16
  | .bivCtl => spanBits 63 10 + spanBits 7 6
  | .telCtl => spanBits 63 44 + spanBits 15 1
  | .telStat | .vid | .hours | .ip4 _ | .capVersion => spanBits 63 32
  | .pinStat => spanBits 63 48 + spanBits 31 11 + spanBits 7 0
  | .alert => spanBits 63 3
  | .cap => spanBits 63 12
  | .dmpStat => spanBits 60 48
  | .cal => spanBits 63 48 + spanBits 31 16
  | .die _ => spanBits 39 37 + spanBits 7 0
  | .vt _ _ => spanBits 63 40
  | .pmode _ | .smpCtl _ => spanBits 63 1
  | .slotStat _ => spanBits 63 40 + spanBits 7 5
  | .smpStat _ => spanBits 63 48 + spanBits 39 36
  | .devnum | .nymCtl | .scrub => spanBits 63 24
  | .rtCtl => spanBits 8 4
  | .rtStat => spanBits 31 16
  | .follow => spanBits 63 8 + spanBits 3 1
  | .nymStall => spanBits 62 32
  | .linkStat _ => spanBits 34 32 + spanBits 7 4
  | .portCtl _ => spanBits 63 52 + spanBits 36 32 + spanBits 23 17 + spanBits 15 1
  | .portStat _ => spanBits 63 48 + spanBits 15 2
  | .mac _ | .hbmmap => spanBits 63 48
  | .cmdq _ => spanBits 11 4
  | .cplkey _ => spanBits 31 4
  | .winA _ => spanBits 11 3
  | .winB _ => spanBits 63 56
  | .engStat _ => spanBits 63 57 + spanBits 47 40 + spanBits 30 16
  | .schSlot _ => spanBits 62 51 + spanBits 47 42 + spanBits 31 3
  | .acct => spanBits 16 1
  | .rtn n => if n = 0 then spanBits 31 16 else if n = 7 ∨ n = 8 then spanBits 63 40 else 0
  | .eccCnt _ => spanBits 62 56
  | .ueLast _ => spanBits 62 48 + spanBits 5 0
  | .bootStat => spanBits 63 16 + spanBits 7 4
  | .jnlStat => spanBits 63 33
  | .capMask w => if w = 0 then spanBits 63 15 else 0
  | .act _ _ | .slotPart | .sivStall _ | .ets _ | .ip6h _ | .ip6l _ | .cplq _ | .qstat _ | .bind _ | .slot _ _ | .vers
  | .meas _ _ | .headSeq | .flashSeq | .headHash _ => 0

/-- Regions of HBM set `f` (R254). -/
def setRegions (f : Nat) : List Nat := (List.range 8).map (fun s => s * 48 + f)

/-- Sets whose mapping a MEM_HBMMAP value would change. -/
def Core.mapChanges (c : Core) (v : Nat) : List Nat := (List.range 48).filter (fun f => bit v f != bit c.hbmSpread f)

/-- Whether a set is in use (R255): a region of it is bound, of the model region, or holds part of an image area. -/
def Core.setInUse (c : Core) (f : Nat) : Bool :=
  (setRegions f).any (fun r => c.owner 2 r != 0xFF ||
    c.ctxs.any (fun k => overlaps k.2.imgAddr k.2.imgLen (r * 0x40000000) 0x40000000))

/-- Whether a queue holds what forbids its configuration (R301); the entries not read and the records not written of a queue that
has stopped do not, since its configuration alone starts it again (R306). (log 66, DEDUCED) -/
def State.queueBusy (s : State) (n : Nat) : Bool :=
  let q := s.eth.queue n
  q.running != 0 || q.cpltail != q.cplhead ||
    (!q.stopped && (q.chead != q.ctail || s.eth.recs.any (fun r => r.qp == n && !r.unsol)))

/-- The fault that refuses a write to a register, 0 for none (R11, and the owning chapters); a breach of R11 is reported before
one of an owning chapter. (log 85, DESIGN CHOICE) -/
def State.regCheck (s : State) (r : Reg) (v : Nat) : Nat :=
  if v &&& r.res0 ≠ 0 then 0x0401 else
  match r with
  | .telCtl => if bits v 16 16 = 0 then 0x0401 else 0
  | .cap => if 600 ≤ v ∧ v ≤ 2500 then 0 else 0x0401
  | .slotPart => if (List.range 16).all (fun j => bits v (4 * j) 4 < 8 || bits v (4 * j) 4 == 0xF) then 0 else 0x0401
  | .devnum => if s.nym.tables ∨ s.nym.links.toList.any (fun l => l.state == 1 || l.state == 2) then 0x0709 else 0
  | .rtCtl =>
    if bit v 11 ∧ (s.nym.pstate = 1 ∨ s.nym.oldLive) then 0x0708
    else if bit v 10 ∧ s.nym.pstate ≠ 2 then 0x0708
    else if bit v 9 ∧ s.nym.oldLive then 0x0708 else 0
  | .portCtl _ => if bits v 40 12 = 0xFFF then 0x0401 else 0
  | .cmdq n | .cplkey n =>
    if v % 16 < 4 ∨ 12 < v % 16 then 0x0401 else if s.queueBusy n then 0x0806 else 0
  | .cplq n => if v % 32 ≠ 0 then 0x0401 else if s.queueBusy n then 0x0806 else 0
  | .slot k g => if ((s.core.slotNum k).write g v).isNone then 0x0401 else 0
  | .hbmmap => if (s.core.mapChanges v).any s.core.setInUse then 0x0205 else 0
  | .scrub =>
    let ok := fun (x m : Nat) => decide (1 ≤ x ∧ x ≤ m)
    if ok (bits v 16 8) 60 ∧ ok (bits v 8 8) 24 ∧ ok (bits v 0 8) 24 then 0 else 0x0401
  | _ => 0

/-! ### What an accepted write does -/

/-- A change of MEM_HBMMAP (R255): the sets' regions read 0 until written. -/
def Core.remap (c : Core) (v : Nat) : Core :=
  let rs := (c.mapChanges v).flatMap setRegions
  let c1 := rs.foldl (fun (a : Core) r =>
    { a with mem := a.mem.clear (r * 0x40000000) 0x40000000, ecc := a.ecc.forget a.space (r * 0x40000000) 0x40000000 }) c
  { c1 with hbmSpread := v % 2 ^ 48 }

/-- The Ethernet side changed. -/
def State.onEth (s : State) (f : Eth → Eth) : State := { s with eth := f s.eth }

/-- A routing command (R276): ADDR is written, then LOAD, ACTIVATE and RETIRE act. -/
def State.routing (s : State) (v : Nat) : State :=
  let s0 := s.onNym (fun n => { n with rtAddr := v / 4096 * 4096 })
  let s1 := if bit v 10 then s0.onNym Nym.activateBank else s0
  let s2 := if bit v 9 then s1.onNym Nym.retireBank else s1
  if bit v 11 then s2.loadRouting else s2

/-- A port brought to what EN says (Table 14.2): a disabled port is down. -/
def State.portEnable (s : State) (n v : Nat) : State :=
  let p := s.eth.port n
  let s1 := s.onEth (fun e => e.modPort n (fun p => { p with ctl := v }))
  if ¬ bit v 0 ∧ (p.up ∨ p.andone) then
    let s2 := s1.onEth (fun e => e.modPort n (fun p => { p with up := false, andone := false }))
    if p.up then s2.telEvent 6 (leBytes 1 (0x80 + n) ++ leBytes 1 1 ++ leBytes 1 0) else s2
  else s1

/-- Effect of an accepted write; RO registers keep their value (R10). -/
def State.regApply (s : State) (r : Reg) (v : Nat) : State :=
  match r with
  | .bivCtl => { s with lan := { s.lan with bivPort := bits v 8 2, bivQset := bits v 0 6 } }
  | .telCtl => ({ s with lan := { s.lan with telQp := bits v 32 12, telMs := bits v 16 16, telEn := bit v 0 } } : State).telFlush
  | .alert => { s with lan := { s.lan with alert := s.lan.alert &&& ~~~(BitVec.ofNat 3 v) } }
  | .cap => { s with dmp := { s.dmp with cap := v } }
  | .pmode p => s.onCore (fun c => { c with pmode := setBits c.pmode p 1 v })
  | .slotPart => s.onCore (fun c => (List.range 16).foldl (fun (a : Core) j => a.setTslot j ((a.tslot j).assign (bits v (4 * j) 4))) c)
  | .smpCtl d => if bit v 0 then s.sampler d (samplerTest !(s.core.sampling d).isEmpty) else s
  | .devnum => s.onNym (fun n => { n with devnum := bits v 0 16, level := bits v 16 8 })
  | .rtCtl => s.routing v
  | .nymCtl => (s.onNym (fun n => { n with linken := v })).linkEnable
  | .follow => s.onNym (fun n => { n with follow := bit v 0, fmargin := bits v 4 4 })
  | .nymStall => if bit v 63 then s.abortStalled else s
  | .portCtl n => s.portEnable n v
  | .ets n => s.onEth (fun e => e.modPort n (fun p => { p with ets := v }))
  | .ip4 n => s.onEth (fun e => e.modPort n (fun p => { p with ip4 := v }))
  | .ip6h n => s.onEth (fun e => e.modPort n (fun p => { p with ip6h := v }))
  | .ip6l n => s.onEth (fun e => e.modPort n (fun p => { p with ip6l := v }))
  | .cmdq n =>
    s.onEth (fun e => e.setQueue n { e.queue n with addr := v / 4096 * 4096, log2d := v % 16, chead := 0, ctail := 0, cpltail := 0,
                                                     cplhead := 0, stale := false, stopped := false })
  | .cplq n => s.onEth (fun e => e.setQueue n { e.queue n with haddr := v })
  | .cplkey n => s.onEth (fun e => e.setQueue n { e.queue n with rkey := v / 2 ^ 32, clog2d := v % 16 })
  | .winA w => s.onEth (fun e => { e with wins := insertKey w (v, ((lookup e.wins w).getD (0, 0)).2) e.wins })
  | .winB w => s.onEth (fun e => { e with wins := insertKey w (((lookup e.wins w).getD (0, 0)).1, v) e.wins })
  | .acct => s.onCore (fun c => { c with acctReg := v })
  | .slot k g => s.onCore (fun c => match (c.slotNum k).write g v with
    | some r => c.setSlotNum k r
    | none => c)
  | .hbmmap => s.onCore (fun c => c.remap v)
  | .eccCnt u => if bit v 63 then s.onCore (fun c => { c with ecc := c.ecc.modCount u (fun k => { ueAddr := k.ueAddr }) }) else s
  | .scrub => { s with bg := { s.bg with sramMin := bits v 16 8, lpH := bits v 8 8, hbmH := bits v 0 8 } }
  | .bivStat | .telStat | .pinStat | .vid | .dmpStat | .cal | .hours | .die _ | .vt _ _ | .act _ _ | .slotStat _ | .sivStall _
  | .smpStat _ | .rtStat | .linkStat _ | .portStat _ | .mac _ | .qstat _ | .engStat _ | .schSlot _ | .bind _ | .rtn _ | .ueLast _
  | .bootStat | .vers | .meas _ _ | .headSeq | .flashSeq | .headHash _ | .jnlStat | .capVersion | .capMask _ => s

/-! ### Who may reach a register -/

/-- Queue set of a window index, of a queue, or none: the registers that the queue pairs of a set may write (R300, R301). -/
def Reg.qset : Reg → Option Nat
  | .winA w | .winB w => some (w / 16)
  | .cmdq n | .cplq n | .cplkey n | .qstat n => some (n / 64)
  | _ => none

/-- Whether a path's register accesses reach a register (R296, R300, R301, R305, R311): the operator's reach all; those of a
bound queue set its own windows and queues, and its commands' reads, where `wr` is false, LAN_MCTPVID. -/
def State.opens (s : State) (p : Path) (r : Option Reg) (wr : Bool) : Bool :=
  match p with
  | .roce qp => (s.core.qpPart qp).isNone || (match r with
    | some g => g.qset == some (qp / 64) || (g == .vid && !wr)
    | none => false)
  | _ => true

/-- Whether Lantern serves register accesses: from stage 3, when its journal stands (R391), and in bivouac mode (R398). (log 13, DESIGN CHOICE) -/
def State.regsUp (s : State) : Bool := !s.sec.restart && (s.sec.stage == 3 || s.sec.stage == 4 || s.sec.stage == 5 || s.sec.stage == 7)

/-- Whether a path is kept in bivouac mode (R398). -/
def State.keeps (s : State) (p : Path) : Bool :=
  match p with
  | .roce qp => s.serves qp
  | _ => true

/-! ### Accesses -/

/-- Whether a range lies in the journal ring (R386). -/
def inRing (a n : Nat) : Bool := overlaps a n 0x01FFC0000000 0x800000

/-- Why a register access is refused before a register is looked at, 0 for none (R9, R97, R305, R397): its size and alignment
first, then an address that names no register, then `deny` for a register not open to the path's partition, 0x0802 for a
command and 0x0804 for an access through RoCE (R299, R305). (log 85, DESIGN CHOICE) -/
def State.accessCheck (s : State) (p : Path) (a size : Nat) (wr : Bool) (deny : Nat := 0x0802) : Nat :=
  if s.lan.bivActive ∧ ¬ s.keeps p then 0x0802
  else if size ≠ 8 ∨ a % 8 ≠ 0 then 0x0402
  else if (regAt a).isNone then 0x0201
  else if ¬ s.opens p (regAt a) (wr || deny != 0x0802) then deny
  else 0

/-- A register write by a path (R9 to R11, R389): journalled before it takes effect, accepted or refused; the fault that
refuses it, 0 for none. -/
def State.regWrite (s : State) (src : Src) (p : Path) (a size v : Nat) (deny : Nat := 0x0802) : Nat × State :=
  let c0 := s.accessCheck p a size true deny
  match regAt a with
  | some r =>
    let code := if c0 ≠ 0 then c0 else s.regCheck r v
    let s1 := s.journal src { kind := 1, code := code, addr := a, old := s.regRead r, new := v }
    (code, if code = 0 then s1.regApply r v else s1)
  | none => (if c0 ≠ 0 then c0 else 0x0201, s.journal src { kind := 1, code := if c0 ≠ 0 then c0 else 0x0201, addr := a, new := v })

/-- Whether window `w` of a queue pair's set is enabled, permits the operation and covers the bytes (R299 conditions 1 and 2). -/
def Eth.winHolds (e : Eth) (qp w va n : Nat) (wr : Bool) : Bool :=
  let x := (lookup e.wins (qp / 64 * 16 + w)).getD (0, 0)
  let base := x.1 / 4096 * 4096
  bit x.1 0 && bit x.1 (if wr then 1 else 2) && base ≤ va && va + n ≤ base + bits x.2 0 32 * 4096

/-- Whether an R_Key and an address lie in an enabled window of a queue pair's set that permits the operation (R299
conditions 1 and 2). -/
def State.inWindow (s : State) (qp va rkey n : Nat) (wr : Bool) : Bool :=
  bits rkey 28 4 == 0 && bits rkey 0 24 == bits ((lookup s.eth.wins (qp / 64 * 16 + bits rkey 24 4)).getD (0, 0)).2 32 24 &&
    s.eth.winHolds qp (bits rkey 24 4) va n wr

/-- Whether a queue pair carries requests: connected, its port up, and served (R297, R398). -/
def State.carries (s : State) (qp : Nat) : Bool :=
  (s.eth.qp qp).state == .ready && (s.eth.port (s.eth.qp qp).port).up && s.serves qp

/-- The two addresses by which this module's local address may be named (R20). -/
def State.spellings (s : State) (a : Nat) : List Nat := [0xFFFF * 2 ^ 48 + a, s.nym.devnum * 2 ^ 48 + a]

/-- Whether a row's access comes through: by a queue pair it is an RDMA access, which a queue pair that carries requests makes
through a window of its set that permits it and covers one of the addresses `vas` (R299 conditions 1 and 2). (log 88, DEDUCED) -/
def State.through (s : State) (p : Path) (vas : List Nat) (n : Nat) (wr : Bool) : Bool :=
  match p with
  | .roce qp => s.carries qp && vas.any (fun a => (List.range 16).any (fun w => s.eth.winHolds qp w a n wr))
  | _ => true

/-- A row's access that does not come through: nothing where the queue pair carries no requests, else the NAK of R299. -/
def State.turnedAway (s : State) (p : Path) : State :=
  match p with
  | .roce qp => if s.carries qp then s.nak p "NAK remote access error" else s
  | _ => s

/-! ### Mailboxes -/

/-- First address of the mailbox pages (R302). -/
def boxBase : Nat := pageBase + 0x1000000

/-- A mailbox. -/
def Lan.box (l : Lan) (m : Nat) : Mailbox := l.boxes.toList.getD m {}
/-- A mailbox changed. -/
def State.modBox (s : State) (m : Nat) (f : Mailbox → Mailbox) : State :=
  { s with lan := { s.lan with boxes := s.lan.boxes.setIfInBounds m (f (s.lan.box m)) } }

/-- Whether a path is the sender's side of a mailbox: the host side of 0 to 15, Lantern, named by a mailbox path, of 16 to 31. -/
def isSender (p : Path) (m : Nat) : Bool :=
  match p with
  | .mailbox _ => 16 ≤ m
  | _ => m < 16

/-- Data words written from an offset. -/
def putWords (d : Vector W32 16) (o : Nat) (bs : List Byte) : Vector W32 16 :=
  (wordsOf 4 (bs.length / 4) bs).zipIdx.foldl (fun v w => v.setIfInBounds (o / 4 + w.2) (BitVec.ofNat 32 w.1)) d

/-- A refused send or data write counted (Table 14.15). -/
def Mailbox.refuse (b : Mailbox) : Mailbox := { b with refused := satInc b.refused 0xFF }

/-- A write of DATA words (R307): the fault that refuses it, 0 for none. -/
def State.boxData (s : State) (p : Path) (m o : Nat) (bs : List Byte) : Nat × State :=
  let n := bs.length
  if ¬ ((n = 64 ∧ o = 0) ∨ ((n = 4 ∨ n = 8) ∧ o % n = 0 ∧ o + n ≤ 64)) then (0x0402, s)
  else if ¬ isSender p m then (0, s)
  else if (s.lan.box m).full then (0x0805, s.modBox m Mailbox.refuse)
  else (0, s.modBox m (fun b => { b with data := putWords b.data o bs }))

/-- A write of GO (R11, R307): the sender's 1 sets FULL; a send by Lantern is reported to queue 0 (R309). A breach of R11 is
reported before a full mailbox (log 85, DESIGN CHOICE). -/
def State.boxGo (s : State) (p : Path) (m v : Nat) : Nat × State :=
  if 1 < v then (0x0401, s)
  else if ¬ isSender p m then (0, s)
  else if (s.lan.box m).full then (0x0805, s.modBox m Mailbox.refuse)
  else if v = 0 then (0, s)
  else
    let s1 := s.modBox m (fun b => { b with full := true })
    (0, if 16 ≤ m ∧ (s1.eth.queue 0).addr ≠ 0 then s1.unsolicited 0 0xFFFE 0 0 m else s1)

/-- A read of GO (R307): FULL; the receiver's read takes the message. -/
def State.boxTake (s : State) (p : Path) (m : Nat) : Nat × State :=
  let f := (s.lan.box m).full
  (flag f 0, if isSender p m then s else s.modBox m (fun b => { b with full := false }))

/-- Whether a path reaches the mailboxes (R99, R307, R308): Lantern, MCTP, and queue pairs of unbound sets. -/
def State.boxPath (s : State) (p : Path) : Bool :=
  match p with
  | .roce qp => (s.core.qpPart qp).isNone
  | _ => true

/-- A write to a mailbox page of any kind (R11, R307): STAT is read only, and its RES0 bits are checked. -/
def State.boxWrite (s : State) (p : Path) (m o : Nat) (bs : List Byte) : Nat × State :=
  if o < 64 then s.boxData p m o bs
  else if (o = 0x40 ∧ (bs.length = 4 ∨ bs.length = 8)) ∨ (o = 0x44 ∧ bs.length = 4) then
    if 0x100 ≤ fld bs (0x44 - o) 4 then (0x0401, s)
    else if o = 0x44 then (0, s)
    else s.boxGo p m (fld bs 0 4)
  else (0x0402, s)

/-- A read of a mailbox page (R307): the fault that refuses it or 0, and its bytes. -/
def State.boxRead (s : State) (p : Path) (m o n : Nat) : Nat × List Byte × State :=
  if ¬ ((n = 4 ∨ n = 8) ∧ o % n = 0 ∧ o + n ≤ 0x48) then (0x0402, [], s) else
  let b := s.lan.box m
  let q := if 0x40 ∈ span o n then s.boxTake p m else (0, s)
  let page := (b.data.toList.flatMap (fun w => leBytes 4 w.toNat)) ++ leBytes 4 q.1 ++ leBytes 4 b.refused
  (0, slice page o n, q.2)

/-- A write by the management path or a command outside the register space (R257, R307, R316, R386): of memory only the model region,
while no context is known, and the operator's mailbox pages; the fault that refuses it, 0 for none. (log 48, DEDUCED) -/
def State.memWrite (s : State) (p : Path) (a size v : Nat) : Nat × State :=
  if s.lan.bivActive ∧ ¬ s.keeps p then (0x0802, s)
  else match (areaOf a).1 with
    | .unmapped => (0x0201, s)
    | .hbm =>
      if s.lan.bivActive then (0x0201, s)
      else if size ≠ 8 ∨ a % 8 ≠ 0 then (0x0402, s)
      else if (s.core.pathPart p).isNone ∧ s.core.owner 2 (a / 0x40000000) = 0xFE ∧ s.core.ctxs.isEmpty then
        (0, s.onCore (fun c => c.store a (leBytes 8 v)))
      else (0x0202, s)
    | .pantry => (if s.lan.bivActive then 0x0201 else 0x0202, s)
    | .window => (if s.lan.bivActive then 0x0201 else 0x0402, s)
    | .page =>
      if a < boxBase ∨ (s.core.pathPart p).isSome then (0x0202, s)
      else s.boxWrite p ((a - boxBase) / 4096) (a % 4096) (leBytes size v)
    | _ => (0x0202, s)

/-- A write of the management path or a host at a local address: the fault that refuses it, 0 for none. -/
def State.writeAt (s : State) (src : Src) (p : Path) (a size v : Nat) (deny : Nat := 0x0802) : Nat × State :=
  if (areaOf a).1 = .mgmt then s.regWrite src p a size v deny else s.memWrite p a size v

/-- A checked read of main memory by Lantern for a path (R262): the bytes, or DETAIL of fault 0x0210. -/
def State.readMem (s : State) (a n : Nat) (remote : Bool := false) : State × Except (List Byte) (List Byte) :=
  let r := scanRange s.core.space s.core.mem s.core.ecc a n
  let s1 := s.onCore (fun c => { c with mem := r.1, ecc := r.2.1 })
  match r.2.2 with
  | some w => (s1, .error (ueDetail s.nym.devnum w (memUnit s.core.hbmSpread w) remote))
  | none => (s1, .ok (r.1.read a n))

/-- A read at a local address (R9, R97, R305, R307, R386): the fault that refuses it or 0, its DETAIL, the value, and the state. Of
memory only the journal ring is read this way, and by the operator the mailbox pages. (log 48, DEDUCED) -/
def State.readAt (s : State) (p : Path) (a size : Nat) : Nat × List Byte × Nat × State :=
  match (areaOf a).1 with
  | .mgmt =>
    let c0 := s.accessCheck p a size false
    if c0 ≠ 0 then (c0, [], 0, s) else (0, [], ((regAt a).map s.regRead).getD 0, s)
  | .unmapped => (0x0201, [], 0, s)
  | .lp =>
    if size ≠ 8 ∨ a % 8 ≠ 0 then (0x0402, [], 0, s)
    else if (s.core.pathPart p).isNone ∧ 0x01FFC0000000 ≤ a ∧ a < 0x01FFC0800000 then
      match s.readMem a 8 with
      | (s1, .error d) => (0x0210, d, 0, s1)
      | (s1, .ok bs) => (0, [], ofLE bs, s1)
    else (0x0202, [], 0, s)
  | .hbm | .pantry => (if s.lan.bivActive then 0x0201 else 0x0202, [], 0, s)
  | .window => (if s.lan.bivActive then 0x0201 else 0x0402, [], 0, s)
  | .page =>
    if a < boxBase ∨ (s.core.pathPart p).isSome then (0x0202, [], 0, s)
    else
      let q := s.boxRead p ((a - boxBase) / 4096) (a % 4096) size
      (q.1, [], ofLE q.2.1, q.2.2)

/-- A register write at a local address that has come through: nothing where Lantern does not serve; a refusal goes back through the
path with the address `named` by the sender. -/
def State.regSent (s : State) (p : Path) (a size v : Nat) (named : Nat := a) : State :=
  if ¬ s.regsUp then s else
  let q := s.writeAt (s.srcOf p) p a size v 0x0804
  if q.1 = 0 then q.2 else q.2.refuseAccess p q.1 named

/-- A register write of a row: an 8-byte write of one register of this module. -/
def State.regRow (s : State) (p : Path) (a v : Nat) : State :=
  if s.through p (s.spellings a) 8 true then s.regSent p a 8 v else s.turnedAway p

/-! ### Rows -/

/-- A remote access on behalf of a queue pair's partition (R299, R278): its packets, each a request that is answered, or the fault
that refuses it. -/
def State.qpRemote (s : State) (qp va opc : Nat) (data : List Byte) (n : Nat) : State :=
  match s.core.qpPart qp with
  | none => s.refuseAccess (.roce qp) 0x0804 va
  | some p =>
    match s.route p (devOf va) with
    | none => (s.nak (.roce qp) "NAK remote access error").refuse (.roce qp) 0x0703 va
    | some l =>
      let ask := fun (a : State) (q : Nat × List Byte) =>
        let t := a.core.tagAt 0
        (a.onCore (fun c => { c with
            nextTag := c.tagAt 1
            reqs := c.reqs ++ [{ tag := t, who := .qp qp, dest := devOf va, left := n, wait := some (.remote (va + q.1) (max n q.2.length)) }] })).send
          (.packet l { dest := devOf va, src := s.nym.devnum, epoch := s.epoch, opc := opc, spart := p, tag := t, addr := localOf va + q.1,
                       arg := 0, data := q.2 })
      if opc = 1 then ask s (0, leBytes 4 n) else (pieces (data.length / 4096 + 1) 0 data).foldl ask s



/-- Whether an address given for a register names this module (R20); beside RDMA, a local address does too (Table 14.12). (log 48,
DEDUCED) -/
def State.names (s : State) (p : Path) (a : Nat) : Bool :=
  ownAddr s.nym.devnum a || (a < 2 ^ 48 && (match p with | .roce _ => false | _ => true))

/-- REGISTER_WRITE (R11, R299): no register of this module stands at an address that names another (R20); there a queue pair's
write is carried over Nymhel. -/
def execRegisterWrite (p : Path) (addr : W64) (size : Nat) (v : W64) (s : State) : Host.Outcome State Fault Refusal :=
  let a := addr.toNat
  answer (if ¬ s.through p [a] size true then s.turnedAway p
    else if s.names p a then s.regSent p (localOf a) size v.toNat a
    else match p with
      | .roce qp => s.qpRemote qp a 2 ((leBytes 8 v.toNat).take size) 0
      | _ => if s.regsUp then s.refuseAccess p 0x0201 a else s)

/-- FPFLAGS_CLEAR (R54). -/
def execFpflagsClear (p : Path) (slot : Fin 16) (v : W64) (s : State) : Host.Outcome State Fault Refusal :=
  answer (s.regRow p (blockOff 0x0B + 0x20008 + slot.val * 0x20) v.toNat)

/-- NUMCTL_WRITE (R59, R61). -/
def execNumctlWrite (p : Path) (slot : Fin 16) (v : W64) (s : State) : Host.Outcome State Fault Refusal :=
  answer (s.regRow p (blockOff 0x0B + 0x20000 + slot.val * 0x20) v.toNat)

/-- HISTCTL_CLR (R56, R57). -/
def execHistctlClr (p : Path) (slot : Fin 16) (set : Fin 4) (v : W64) (s : State) : Host.Outcome State Fault Refusal :=
  answer (s.regRow p (blockOff 0x02 + 0x40000 + slot.val * 0x1000 + set.val * 0x400) v.toNat)

/-- FITSTAT_CLR (R153). -/
def execFitstatClr (p : Path) (slot : Fin 16) (v : W64) (s : State) : Host.Outcome State Fault Refusal :=
  answer (s.regRow p (blockOff 0x02 + 0x10000 + slot.val * 8) v.toNat)

/-- RCPSTAT_CLR (R177). -/
def execRcpstatClr (p : Path) (slot : Fin 16) (v : W64) (s : State) : Host.Outcome State Fault Refusal :=
  answer (s.regRow p (blockOff 0x02 + 0x10800 + slot.val * 8) v.toNat)

/-- FLTRING_WRITE (R110). -/
def execFltringWrite (p : Path) (slot : Fin 16) (v : W64) (s : State) : Host.Outcome State Fault Refusal :=
  answer (s.regRow p (blockOff 0x0B + 0x30000 + slot.val * 0x10) v.toNat)

/-- TAIL_WRITE (R110). -/
def execTailWrite (p : Path) (slot : Fin 16) (v : W64) (s : State) : Host.Outcome State Fault Refusal :=
  answer (s.regRow p (blockOff 0x0B + 0x30008 + slot.val * 0x10) v.toNat)

/-- ECCCNT_CLR (R265). -/
def execEcccntClr (p : Path) (unit : Fin 64) (v : W64) (s : State) : Host.Outcome State Fault Refusal :=
  answer (s.regRow p (blockOff 0x0D + 0x1000 + unit.val * 0x10) v.toNat)

/-- LAN_ALERT_CLEAR (R412). -/
def execLanAlertClear (p : Path) (v : W64) (s : State) : Host.Outcome State Fault Refusal :=
  answer (s.regRow p (blockOff 0x00 + 0x128) v.toNat)

/-- TEST (R232, R233). -/
def execSamplerTest (p : Path) (d : Fin 8) (v : W64) (s : State) : Host.Outcome State Fault Refusal :=
  answer (s.regRow p (blockOff 0x05 + d.val * 0x10 + 8) v.toNat)

/-- HBMMAP_WRITE (R255). -/
def execHbmmapWrite (p : Path) (v : W64) (s : State) : Host.Outcome State Fault Refusal :=
  answer (s.regRow p (blockOff 0x0D) v.toNat)

/-- SLOTPART_WRITE (R247). -/
def execSlotpartWrite (p : Path) (v : W64) (s : State) : Host.Outcome State Fault Refusal :=
  answer (s.regRow p (blockOff 0x03) v.toNat)

/-- DEVNUM_WRITE (R276). -/
def execDevnumWrite (p : Path) (v : W64) (s : State) : Host.Outcome State Fault Refusal :=
  answer (s.regRow p (blockOff 0x07) v.toNat)

/-- LOAD (R275, R276): a write of NYM_RTCTL with LOAD. -/
def execRoutingLoad (p : Path) (v : W64) (s : State) : Host.Outcome State Fault Refusal :=
  answer (s.regRow p (blockOff 0x07 + 8) (v.toNat ||| 2 ^ 11))

/-- ACTIVATE (R276): a write of NYM_RTCTL with ACTIVATE. -/
def execRoutingActivate (p : Path) (v : W64) (s : State) : Host.Outcome State Fault Refusal :=
  answer (s.regRow p (blockOff 0x07 + 8) (v.toNat ||| 2 ^ 10))

/-- RETIRE (R276): a write of NYM_RTCTL with RETIRE. -/
def execRoutingRetire (p : Path) (v : W64) (s : State) : Host.Outcome State Fault Refusal :=
  answer (s.regRow p (blockOff 0x07 + 8) (v.toNat ||| 2 ^ 9))

/-- ABORT (R289): a write of NYM_STALL with ABORT. -/
def execStallAbort (p : Path) (v : W64) (s : State) : Host.Outcome State Fault Refusal :=
  answer (s.regRow p (blockOff 0x07 + 0x28) (v.toNat ||| 2 ^ 63))

/-- CAP_WRITE (R337, R345). -/
def execCapWrite (p : Path) (v : W64) (s : State) : Host.Outcome State Fault Refusal :=
  answer (s.regRow p (blockOff 0x01) v.toNat)

/-- QUEUE_CONFIG_WRITE (R301): ETH_CMDQ, ETH_CPLQ or ETH_CPLKEY of queue `n`. -/
def execQueueConfigWrite (p : Path) (n : Fin 4096) (reg : Fin 3) (v : W64) (s : State) : Host.Outcome State Fault Refusal :=
  answer (s.regRow p (blockOff 0x08 + 0x10000 + n.val * 0x20 + reg.val * 8) v.toNat)

/-- PORTCTL_WRITE (R296). -/
def execPortctlWrite (p : Path) (port : Fin 4) (v : W64) (s : State) : Host.Outcome State Fault Refusal :=
  answer (s.regRow p (blockOff 0x08 + port.val * 0x40) v.toNat)

/-! ### The save windows -/

/-- Whether a strand is placed on an ME, or the ME is being saved or restored. -/
def Core.strandOn (c : Core) (me : Nat) : Bool := c.meBusy me

/-- Bytes of an ME's window read or written (R257): what a window with no strand holds lies in `windows`. (log 43, DEDUCED) -/
def Core.windowMem (c : Core) (me : Nat) : TileMem := (lookup c.windows me).getD {}

/-- Window errors of an ME with no strand. -/
def windowSpace (me : Nat) (acm : Bool) : Space :=
  let o := if acm then 0x200000 else 0
  ⟨2 ^ 51 + me * 2 ^ 16 + o / 64, fun _ => 0x28 + me / 16, fun w => winBase + me * 0x400000 + o + w⟩

/-- A window access checked (R99, R257, R398): only by the management path, aligned multiples of 64 bytes inside one ME's
OSP and ACM, with no strand placed there. -/
def State.windowCheck (s : State) (p : Path) (a n : Nat) : Nat :=
  let o := (a - winBase) % 0x400000
  if s.lan.bivActive then 0x0201
  else if (s.core.pathPart p).isSome then 0x0202
  else if a < winBase ∨ winEnd < a + n then 0x0201
  else if a % 64 ≠ 0 ∨ n % 64 ≠ 0 ∨ n = 0 then 0x0402
  else if 0x280000 < o + n then 0x0201
  else if s.core.strandOn ((a - winBase) / 0x400000) then 0x0204
  else 0

/-- One memory of an ME. -/
def TileMem.part (t : TileMem) (acm : Bool) : Mem := if acm then t.acm else t.osp
/-- One memory of an ME replaced. -/
def TileMem.setPart (t : TileMem) (acm : Bool) (m : Mem) : TileMem := if acm then { t with acm := m } else { t with osp := m }

/-- The parts of a window run in the OSP and in the ACM (R97, R257): which memory, the offset in it, and the length. -/
def windowParts (o n : Nat) : List (Bool × Nat × Nat) :=
  [(false, o, min (o + n) 0x200000 - o), (true, max o 0x200000 - 0x200000, o + n - max o 0x200000)].filter (fun q => 0 < q.2.2)

/-- One memory of an ME's window and the error state replaced. -/
def Core.putWindow (c : Core) (me : Nat) (acm : Bool) (m : Mem) (e : Ecc) : Core :=
  { c with windows := insertKey me ((c.windowMem me).setPart acm m) c.windows, ecc := e }

/-- A window run written (R257, R263). -/
def Core.windowWrite (c : Core) (me o : Nat) (bs : List Byte) : Core :=
  (windowParts o bs.length).foldl (fun (a : Core) q =>
    let base := q.2.1 + (if q.1 then 0x200000 else 0)
    let r := storeRange (windowSpace me q.1) ((a.windowMem me).part q.1) a.ecc q.2.1 (slice bs (base - o) q.2.2)
    a.putWindow me q.1 r.1 r.2) c

/-- A window run read (R257, R262): its bytes, or the uncorrectable word found, as it is reported. -/
def Core.windowRead (c : Core) (me o n : Nat) : Core × Except Nat (List Byte) :=
  (windowParts o n).foldl (fun (a : Core × Except Nat (List Byte)) q =>
    match a.2 with
    | .error _ => a
    | .ok bs =>
      let sp := windowSpace me q.1
      let r := scanRange sp ((a.1.windowMem me).part q.1) a.1.ecc q.2.1 q.2.2
      (a.1.putWindow me q.1 r.1 r.2.1, match r.2.2 with
        | some w => .error (sp.shown w)
        | none => .ok (bs ++ r.1.read q.2.1 q.2.2))) (c, .ok [])

/-- SAVE_WINDOW_ACCESS (R257). (log 43, DEDUCED) -/
def execSaveWindowAccess (p : Path) (addr : W64) (write : Option (List Byte)) (len : Nat) (s : State) :
    Host.Outcome State Fault Refusal :=
  answer (
    if ¬ s.regsUp then s else
    let a := addr.toNat
    let n := (write.map List.length).getD len
    let code := s.windowCheck p a n
    if code ≠ 0 then s.refuse p code a else
    let me := (a - winBase) / 0x400000
    let o := (a - winBase) % 0x400000
    match write with
    | some bs => (s.onCore (fun c => c.windowWrite me o bs)).send (.answer p 0 a)
    | none =>
      match s.core.windowRead me o n with
      | (c, .error w) =>
        (({ s with core := c } : State).reportFault p 0x0210 (ueDetail s.nym.devnum w (0x28 + me / 16) false)).refuse p 0x0210 a
      | (c, .ok bs) => ({ s with core := c } : State).send (.record p bs))

end Sys2Proof.Machine
end

