-- ==== Sys2Proof/Machine/Loader.lean ====
section
/-!
DEFINITION. The Iarex loader's checks of a pack (R96, R111, R113, R144 to R151, R160, R162, R164, R190, R202, R235) and its load
report (R177). Where the contents of a pack are static, the checks are those of instruction issue, run on a view that has the
operands the container gives. (log 25, DESIGN CHOICE; log 62, DEDUCED) -/
namespace Sys2Proof.Machine

/-- Bytes of a function-table image (R186). -/
def tableLen : Nat := 4160

/-- The largest ACMALLOC of a pack's entry points. -/
def PackFacts.acmMax (f : PackFacts) : Nat := (f.entries.map (fun e => e.2.1)).foldl max 0

/-- Whether what a container names lies in the pack and as the spec asks: entry points with an even ACMALLOC of 2 to 128 (R145), at
most 64 function tables, each 64-byte aligned (R186, R191), and table slots that name one of them. (log 25, DESIGN CHOICE) -/
def PackFacts.placed (f : PackFacts) (addr len : Nat) : Bool :=
  f.codeOff + f.codeLen ≤ len &&
  f.entries.all (fun e => e.2.1 % 2 == 0 && 2 ≤ e.2.1 && e.2.1 ≤ 128 && e.2.2.all (fun t => t.all (· < f.tables.length))) &&
  f.tables.length ≤ 64 && f.tables.all (fun o => (addr + o) % 64 == 0 && o + tableLen ≤ len) &&
  f.descs.all (fun d => d.1 + 64 ≤ len && d.2.all (fun o => o + 64 ≤ len)) && f.blocks.all (fun o => o + 64 ≤ len) &&
  f.uses.all (fun u => u.descs.all (fun d => d.2 + 64 ≤ len))

/-- The view the checks run on: a strand of partition `p` that may reach every pantry range. -/
def State.loadView (s : State) (p : Nat) (ladle : Bool) (acm : Nat) : X :=
  { c := s.core, env := s.env p, k := 1024, i := 0, tm := {}, num := {}, op := 0, trapOn := false
    cx := { part := p, pack := 256, prio := 0, mask := 0xFF, poff := 0, plen := 1024, imgAddr := 0, imgLen := 0, ladle := ladle }
    r := newStrand { num := 0, entry := 0, count := 1, arg := 0, base := some 0, cmd := none }
      { addr := 0, acmAlloc := acm, tables := [] } 0 0 }

/-- A pack being loaded: the view, the pack's address and bytes, and where its contents lie. -/
structure Loading where
  view : X
  addr : Nat
  img : List Byte
  facts : PackFacts

/-! ### One instruction alone -/

/-- What the loader establishes of slots and matrix formats from one instruction alone (R67, R84, R145), `acm` being the largest
ACMALLOC of the pack: bases of accumulations are even and their pair lies inside. -/
def slotRule (acm op : Nat) (i : Ins) : Res Unit :=
  let pair : Res Unit := need (i.op1 % 2 == 0 && i.op1 + 1 < acm) 0x0314 1
  match op with
  | 0x32 | 0x33 => need (i.op2 < acm) 0x0314 2
  | 0x45 => do
    if i.func = 1 ∨ i.func = 2 then need (i.op1 < acm) 0x0314 1 else pair
    tstFormats i
  | 0x50 => do let _ ← aopenRule acm i
  | 0x51 | 0x52 => do mmaFormats i; pair
  | 0x53 | 0x54 | 0x55 | 0x56 => pair
  | _ => return ()

/-- The place of a recipe on an instruction that may carry one (Table 7.1). -/
def placeOf (op : Nat) : Option Place :=
  match op with
  | 0x60 => some .gemm
  | 0x61 => some .conv
  | 0x62 => some .attn
  | 0x63 => some .bgemm
  | 0x68 => some .rapply
  | 0x45 => some .tst
  | _ => none

/-- A recipe that the instruction word alone shows to be misplaced (R162). -/
def placeRule (op : Nat) (i : Ins) : Res Unit :=
  match placeOf op with
  | some pl => need (!i.rcpen || placeOk pl i.recipe false 0 true false) 0x0306
  | none => return ()

/-! ### Static operands -/

/-- The view with the static operands of an instruction in its registers. -/
def Loading.withUse (l : Loading) (op : Nat) (u : StaticUse) : X :=
  let x := u.regs.foldl (fun (x : X) q => x.setS q.1 q.2) { l.view with op := op }
  u.descs.foldl (fun (x : X) q => x.setD q.1 (fld l.img q.2 64)) x

/-- Whether a register of a kind is static. -/
def StaticUse.has (u : StaticUse) (k : Kind) (n : Nat) : Bool :=
  match k with
  | .s => n == 0 || (lookup u.regs n).isSome
  | .d => (lookup u.descs n).isSome
  | _ => true

/-- Whether every descriptor operand of an instruction is static, with the parameter descriptor of a compressed one (R235). -/
def Loading.hasDescs (l : Loading) (u : StaticUse) (sp : OpSpec) (i : Ins) : Bool :=
  [(sp.k1, i.op1), (sp.k2, i.op2), (sp.k3, i.op3)].all (fun q => q.1 != .d ||
    (u.has .d q.2 && (bits (fld l.img ((lookup u.descs q.2).getD 0) 64) 90 2 != 1 || u.has .d (q.2 + 1))))

/-- Whether `n` bytes at an address lie in the pack; what lies elsewhere is not static (R96). -/
def Loading.holds (l : Loading) (a n : Nat) : Bool :=
  l.view.here a && localOf l.addr ≤ localOf a && localOf a + n ≤ localOf l.addr + l.img.length

/-- Bytes of the pack at an address in it. -/
def Loading.bytes (l : Loading) (a n : Nat) : List Byte := slice l.img (localOf a - localOf l.addr) n

/-- Address of the recipe block of an instruction whose OP4 is `a`. -/
def Loading.recipeAddr (l : Loading) (op a : Nat) : Nat :=
  if op = 0x68 then a else fld (l.bytes a 128) (if op = 0x62 then 0x30 else 0x40) 8

/-- Whether the recipe block of an instruction, if it has one, lies in the pack; and the block that OP4 names. -/
def Loading.hasRecipe (l : Loading) (op : Nat) (x : X) (i : Ins) : Bool := !i.rcpen || l.holds (l.recipeAddr op (x.s i.op4)) 64
def Loading.hasBlock (l : Loading) (op : Nat) (x : X) (i : Ins) : Bool :=
  if op = 0x68 then l.hasRecipe op x i else !(0x60 ≤ op && op ≤ 0x63) || l.holds (x.s i.op4) 128

/-- What the descriptors of a product show of its shapes whatever its block holds (R82, R147). -/
def productShape (op : Nat) (x : X) (t : Td × Td × Td) : Res Unit :=
  let (d, ta, tb) := t
  if op = 0x61 then x.check (d.e0 == tb.e3 && d.e3 == ta.e3) 0x0311
  else x.check (ta.rows == d.rows && ((ta.e0 == tb.rows && tb.e0 == d.e0) || (ta.e0 == tb.e0 && tb.rows == d.e0))) 0x0307

/-- The descriptors of an instruction checked for their uses, and what they alone show of its operands (R96, R147, R162, R241, R243). -/
def staticDescs (op : Nat) (x : X) (i : Ins) : Res Unit :=
  match op with
  | 0x30 => do let _ ← vldChk x i
  | 0x31 => do let _ ← vstChk x i
  | 0x44 => do let _ ← tldChk x i
  | 0x45 => do
    let t ← tstChk x i
    need (!i.rcpen || placeOk .tst i.recipe false 0 true (32 < t.cols)) 0x0306
  | 0x60 | 0x63 => do productShape op x (← gemmChk x i)
  | 0x61 => do productShape op x (← convChk x i)
  | 0x62 => do let _ ← attnChk x i
  | 0x68 => do let _ ← rapplyChk x i
  | 0x71 => do let _ ← kvputChk x i
  | 0x72 => do let _ ← msumChk x i
  | 0x73 => do let _ ← bsortChk x i
  | 0x7B => do let _ ← tfillChk x i
  | 0x7C => do let _ ← sampleChk x i
  | 0x80 => do x.pressFits i (← pressChk x i)
  | 0x81 => do x.phistFits (← phistChk x i)
  | 0x88 => do let _ ← collChk x i
  | 0x8A => do let _ ← rputChk x i
  | 0x8B => do let _ ← xdispChk x i
  | 0x8C => do let _ ← xcombChk x i
  | _ => return ()

/-- A macro's parameter block, with its convolution word and its recipe block, if that is in the pack (R81, R146, R164). -/
def Loading.staticMacro (l : Loading) (x : X) (i : Ins) (m : Nat) (pl : Place) : Res Unit := do
  let (mp, x1) ← x.macroBlock i m
  x1.check (m != 2 || convWordOk mp.convw) 0x0310
  if i.rcpen && l.holds mp.rcpparam 64 then do let _ ← x1.recipeAt pl i.recipe mp.rcpparam mp.team (mp.ks == 1) false

/-- The block that OP4 names checked (R81, R146, R164, R202), and PRESS's slot (R243). -/
def Loading.staticBlock (l : Loading) (op : Nat) (x : X) (i : Ins) : Res Unit :=
  match op with
  | 0x60 => l.staticMacro x i 1 .gemm
  | 0x61 => l.staticMacro x i 2 .conv
  | 0x63 => l.staticMacro x i 3 .bgemm
  | 0x80 => x.check (x.s i.op4 < 16) 0x0601
  | 0x62 => do
    let (p, x1) ← x.attnBlock i
    if i.rcpen && l.holds p.rcpparam 64 then do let _ ← x1.recipeAt .attn i.recipe p.rcpparam p.team true false
  | 0x68 => if i.rcpen then do let _ ← x.recipeAt .rapply i.recipe (x.s i.op4) 1 true false else return ()
  | _ => return ()

/-- The words of MCONV and the address of AEXP that are static (R81, R82, R84). -/
def staticWords (op : Nat) (u : StaticUse) (x : X) (i : Ins) : Res Unit := do
  if op = 0x52 ∧ u.has .s i.op3 then
    x.check (convWordOk (x.s i.op3)) 0x0310 3
    x.check (!u.has .s i.op4 || mconvWords (convOf (x.s i.op3)) (bandOf (x.s i.op4))) 0x0311 4
  if op = 0x54 ∧ u.has .s i.op2 then x.check (x.s i.op2 % 64 == 0) 0x0314 2

/-- A macro with all its operands static, whatever its team member (R147, R164, R169). -/
def staticPlan (op : Nat) (x : X) (i : Ins) : Res (Option MacroPlan) :=
  match op with
  | 0x60 => do let t ← gemmChk x i; let q ← x.gemmPlan i 1 .gemm t; return some q.1
  | 0x63 => do let t ← gemmChk x i; let q ← x.gemmPlan i 3 .bgemm t; return some q.1
  | 0x61 => do let t ← convChk x i; let q ← x.convPlan i t; return some q.1
  | _ => return none

/-- The footprints of a macro's largest product, narrowed as ACMFIT allows, and the records its parts export (R151, R154). (log 93,
DESIGN CHOICE) -/
def X.staticFit (x : X) (q : MacroPlan) : Res Unit := do
  match fitOf q.mp q.p q.rc with
  | .error e => x.refuse e.1
  | .ok _ => x.check (q.mp.ks == 1 || (List.range q.mp.ks).all (fun j => partCount (ceilDiv q.p.k 1024) q.mp.ks j ≤ q.mp.recper)) 0x0304

/-- The entries of a BGEMM whose pointer list lies in the pack, with their overlaps (R169). -/
def Loading.staticEntries (l : Loading) (x : X) (q : MacroPlan) : Res Unit :=
  match q.rc with
  | some rc =>
    if l.holds q.mp.list (64 * q.mp.nentry) then
      (List.range q.mp.nentry).forM (fun e =>
        match bgemmEntry q.mp q.p.a q.p.b q.p.d q.p.kind e (l.bytes (q.mp.list + 64 * e) 64) with
        | some (_, p) => rc.entryFits x q.mp.nentry e p.m p.n p.d
        | none => return ())
    else return ()
  | none => return ()

/-- The checks of an instruction with all its operands static. -/
def Loading.staticWhole (l : Loading) (op : Nat) (x : X) (i : Ins) (len : Option Nat) : Res Unit :=
  match op with
  | 0x62 => do
    let t ← attnChk x i
    let ((p, rc), x1) ← x.attnPlan i t
    match len.map (attnFitOf p t.2.1 (rc.map (fun r => r.foot t.1))) with
    | some (.error e) => x1.refuse e.1
    | _ => return ()
  | 0x68 => do let t ← rapplyChk x i; let _ ← x.rapplyPlan i t
  | 0x8A => do let t ← rputChk x i; x.rputShape t.1 t.2
  | _ => do
    match ← staticPlan op x i with
    | some q => do
      x.staticFit q
      if op = 0x63 then l.staticEntries x q
    | none => return ()

/-- The declared depth of an accumulation against the grains of its part (R74, R149). -/
def staticDepth (i : Ins) (part : Option (Nat × Bool)) : Res Unit :=
  match part with
  | some (n, last) => need (stackNeed (bits i.imm 32 22) n last ≤ bits i.imm 54 5) 0x0312 1
  | none => return ()

/-- The checks that an instruction's static operands allow. -/
def Loading.useChecks (l : Loading) (op : Nat) (i : Ins) : List (Res Unit) :=
  match opSpec op with
  | none => []
  | some sp => (l.facts.uses.filter (fun u => u.off % 16 == 0)).flatMap (fun u =>
    let x := l.withUse op u
    let descs := l.hasDescs u sp i
    let block := u.has .s i.op4 && l.hasBlock op x i
    (if op = 0x50 then [staticDepth i u.part] else []) ++ [staticWords op u x i] ++ (if descs then [staticDescs op x i] else []) ++
      (if block then [l.staticBlock op x i] else []) ++
      (if descs && block && l.hasRecipe op x i then [l.staticWhole op x i u.len] else []))

/-! ### The pack -/

/-- Codes that a loader raises (Tables 2.16, 3.11, 4.10, 6.8 and 11.8 say 'Iarex load' of them). -/
def loadCodes : List Nat :=
  [0x0102, 0x0103, 0x0104, 0x0301, 0x0302, 0x0303, 0x0304, 0x0306, 0x0307, 0x0310, 0x0311, 0x0312, 0x0314, 0x0403, 0x0404, 0x0405, 0x0406,
   0x0407, 0x0408, 0x0601]

/-- The first check that fails with a code of the loader's, with its DETAIL. -/
def firstFault (l : List (Res Unit)) : Option (Nat × List Byte) :=
  l.findSome? (fun r => match r with
    | .error (.fault f _) => if loadCodes.contains f.code then some (f.code, f.detail) else none
    | _ => none)

/-- The instructions of a code region: each one's offset, opcode and fields. -/
def codeIns (bs : List Byte) : List (Nat × Nat × Ins) :=
  (List.range (bs.length / 16)).map (fun j =>
    let w := fld bs (16 * j) 16
    (16 * j, w % 256, insOf (BitVec.ofNat 120 (w / 256))))

/-- The first fault of one instruction (R111, R113, R144, R145, R162): its encoding first; in tile mode a Ladle opcode is
refused. (log 62, DEDUCED) -/
def Loading.insFault (l : Loading) (e : Nat × Nat × Ins) : Option (Nat × List Byte) :=
  let here : Loading := { l with facts := { l.facts with uses := l.facts.uses.filter (fun u => u.off == e.1) } }
  firstFault ([encCheck e.2.1 e.2.2, need (l.view.cx.ladle || e.2.1 < 0x60 || 0x63 < e.2.1) 0x0302,
    slotRule l.view.r.acmAlloc e.2.1 e.2.2, placeRule e.2.1 e.2.2] ++ here.useChecks e.2.1 e.2.2)

/-- The fault of a descriptor present in the pack, taken alone (R96); a compressed one with its parameters, where they are static too
(R235). -/
def Loading.descFault (l : Loading) (d : Nat × Option Nat) : Option (Nat × List Byte) :=
  let w := fld l.img d.1 64
  firstFault [match d.2 with
    | some o => do let _ ← l.view.desc w (fld l.img o 64) 16 { comp := true }
    | none => let c := Sys2Proof.Machine.descFault w { comp := true } true; need (c == 0) c]

/-- The fault of a recipe parameter block present in the pack, at an offset (R164): one that is checked as that of a product by a single
member. -/
def Loading.blockFault (l : Loading) (o : Nat) : Option (Nat × List Byte) :=
  let num := fld l.img (o + 2) 1
  firstFault [do
    l.view.rcpNeed (l.addr + o) 0 [(num < 32, 2)]
    let _ ← l.view.recipeAt .gemm num (l.addr + o) 1 true false]

/-- The first fault of a pack's function tables with its DETAIL (R190). -/
def tablesFault (addr : Nat) (ts : List (Nat × List Byte)) : Option (List Byte) :=
  ts.findSome? (fun t => (ftabFault t.2).map (fun e => leBytes 8 (addr + t.1) ++ leBytes 1 0xFF ++ leBytes 1 e.1 ++ leBytes 2 e.2))

/-- The first fault of a pack, by instruction, then by descriptor, then by recipe block, then by function table, with its DETAIL. (log 25, DESIGN
CHOICE; log 62, DEDUCED) -/
def packFault (l : Loading) : Option (Nat × List Byte) :=
  match (codeIns (slice l.img l.facts.codeOff l.facts.codeLen)).findSome? l.insFault with
  | some f => some f
  | none =>
    match l.facts.descs.findSome? l.descFault, l.facts.blocks.findSome? l.blockFault with
    | some f, _ => some f
    | none, some f => some f
    | none, none => (tablesFault l.addr (l.facts.tables.map (fun o => (o, slice l.img o tableLen)))).map (fun d => (0x0306, d))

/-- The strategy code of an instruction that carries a recipe (R175, R177): NONE where the recipe has no row statistic or chain;
where it has, HOLD for RAPPLY and TST, which hold a row at a time; RUNNING where the recipe block shows it; that of a macro whose operands
are static, for BGEMM only where the largest product fits as HOLD and so does every entry; and else 255. (log 25, DESIGN CHOICE) -/
def Loading.strategy (l : Loading) (e : Nat × Nat × Ins) : Nat :=
  let m := menu e.2.2.recipe
  if ¬ (m.contains .norm || m.contains .smax || m.contains .chain) then 0
  else if e.2.1 = 0x68 ∨ e.2.1 = 0x45 then 1
  else
    match l.facts.uses.find? (fun u => u.off == e.1), opSpec e.2.1 with
    | some u, some sp =>
      let x := l.withUse e.2.1 u
      let rcp := l.bytes (l.recipeAddr e.2.1 (x.s e.2.2.op4)) 64
      if ¬ (u.has .s e.2.2.op4 && l.hasBlock e.2.1 x e.2.2 && l.hasRecipe e.2.1 x e.2.2) then 255
      else if m = [.smax, .chain] ∧ ¬ bit (fld rcp 3 1) 0 then 3
      else if ¬ l.hasDescs u sp e.2.2 then 255
      else match staticPlan e.2.1 x e.2.2 with
        | .ok (some q) =>
          match fitOf (if e.2.1 = 0x63 then { q.mp with acmfit := false } else q.mp) q.p q.rc with
          | .ok w => if e.2.1 = 0x63 ∧ w.2.2 ≠ 1 then 255 else w.2.2
          | .error _ => 255
        | _ => 255
    | _, _ => 255

/-- The load report: an entry for each instruction that carries a recipe (R177). (log 25, DESIGN CHOICE) -/
def loadReport (l : Loading) : List Byte :=
  ((codeIns (slice l.img l.facts.codeOff l.facts.codeLen)).filter (fun e => (placeOf e.2.1).isSome && e.2.2.rcpen)).flatMap
    (fun e => leBytes 8 (l.addr + l.facts.codeOff + e.1) ++ leBytes 8 (l.strategy e))

end Sys2Proof.Machine
end

