-- ==== Sys2Proof/Machine/HostCmds.lean ====
section
/-!
DEFINITION. Commands of hosts and management (14, 15): who may give them and when they run (R305, R369, R397), their
completion and journal entry (R304, R388), and the commands on registers, packs, contexts, bindings and rations.
-/
namespace Sys2Proof.Machine

/-! ### Admission and completion -/

/-- An argument of a command: `n` bytes at offset `o` of ARGS. -/
def HostCmd.arg (h : HostCmd) (o n : Nat) : Nat := fld h.args o n

/-- Whether ARGS bytes `o` to `o + n − 1` are zero. -/
def HostCmd.zero (h : HostCmd) (o n : Nat) : Bool := zeroAt h.args o n

/-- Where the completion of a command goes. -/
def HostCmd.ref (h : HostCmd) : CmdRef := { path := h.path, id := h.id, event := bit h.flags 1, frec := h.frec }

/-- Commands that are journalled (Table 19.5, KIND 2). -/
def journalled (opc : Nat) : Bool :=
  [0x10, 0x11, 0x12, 0x16, 0x20, 0x21, 0x22, 0x30, 0x40, 0x41, 0x50].contains opc

/-- Commands for unbound queue sets only (Table 14.12). -/
def unboundOnly (opc : Nat) : Bool := [0x20, 0x21, 0x22, 0x40, 0x41, 0x50].contains opc

/-- Commands admitted in bivouac mode (R398). -/
def bivouacAdmits (opc : Nat) : Bool := [0x01, 0x02, 0x03, 0x40, 0x41, 0x42, 0x50].contains opc

/-- What becomes of a command that comes to its turn now. -/
inductive Gate where
  | run | wait | deny
deriving DecidableEq, Repr

/-- Commands run at stage 5, those R398 admits run in bivouac mode, 0x0040 and 0x0041 in recovery; others wait, or in
bivouac mode are denied (R368, R369, R397). -/
def State.gate (s : State) (p : Path) (opc : Nat) : Gate :=
  if s.sec.restart then .wait
  else if s.lan.bivActive ∧ s.sec.stage = 7 then (if bivouacAdmits opc && s.keeps p then .run else .deny)
  else if s.sec.stage = 5 then .run
  else if s.sec.stage = 6 ∧ (opc = 0x40 ∨ opc = 0x41) then
    (match p with | .mctp _ _ => .run | _ => .wait)
  else .wait

/-- A completed command (R304): journalled where Table 19.5 says so, then answered through its path. -/
def State.complete (s : State) (h : HostCmd) (opc status result : Nat) (src : Nat := 3) (detail : List Byte := [])
    (ctx : Nat := h.ctx) (extra : List Byte := []) : State :=
  let s1 := if journalled opc then
      s.journal (s.srcOf h.path) { kind := 2, code := opc, new := status, detail := slice h.args 0 32 }
    else s
  s1.onCore (fun c => { c with dones := c.dones ++
    [{ cmd := h.ref, status := status, result := result, ctx := ctx, part := partField (c.pathPart h.path), src := src,
       detail := detail, extra := extra }] })

/-- Why a command may not be given by its path's partition, 0 for none (R305). -/
def State.allow (s : State) (h : HostCmd) (opc : Nat) (ctx : Option Nat) : Nat :=
  match s.core.pathPart h.path with
  | none => 0
  | some p =>
    let foreign := fun (k : Nat) => (lookup s.core.ctxs k).any (fun cx => cx.part != p)
    if unboundOnly opc ∨ (h.ctx ≠ 0xFFFF ∧ foreign h.ctx) ∨ ctx.any foreign then 0x0802 else 0

/-- How a command ends: at once with a status and a RESULT, or by a later event. -/
inductive Fin' where
  | now (status result : Nat) (src : Nat := 3) (detail : List Byte := []) (extra : List Byte := [])
  | later
  | hold

/-- A command carried out in turn: one whose entry has started, and whose OPC the row is (R303, R305); it waits, is denied, is
refused by R305, or runs. `ctx` is the context it names in ARGS; it waits while the scheduler saves or restores that context (R318). -/
def State.command (s : State) (h : HostCmd) (opc : Nat) (ctx : Option Nat) (run : State → State × Fin') : State :=
  if ¬ s.started.contains h ∨ h.opc ≠ opc then s else
  let s0 := { s with started := s.started.erase h }
  match s.gate h.path opc with
  | .wait => s
  | .deny => s0.complete h opc 0x0802 0
  | .run =>
    if ctx.any (fun k => (lookup s.core.ctxs k).any (fun cx => cx.moving != .none)) then s else
    let code := s.allow h opc ctx
    let k := ctx.getD h.ctx
    if code ≠ 0 then s0.complete h opc code 0 3 [] k else
    match run s0 with
    | (s1, .now st res src det ex) => s1.complete h opc st res src det k ex
    | (s1, .later) => s1
    | (_, .hold) => s

/-- A refusal of a command. -/
def no (s : State) (code : Nat) (detail : List Byte := []) : State × Fin' := (s, .now code 0 3 detail)

/-- The local half of a command's address; none when it names another module. (log 49, DEDUCED) -/
def State.local? (s : State) (a : Nat) : Option Nat :=
  if devOf a = 0xFFFF ∨ devOf a = s.nym.devnum then some (localOf a) else none

/-- Bytes of local memory read for partition `p`, 0xFF for the operator (R99, R262), `own` where the model region is not meant: the state after
the checks, and the bytes or the fault with its DETAIL. -/
def State.fetch (s : State) (p a n : Nat) (own : Bool := false) : State × Except (Nat × List Byte) (List Byte) :=
  match s.local? a with
  | none => (s, .error (0x0201, []))
  | some l =>
    let code := s.core.access p [] l n own
    if code ≠ 0 then (s, .error (code, [])) else
    match s.readMem l n with
    | (s1, .error d) => (s1, .error (0x0210, d))
    | (s1, .ok bs) => (s1, .ok bs)

/-! ### Registers and NOP -/

/-- NOP_COMMAND (Table 14.12). (log 48, DEDUCED) -/
def execNopCommand (h : HostCmd) (s : State) : Host.Outcome State Fault Refusal :=
  answer (s.command h 0x01 none (fun s => if h.zero 0 48 then (s, .now 0 0) else no s 0x0801))

/-- REGRD (Table 14.12, R141, R305): a local address; RESULT is the register. (log 48, DEDUCED) -/
def execRegrd (h : HostCmd) (s : State) : Host.Outcome State Fault Refusal :=
  answer (s.command h 0x02 none (fun s =>
    let a := h.arg 0 8
    if ¬ h.zero 8 40 then no s 0x0801
    else if 2 ^ 48 ≤ a then no s 0x0201
    else
      let q := s.readAt h.path a 8
      if q.1 = 0 then (q.2.2.2, .now 0 q.2.2.1) else no q.2.2.2 q.1 q.2.1))

/-- REGWR (Table 14.12, R141, R305): a local address. (log 48, DEDUCED) -/
def execRegwr (h : HostCmd) (s : State) : Host.Outcome State Fault Refusal :=
  answer (s.command h 0x03 none (fun s =>
    let a := h.arg 0 8
    if ¬ h.zero 16 32 then no s 0x0801
    else if 2 ^ 48 ≤ a then no s 0x0201
    else
      let q := s.writeAt (s.srcOf h.path) h.path a 8 (h.arg 8 8)
      (q.2, .now q.1 0)))

/-! ### Packs -/

/-- The partition a command acts on (R317): that of a bound queue set, which PART must name or be 0xFF; else PART. -/
def State.partArg (s : State) (h : HostCmd) (part : Nat) : Except Nat Nat :=
  match s.core.pathPart h.path with
  | some p => if part = p ∨ part = 0xFF then .ok p else .error 0x0802
  | none => if part < 8 then .ok part else .error 0x0C01

/-- The lowest number below `n` that a table does not hold. (log 52, DEDUCED) -/
def freeKey {α : Type} (l : List (Nat × α)) (n : Nat) : Option Nat := (List.range n).find? (fun i => (lookup l i).isNone)

/-- PACK_LOAD (R115, R144, R190, R317): the loader's checks, and the pack entered under the lowest free number. (log 25, DESIGN CHOICE; log 52,
DEDUCED) -/
def execPackLoad (h : HostCmd) (f : PackFacts) (s : State) : Host.Outcome State Fault Refusal :=
  answer (s.command h 0x10 none (fun s =>
    let addr := h.arg 0 8
    let len := h.arg 8 4
    let rep := h.arg 16 8
    let bad := fun (s : State) (code : Nat) (d : List Byte) => (s, Fin'.now code 0 0 d)
    if ¬ h.zero 13 3 ∨ ¬ h.zero 24 24 ∨ len = 0 then no s 0x0C01 else
    match s.partArg h (h.arg 12 1), freeKey s.core.packs 256 with
    | .error e, _ => no s e
    | .ok _, none => no s 0x0C08
    | .ok p, some num =>
      match s.fetch p addr len true with
      | (s1, .error (c, d)) => bad s1 c d
      | (s1, .ok bs) =>
        let ladle := bit s1.core.pmode p
        let v := versionFault f.major f.minor f.vlen f.grainLog2 f.caps
        if v ≠ 0 then bad s1 v []
        else if ¬ f.placed addr len then bad s1 0x0C01 []
        else match packFault { view := s1.loadView p ladle f.acmMax, addr := addr, img := bs, facts := f } with
        | some (c, d) => bad s1 c d
        | none =>
          let reps := loadReport { view := s1.loadView p ladle f.acmMax, addr := addr, img := bs, facts := f }
          match (if rep = 0 then some none else (s1.local? rep).map some) with
          | none => bad s1 0x0201 []
          | some r =>
            let rc := match r with
              | some l =>
                let c := s1.core.access p [] l reps.length true
                if c = 0 ∧ s1.core.storeRefused l reps.length then 0x0502 else c
              | none => 0
            if rc ≠ 0 then bad s1 rc [] else
            let a := localOf addr
            let pk : Pack :=
              { part := p, addr := a, len := len, codeBase := a + f.codeOff, codeLen := f.codeLen
                entries := f.entries.map (fun e => { addr := (addr + e.1) % 2 ^ 64, acmAlloc := e.2.1, tables := e.2.2 })
                tables := f.tables.map (fun o => slice bs o tableLen), digest := sha3 bs, caps := f.caps, ladle := ladle }
            (s1.onCore (fun c =>
              let c1 := match r with | some l => c.store l reps | none => c
              { c1 with packs := insertKey num pk c1.packs }), .now 0 num)))

/-! ### Contexts -/

/-- CONTEXT_CREATE (R317, R322). (log 52, DEDUCED) -/
def execContextCreate (h : HostCmd) (s : State) : Host.Outcome State Fault Refusal :=
  answer (s.command h 0x11 none (fun s =>
    let mask := h.arg 2 1
    let off := h.arg 4 2
    let len := h.arg 6 2
    let alen := h.arg 16 8
    match lookup s.core.packs (h.arg 0 1), s.local? (h.arg 8 8) with
    | some p, some a =>
      if (s.core.pathPart h.path).any (fun q => q != p.part) then no s 0x0802
      else if 7 < h.arg 1 1 ∨ ¬ h.zero 3 1 ∨ ¬ h.zero 24 24 ∨ 1023 < off ∨ 1024 < len ∨ 1024 < off + len ∨ a % 4096 ≠ 0 then
        no s 0x0C01
      else match freeKey s.core.ctxs 1024 with
        | none => no s 0x0C08
        | some k =>
          if s.core.quota p.part = 0 then no s 0x0C09
          else if s.core.access p.part [] a alen true ≠ 0 ∨ alen < imageSize p.acmMax (maskDies mask).length len then no s 0x0C04
          else
            (s.onCore (fun c => c.setCtx k
              { part := p.part, pack := h.arg 0 1, prio := h.arg 1 1, mask := mask, poff := off, plen := len, imgAddr := a,
                imgLen := alen, ladle := p.ladle }), .now 0 k)
    | some _, none => no s 0x0C04
    | none, _ => no s 0x0C01))

/-- A context taken off the chip for good (R317): its decode requests, walks, tables, slot registers and on-chip memory go,
its objects lose it as a user (R211), and what it asked of other modules is forgotten. -/
def Core.forgetCtx (c : Core) (k : Nat) : Core :=
  match lookup c.ctxs k with
  | none => c
  | some cx =>
    let c1 := c.dropDecodes k
    let c2 := if cx.slot.isSome then c1.clearChip k cx else c1
    { c2 with ctxs := eraseKey k c2.ctxs
              walks := c2.walks.filter (fun w => w.ctx != k)
              live := (c2.live.map (fun o => { o with users := o.users.filter (· != k) })).filter (fun o => !o.users.isEmpty)
              ftab := (c2.dropTables k).ftab
              reqs := c2.reqs.filter (fun q => !q.who.ofCtx k)
              usage := c2.usage.filter (fun u => u.1 / 8 != k)
              slotRegs := match cx.slot with | some n => eraseKey n c2.slotRegs | none => c2.slotRegs }

/-- Commands of a context that end with it (R317). -/
def Context.orphans (cx : Context) : List CmdRef := cx.launches.filterMap Launch.cmd ++ cx.resumeCmd.toList ++ cx.saveCmds

/-- A context discarded: its operations end at the other members with status 5, its accounting record is updated, and its
launch commands complete with 0x0C02 (R317, R327). -/
def State.discardCtx (s : State) (k : Nat) : State :=
  match lookup s.core.ctxs k with
  | none => s
  | some cx =>
    let s1 := s.abortAll k (statusWord 5 (s.rankIn k cx.coll.members))
    s1.onCore (fun c => ((c.account s.nym.devnum k).forgetCtx k).finishCmds cx.orphans k cx.part 0x0C02 0)

/-- The context a context command names (R317). -/
def HostCmd.ctxArg (h : HostCmd) : Nat := h.arg 0 2

/-- DISCARD (R317). -/
def execDiscard (h : HostCmd) (s : State) : Host.Outcome State Fault Refusal :=
  answer (s.command h 0x12 (some h.ctxArg) (fun s =>
    if ¬ h.zero 2 46 then no s 0x0C01
    else if (lookup s.core.ctxs h.ctxArg).isNone then no s 0x0C02
    else ((s.discardCtx h.ctxArg).schedule, .now 0 0)))

/-- LAUNCH (R85, R317): the launch joins the waiting launches of its context; its command completes when it ends. -/
def execLaunch (h : HostCmd) (s : State) : Host.Outcome State Fault Refusal :=
  answer (s.command h 0x13 (some h.ctxArg) (fun s =>
    let n := h.arg 4 1
    if ¬ h.zero 5 3 ∨ ¬ h.zero 16 32 ∨ n = 0 ∨ 128 < n then no s 0x0C01 else
    match lookup s.core.ctxs h.ctxArg with
    | none => no s 0x0C02
    | some cx =>
      if cx.state = .faulted then no s 0x0C02
      else if ((lookup s.core.packs cx.pack).bind (fun p => p.entries[h.arg 2 2]?)).isNone then no s 0x0C01
      else
        let l : Launch := { num := cx.nextLaunch, entry := h.arg 2 2, count := n, arg := h.arg 8 8, base := none, cmd := some h.ref }
        ((s.onCore (fun c => c.setCtx h.ctxArg
          { cx with launches := cx.launches ++ [l], nextLaunch := cx.nextLaunch + 1 })).schedule, .later)))

/-- LAUNCH_START (R85, R191). -/
def execLaunchStart (k : Fin 1024) (s : State) : Host.Outcome State Fault Refusal :=
  answer ((s.onCore (fun c => c.launchStart k.val)).wakeCtx k.val)

/-- RESUME (R58, R88, R212, R319): the walks of a faulted context end; a resident context goes on; one that is not is readmitted, and the command
completes then. -/
def execResume (h : HostCmd) (s : State) : Host.Outcome State Fault Refusal :=
  answer (s.command h 0x14 (some h.ctxArg) (fun s =>
    if ¬ h.zero 2 46 then no s 0x0C01 else
    match lookup s.core.ctxs h.ctxArg with
    | none => no s 0x0C02
    | some cx =>
      if cx.state ≠ .faulted then no s 0x0C02
      else if cx.slot.isSome then
        ((s.onCore (fun c => { c.setCtx h.ctxArg { cx with faulted := false, trap := none } with
            walks := c.walks.filter (fun w => w.ctx != h.ctxArg) })).schedule, .now 0 0)
      else ((s.onCore (fun c => { c.setCtx h.ctxArg { cx with faulted := false, lateFault := false, trap := none, woken := true, resumeCmd := some h.ref } with
            walks := c.walks.filter (fun w => w.ctx != h.ctxArg) })).schedule, .later)))

/-- SAVE (R318): a resident context is stopped and saved, and the command completes then; the image of one that is not
resident stands in its image area already, or is written now when it never was resident. (log 52, DEDUCED) -/
def execSaveContext (h : HostCmd) (s : State) : Host.Outcome State Fault Refusal :=
  answer (s.command h 0x15 (some h.ctxArg) (fun s =>
    if ¬ h.zero 2 46 then no s 0x0C01 else
    match lookup s.core.ctxs h.ctxArg with
    | none => no s 0x0C02
    | some cx =>
      if cx.slot.isSome then
        (s.onCore (fun c => c.setCtx h.ctxArg { cx with moving := .stopping, saveCmds := cx.saveCmds ++ [h.ref] }), .later)
      else if cx.savedLen ≠ 0 then (s, .now 0 cx.savedLen)
      else match lookup s.core.packs cx.pack with
        | none => (s, .now 0 0)
        | some p =>
          let q := s.core.image h.ctxArg cx p
          let cx := { cx with savedLen := q.1.length, acct := cx.acct.saved q.1.length }
          (s.onCore (fun _ => ((q.2.store cx.imgAddr q.1).setCtx h.ctxArg cx).account s.nym.devnum h.ctxArg), .now 0 q.1.length)))

/-- RESTORE (R323). (log 49, DEDUCED) -/
def execRestoreContext (h : HostCmd) (s : State) : Host.Outcome State Fault Refusal :=
  answer (s.command h 0x16 (some h.ctxArg) (fun s =>
    let k := h.ctxArg
    if ¬ h.zero 2 6 ∨ ¬ h.zero 16 32 then no s 0x0C01 else
    match lookup s.core.ctxs k with
    | none => no s 0x0C02
    | some cx =>
      if cx.slot.isSome ∨ cx.state ≠ .idle then no s 0x0C02 else
      match s.local? (h.arg 8 8), lookup s.core.packs cx.pack with
      | some a, some p =>
        let may := fun (n : Nat) => s.core.access cx.part [] a n false = 0 ∨
          ((s.core.pathPart h.path).isNone ∧ s.core.access 0xFF [] a n false = 0)
        if ¬ may 128 then no s 0x0202 else
        match s.core.readImage s.nym.devnum cx a with
        | (c1, .error (code, d, _)) => no (s.onCore (fun _ => c1)) code d
        | (c1, .ok img) =>
          let s1 := s.onCore (fun _ => c1)
          let f := imageFault cx p (!bit c1.pmode cx.part) img
          if ¬ may img.length then no s1 0x0202
          else if f ≠ 0 then no s1 f
          else match imageParts img with
            | none => no s1 0x0C03
            | some (ss, _) =>
              let cx1 := cx.fromImage img ss
              let cx2 := { cx1 with strands := cx1.strands.map (fun r => (r.1, r.2.parked)), num := {}, tiles := [], bars := barsOf (imageBars img)
                                    late := { ringAddr := cx1.num.ringAddr, ringLog := cx1.num.ringLog, head := cx1.num.head, tail := cx1.num.tail }
                                    lateRecs := 0, lateFault := false, acct := cx.acct.switched (2 * img.length), savedLen := img.length, woken := true }
              ((s1.onCore (fun c => (c.store cx.imgAddr img).setCtx k cx2)).schedule, .now 0 0)
      | none, _ => no s 0x0201
      | _, none => no s 0x0C02))

/-! ### Rations -/

/-- Owners a unit may come to have (R29, R315): the present one, and those of accepted binding commands that are not complete. -/
def State.owners (s : State) (cls u : Nat) : List Nat :=
  s.core.owner cls u :: s.rebinds.flatMap (fun r => (r.units.filter (fun v => v.1 == cls && v.2.1 == u)).map (fun v => v.2.2))

/-- Whether a partition may own a unit of a class. -/
def ownsClass (owners : Nat → Nat → List Nat) (p cls : Nat) : Bool := (List.range (classSize cls)).any (fun u => (owners cls u).contains p)

/-- Whether ownership as it is or may come to be and the shares of a ration image breach R325 (R29). -/
def ownBreach (owner : Nat → Nat → List Nat) (img : List Byte) : Bool :=
  let freeLink := (List.range 24).any (fun l => (owner 4 l).contains 0xFF)
  (List.range 8).any (fun p =>
    let z := fun (a : Nat) => shareOf img a p == 0
    let any := (List.range 7).any (fun c => ownsClass owner p (c + 1))
    (any && (z 1 || z 2)) || (ownsClass owner p 1 && z 0) || (ownsClass owner p 4 && z 3) || (ownsClass owner p 5 && z 4) ||
    (freeLink && any && z 3))

/-- Sum of the eight shares of an activity. -/
def shareSum (img : List Byte) (a : Nat) : Nat := ((List.range 8).map (shareOf img a)).sum

/-- The fault that refuses a ration image, 0 for none (R325). -/
def State.rationFault (s : State) (img : List Byte) : Nat :=
  let bg := fun (b : Nat) => fld img (0x40 + b) 1
  let period := fld img 4 4
  if fld img 0 2 ≠ 1 ∨ ¬ zeroAt img 2 2 ∨ ¬ zeroAt img 0x3D 3 ∨ ¬ zeroAt img 0x45 59 then 0x0C01
  else if period < 50 ∨ 10000 < period then 0x0C05
  else if 16 < ((List.range 8).map (fun p => fld img (8 + p) 1)).sum then 0x0C05
  else if 256 < shareSum img 0 ∨ 256 < shareSum img 1 + bg 0 + bg 1 ∨ 256 < shareSum img 2 + bg 0 + bg 1 + bg 4 ∨
      256 < shareSum img 3 + bg 1 ∨ 256 < shareSum img 4 + bg 3 then 0x0C05
  else if ownBreach s.owners img then 0x0C05
  else if bg 0 = 0 ∨ bg 1 = 0 ∨ bg 4 = 0 then 0x0C05
  else 0

/-- RATION_SET (R325): an accepted set takes effect at the next period boundary. -/
def execRationSet (h : HostCmd) (s : State) : Host.Outcome State Fault Refusal :=
  answer (s.command h 0x21 none (fun s =>
    if ¬ h.zero 8 40 then no s 0x0C01 else
    match s.fetch 0xFF (h.arg 0 8) 128 with
    | (s1, .error (c, d)) => no s1 c d
    | (s1, .ok img) =>
      let f := s1.rationFault img
      if f ≠ 0 then no s1 f else (s1.onCore (fun c => { c with nextRation := some img }), .now 0 0)))

/-- PARTITION_MODE (R143, R317). -/
def execPartitionMode (h : HostCmd) (s : State) : Host.Outcome State Fault Refusal :=
  answer (s.command h 0x22 none (fun s =>
    if 7 < h.arg 0 1 ∨ 1 < h.arg 1 1 ∨ ¬ h.zero 2 46 then no s 0x0C01
    else (s.onCore (fun c => { c with pmode := setBits c.pmode (h.arg 0 1) 1 (h.arg 1 1) }), .now 0 0)))

/-! ### Bindings -/

/-- The units a binding-list entry names, with their new owner: none when the entry breaks R315. -/
def listEntry (e : Nat) : Option (List (Nat × Nat × Nat)) :=
  let cls := bits e 0 8
  let code := bits e 40 8
  let first := bits e 8 16
  let n := bits e 24 16
  if bits e 48 16 ≠ 0 ∨ cls = 0 ∨ 7 < cls ∨ n = 0 ∨ classSize cls < first + n then none
  else if ¬ (code < 8 ∨ code = 0xFF ∨ (code = 0xFE ∧ cls = 2) ∨ (code = 0xFD ∧ cls = 1)) then none
  else if cls = 3 ∧ first ≤ 1023 ∧ 1023 < first + n then none
  else some ((span first n).map (fun u => (cls, u, code)))

/-- The entries of a binding list. -/
def listUnits : List Nat → Option (List (Nat × Nat × Nat))
  | [] => some []
  | e :: t => match listEntry e, listUnits t with
    | some a, some b => some (a ++ b)
    | _, _ => none

/-- Bytes of a region of HBM (class 2) or LPDDR5X (class 3). -/
def regionBase (cls u : Nat) : Nat := (if cls = 2 then 0 else lpBase) + u * 0x40000000

/-- Whether a region may not go to an owner (R315): it holds part of the image area or pack of a known context of another. -/
def Core.regionHeld (c : Core) (u : Nat × Nat × Nat) : Bool :=
  (u.1 == 2 || u.1 == 3) && c.ctxs.any (fun k => k.2.part != u.2.2 &&
    (overlaps (regionBase u.1 u.2.1) 0x40000000 k.2.imgAddr k.2.imgLen ||
     (lookup c.packs k.2.pack).any (fun p => overlaps (regionBase u.1 u.2.1) 0x40000000 p.addr p.len)))

/-- Owners a unit may come to have once a binding list is carried out; the last entry that names it counts. -/
def State.ownersAfter (s : State) (us : List (Nat × Nat × Nat)) (cls u : Nat) : List Nat :=
  match us.reverse.find? (fun v => v.1 == cls && v.2.1 == u) with
  | some v => [v.2.2]
  | none => s.owners cls u

/-- The fault that refuses a binding list, 0 for none (R29, R315): no ration set that is or comes into force may be breached. -/
def State.bindFault (s : State) (us : List (Nat × Nat × Nat)) : Nat :=
  let c := s.core
  if us.any c.regionHeld then 0x0C06
  else if us.any (fun u => u.1 == 2 && ((u.2.2 == 0xFE) != (c.owner 2 u.2.1 == 0xFE))) ∧ ¬ c.ctxs.isEmpty then 0x0C07
  else if (c.ration :: c.nextRation.toList).any (ownBreach (s.ownersAfter us)) then 0x0C05
  else 0

/-- Whether context `k` has a collective in flight over a link (R27). -/
def State.usesLink (s : State) (k l : Nat) : Bool :=
  (lookup s.core.ctxs k).any (fun cx => cx.inFlight &&
    cx.coll.members.any (fun m => m.1 != s.nym.devnum && s.routeAny m.1 == some l))

/-- Contexts with a collective in flight over a link that a command rebinds. -/
def State.onRebound (s : State) (r : Rebind) : List Nat :=
  (s.core.ctxs.map Prod.fst).filter (fun k =>
    r.units.any (fun u => u.1 == 4 && s.core.owner 4 u.2.1 != u.2.2 && s.usesLink k u.2.1))

/-- BINDING (R25, R27, R315): checked whole; an accepted command waits for its units to drain. A command that names a unit of an
earlier one waits for that one. -/
def execBinding (h : HostCmd) (s : State) : Host.Outcome State Fault Refusal :=
  answer (s.command h 0x20 none (fun s =>
    let a := h.arg 0 8
    let n := h.arg 8 4
    if ¬ h.zero 12 36 ∨ a % 8 ≠ 0 ∨ n = 0 ∨ 512 < n then no s 0x0C01 else
    match s.fetch 0xFF a (8 * n) with
    | (s1, .error (c, d)) => no s1 c d
    | (s1, .ok bs) =>
      match listUnits (wordsOf 8 n bs) with
      | none => no s1 0x0C01
      | some us =>
        if s.rebinds.any (fun r => r.units.any (fun u => us.any (fun v => v.1 == u.1 && v.2.1 == u.2.1))) then (s1, .hold) else
        let f := s1.bindFault us
        if f ≠ 0 then no s1 f
        else
          ({ s1 with rebinds := s1.rebinds ++ [{ cmd := h.ref, units := us, linkWait := us.any (fun u => u.1 == 4), args := slice h.args 0 32 }] },
           .later)))

/-- The image of context `k` written to its image area (R315, R321); the context stays as it is. -/
def Core.saveCopy (dev : Nat) (c : Core) (k : Nat) : Core :=
  match lookup c.ctxs k with
  | none => c
  | some cx =>
    match lookup c.packs cx.pack with
    | none => c
    | some p =>
      let q := c.image k cx p
      ((q.2.store cx.imgAddr q.1).setCtx k { cx with savedLen := q.1.length, acct := cx.acct.saved q.1.length }).account dev k

/-- The window of an ME cleared, with its errors (R25). -/
def Core.clearWindow (c : Core) (me : Nat) : Core :=
  let lo := 2 ^ 51 + me * 2 ^ 16
  let out := fun (x : Nat) => x < lo || lo + 2 ^ 16 ≤ x
  { c with windows := eraseKey me c.windows
           ecc := { c.ecc with errs := c.ecc.errs.filter (fun x => out x.1), bad := c.ecc.bad.filter out } }

/-- MEs of a quad that changes hands given up (R25, R315): strands placed on them are saved into their contexts' images, with
their decode requests given up, and wait to be placed again; the contexts stay resident. -/
def Core.vacate (c : Core) (dev : Nat) (mes : List Nat) : Core :=
  let there := fun (r : Nat × Strand) => r.2.me.any mes.contains
  let ks := (c.ctxs.filter (fun k => k.2.strands.any there)).map Prod.fst
  let c1 := ks.foldl (Core.saveCopy dev) c
  let c2 := (c1.decodes.filter (fun q => ((c1.strand q.ctx q.strand).bind Strand.me).any mes.contains)).foldl Core.dropDecode c1
  mes.foldl Core.clearWindow { c2 with ctxs := c2.ctxs.map (fun k =>
    (k.1, { k.2 with strands := k.2.strands.map (fun r => (r.1, if there r then { r.2 with me := none } else r.2)) })) }

/-- The streams of an engine closed: their submits complete with a fault. -/
def State.closeEngine (s : State) (e code : Nat) : State :=
  let g := s.vid.toList.getD e {}
  let qs := g.streams.flatMap (fun t => t.2.subs.map Submit.cmd) ++ (g.run.map (fun r => r.sub.cmd)).toList
  { s with core := s.core.finishCmds qs 0xFFFF (s.core.owner 6 e) code 0, vid := s.vid.setIfInBounds e { wdog := g.wdog } }

/-- A unit drained and cleared as it changes hands (R25, R26, R192, R211, R353); regions read 0 from now on, table objects in them
are ordinary memory again, and answers to a queue set's accesses of other modules find no request. (log 41, DEDUCED; log 49, DEDUCED) -/
def State.clearUnit (s : State) (u : Nat × Nat × Nat) : State :=
  match u.1 with
  | 1 => s.onCore (fun c =>
      let c1 := c.vacate s.nym.devnum (span (4 * u.2.1) 4)
      { c1 with ftab := c1.ftab.filter (fun t => t.1 / 4 % 32 != u.2.1) })
  | 2 | 3 =>
    let b := regionBase u.1 u.2.1
    let e := s.core.ecc.forget s.core.space b 0x40000000
    { s with core := { s.core with mem := s.core.mem.clear b 0x40000000
                                   ecc := { e with uncleared := cutRange (b / 64) (b / 64 + 0x1000000) e.uncleared ++ [(b / 64, b / 64 + 0x1000000)] }
                                   live := s.core.live.filter (fun o => !overlaps b 0x40000000 o.addr 64) }
             bg := { s.bg with clearing := s.bg.clearing.filter (fun x => !(x.1 == u.1 && x.2.1 == u.2.1)) ++ [(u.1, u.2.1, 0)] } }
  | 5 => s.onCore (fun c => { c with reqs := c.reqs.filter (fun q => !(match q.who with | .qp n => n / 64 == u.2.1 | _ => false)) })
  | 6 => s.closeEngine u.2.1 0x0A06
  | _ => s

/-- An accepted binding command completed (R25, R315, R375): its units are cleared and take their owners, and its entry is
written. (log 49, DEDUCED) -/
def State.bindDone (s : State) (r : Rebind) : State :=
  let s1 := s.journal (s.srcOf r.cmd.path) { kind := 2, code := 0x20, new := 0, detail := r.args }
  let s2 := r.units.foldl (fun (a : State) u =>
    if a.core.owner u.1 u.2.1 = u.2.2 then a
    else (a.clearUnit u).onCore (fun c => { c with owners := setOwner c.owners u.1 u.2.1 u.2.2 })) s1
  (s2.onCore (fun c => { c with dones := c.dones ++ [{ cmd := r.cmd, status := 0, result := 0 }] })).schedule

/-- Whether the queue sets that a command rebinds are drained (R25): no command taken from their rings is still to run. (log 49, DEDUCED) -/
def State.drained (s : State) (r : Rebind) : Bool :=
  s.started.all (fun h => match h.path with
    | .roce qp => !r.units.any (fun u => u.1 == 5 && u.2.1 == qp / 64 && s.core.owner 5 u.2.1 != u.2.2)
    | _ => true)

/-- BINDING_COMPLETE (R25 to R27): the oldest accepted command whose links carry no collective and whose queue sets are drained. -/
def execBindingComplete (s : State) : Host.Outcome State Fault Refusal :=
  answer (match s.rebinds.find? (fun r => (!r.linkWait || (s.onRebound r).isEmpty) && s.drained r) with
    | some r => ({ s with rebinds := s.rebinds.erase r } : State).bindDone r
    | none => s)

/-- LINK_REBIND_ABORT (R27): 1 ms after acceptance, collectives still in flight on the links end with status 2 everywhere. -/
def execLinkRebindAbort (s : State) : Host.Outcome State Fault Refusal :=
  answer (match s.rebinds.find? (fun r => r.linkWait) with
    | some r =>
      let ks := s.onRebound r
      let s1 := (ks.foldl (fun (a : State) k => a.abortAll k (statusWord 2 noRank)) s).wakeAll
      { s1 with rebinds := s1.rebinds.map (fun q => if q = r then { q with linkWait := false } else q) }
    | none => s)

/-! ### Scheduling events -/

/-- RATION_PERIOD_BOUNDARY (R319, R320, R325 to R327, R339): the scheduler acts; PWRBRK_N asserted is reported once. -/
def execRationPeriodBoundary (s : State) : Host.Outcome State Fault Refusal :=
  let s1 := s.onCore (fun c => c.boundary s.nym.devnum)
  let s2 := s1.wakeAll
  answer (if s2.dmp.pwrbrk ∧ s2.sec.stage ≠ 0 then
      ({ s2 with board := { s2.board with brkPeriods := s2.board.brkPeriods + 1 } } : State).telEvent 4 (leBytes 8 s2.board.brkPeriods)
    else s2)

/-- PREEMPTION_POINT_REACHED (R58, R86, R107, R319): the strands of a context have reached pre-emption points. -/
def execPreemptionPointReached (k : Fin 1024) (s : State) : Host.Outcome State Fault Refusal :=
  let s1 := if (lookup s.core.ctxs k.val).any (fun cx => cx.trap.isSome) then s.onCore (fun c => c.nanTrap s.nym.devnum k.val) else s
  answer ((s1.onCore (fun c => c.preempted k.val)).wakeCtx k.val)

/-- CONTEXT_SAVE_COMPLETE (R318, R321). -/
def execContextSaveComplete (k : Fin 1024) (s : State) : Host.Outcome State Fault Refusal :=
  answer ((s.onCore (fun c => c.saved s.nym.devnum k.val)).schedule)

/-- CONTEXT_RESTORE_COMPLETE (R319, R323). -/
def execContextRestoreComplete (k : Fin 1024) (s : State) : Host.Outcome State Fault Refusal :=
  answer ((s.onCore (fun c => c.restored s.nym.devnum k.val)).schedule)

end Sys2Proof.Machine
end

