-- ==== Sys2Proof/Machine/Host.lean ====
section
/-!
DEFINITION. The host interface (14): RDMA, doorbells, command and completion rings, connections, Ethernet frames, ports,
mailboxes, and management over MCTP and PLDM. (log 51, DESIGN CHOICE) -/
namespace Sys2Proof.Machine

/-! ### What a queue pair reaches -/

/-- Owner code a queue pair's accesses are made for: its partition, 0xFF the operator. -/
def Core.qpOwner (c : Core) (qp : Nat) : Nat := (c.qpPart qp).getD 0xFF

/-- Pantry ranges of the resident contexts of a partition (R421, R422). -/
def Core.partPantry (c : Core) (p : Nat) : List (Nat × Nat) := (c.residents p).flatMap (fun k => k.2.pantry)

/-- Check of an access to memory by a queue pair (R299 condition 3, R316, R386, R421): 0, or the fault reported. (log 50, DEDUCED) -/
def State.qpMem (s : State) (qp a n : Nat) (wr : Bool) : Nat :=
  let o := s.core.qpOwner qp
  let area := (areaOf a).1
  let pan := if o = 0xFF then [] else s.core.partPantry o
  let code := s.core.access o pan a n wr
  if s.lan.bivActive ∧ (area = .hbm ∨ area = .pantry ∨ area = .window) then 0x0201
  else if code = 0x0201 then code
  else if o = 0xFF ∧ wr ∧ area = .hbm ∧ (regionsOf 0 a n).any (fun r => s.core.owner 2 r == 0xFE) then
    (if s.core.ctxs.isEmpty ∧ (regionsOf 0 a n).all (fun r => s.core.owner 2 r == 0xFE || s.core.owner 2 r == 0xFF) then 0 else 0x0202)
  else if wr ∧ inRing a n then (if o = 0xFF then 0x0202 else 0x0804)
  else if code ≠ 0 then 0x0804
  else if wr ∧ s.core.storeRefused a n then 0x0502
  else 0

/-! ### Doorbells -/

/-- CMDTAIL written (R302): accepted, or refused with 0x0803 in a record on the writing queue pair. (log 66, DEDUCED) -/
def State.cmdtail (s : State) (qp n v a : Nat) : State :=
  let q := s.eth.queue n
  let d := (v + 65536 - q.chead) % 65536
  if v < 65536 ∧ d ≤ 2 ^ q.log2d ∧ (q.ctail + 65536 - q.chead) % 65536 ≤ d then
    s.onEth (fun e => e.setQueue n { q with ctail := v })
  else s.unsolicited qp 0xFFFF 0x0803 0 a

/-- CPLHEAD written (R302). -/
def State.cplhead (s : State) (qp n v a : Nat) : State :=
  let q := s.eth.queue n
  if v < 65536 ∧ (q.cpltail + 65536 - v) % 65536 ≤ (q.cpltail + 65536 - q.cplhead) % 65536 then
    s.onEth (fun e => e.setQueue n { q with cplhead := v })
  else s.unsolicited qp 0xFFFF 0x0803 0 a

/-- Whether a queue pair may ring the doorbell of queue `n` (R302, R421). -/
def State.mayRing (s : State) (qp n : Nat) : Bool := qp == n || (s.core.qpPart qp).isNone

/-- A doorbell row: the 8-byte write of one word of queue `n`'s page by a queue pair. -/
def State.ring (s : State) (qp n o : Nat) (act : State → State) : State :=
  let a := pageBase + n * 4096 + o
  if ¬ s.through (.roce qp) (s.spellings a) 8 true then s.turnedAway (.roce qp)
  else if ¬ s.mayRing qp n then s.refuseAccess (.roce qp) 0x0804 a
  else act s

/-- DOORBELL_CMDTAIL (R302). -/
def execDoorbellCmdtail (qp : Fin 4096) (n : Fin 4096) (v : W64) (s : State) : Host.Outcome State Fault Refusal :=
  answer (s.ring qp.val n.val 0 (fun s => s.cmdtail qp.val n.val v.toNat (pageBase + n.val * 4096)))

/-- DOORBELL_CPLHEAD (R302). -/
def execDoorbellCplhead (qp : Fin 4096) (n : Fin 4096) (v : W64) (s : State) : Host.Outcome State Fault Refusal :=
  answer (s.ring qp.val n.val 8 (fun s => s.cplhead qp.val n.val v.toNat (pageBase + n.val * 4096 + 8)))

/-- An RDMA WRITE to a doorbell page (R302): one word, or both, CMDTAIL first; anything else is refused with 0x0803. -/
def State.doorbell (s : State) (qp va l : Nat) (data : List Byte) : State :=
  let n := (l - pageBase) / 4096
  let o := l % 4096
  if ¬ s.mayRing qp n then s.refuseAccess (.roce qp) 0x0804 va
  else if o = 0 ∧ data.length = 16 then (s.cmdtail qp n (fld data 0 8) va).cplhead qp n (fld data 8 8) (va + 8)
  else if o = 0 ∧ data.length = 8 then s.cmdtail qp n (ofLE data) va
  else if o = 8 ∧ data.length = 8 then s.cplhead qp n (ofLE data) va
  else s.unsolicited qp 0xFFFF 0x0803 0 va

/-- Whether mailboxes are served: Lantern's firmware runs, or restarts (R308). -/
def State.boxesUp (s : State) : Bool := 2 ≤ s.sec.stage && s.sec.stage ≠ 6

/-- A mailbox row, a write or a read of `n` bytes: refused by the path's rights, or carried out. -/
def State.boxRow (s : State) (p : Path) (m o n : Nat) (wr : Bool) (act : State → Nat × State) : State :=
  let a := boxBase + m * 4096 + o
  if ¬ s.boxesUp then s
  else if ¬ s.through p (s.spellings a) n wr then s.turnedAway p
  else if ¬ s.boxPath p then s.refuseAccess p 0x0804 a
  else
    let q := act s
    if q.1 = 0 then q.2 else q.2.refuseAccess p q.1 a

/-- MAILBOX_DATA_WRITE (R307). -/
def execMailboxDataWrite (p : Path) (m : Fin 32) (off : Nat) (data : List Byte) (s : State) : Host.Outcome State Fault Refusal :=
  answer (s.boxRow p m.val off data.length true (fun s => s.boxData p m.val off data))

/-- MAILBOX_SEND (R307, R309). -/
def execMailboxSend (p : Path) (m : Fin 32) (v : W32) (s : State) : Host.Outcome State Fault Refusal :=
  answer (s.boxRow p m.val 0x40 4 true (fun s => s.boxGo p m.val v.toNat))

/-- MAILBOX_TAKE (R307, R308). -/
def execMailboxTake (p : Path) (m : Fin 32) (s : State) : Host.Outcome State Fault Refusal :=
  answer (s.boxRow p m.val 0x40 4 false (fun s =>
    let q := s.boxTake p m.val
    (0, q.2.send (.answer p 0 q.1))))

/-! ### RDMA -/

/-- RDMA READs of a queue pair that another module has yet to answer (Table 14.4). -/
def Core.readsOf (c : Core) (qp : Nat) : Nat := c.reqs.countP (fun q => q.who == .qp qp && q.left != 0)

/-- RDMA_WRITE_RECEIVED (R299 to R302, R306, R421): the bytes of a message, or of the packets of it that have arrived, at their
address and under the message's R_Key: later packets come as rows of their own and are checked when they arrive (R300). (log 51,
DESIGN CHOICE; log 66, DEDUCED) -/
def execRdmaWriteReceived (qp : Fin 4096) (va : W64) (rkey : W32) (data : List Byte) (s : State) : Host.Outcome State Fault Refusal :=
  answer (
    let p := Path.roce qp.val
    let a := va.toNat
    let n := data.length
    if ¬ s.carries qp.val then s
    else if 2 ^ 31 < n then s.wireQp qp.val (.roce qp.val "NAK invalid request" [])
    else if ¬ s.inWindow qp.val a rkey.toNat n true then s.nak p "NAK remote access error"
    else if n = 0 then s
    else match s.local? a with
      | none => s.qpRemote qp.val a 2 data 0
      | some l =>
        match (areaOf l).1 with
        | .page =>
          if l < boxBase then s.doorbell qp.val a l data
          else if boxBase + 0x20000 ≤ l then s.refuseAccess p 0x0201 a
          else if ¬ s.boxPath p then s.refuseAccess p 0x0804 a
          else
            let q := s.boxWrite p ((l - boxBase) / 4096) (l % 4096) data
            if q.1 = 0 then q.2 else q.2.refuseAccess p q.1 a
        | .mgmt => s.regSent p l n (ofLE data) a
        | _ =>
          let code := s.qpMem qp.val l n true
          if code = 0 then s.onCore (fun c => c.store l data)
          else if code = 0x0201 then s.refuseAccess p code a
          else (s.nak p "NAK remote access error").refuse p code a)

/-- RDMA_READ_RECEIVED (R262, R299, R421). -/
def execRdmaReadReceived (qp : Fin 4096) (va : W64) (rkey : W32) (len : Nat) (s : State) : Host.Outcome State Fault Refusal :=
  answer (
    let p := Path.roce qp.val
    let a := va.toNat
    if ¬ s.carries qp.val then s
    else if 2 ^ 31 < len ∨ 16 ≤ s.core.readsOf qp.val then s.wireQp qp.val (.roce qp.val "NAK invalid request" [])
    else if ¬ s.inWindow qp.val a rkey.toNat len false then s.nak p "NAK remote access error"
    else if len = 0 then s.wireQp qp.val (.roce qp.val "read response" [])
    else match s.local? a with
      | none => s.qpRemote qp.val a 1 [] len
      | some l =>
        match (areaOf l).1 with
        | .page =>
          if boxBase + 0x20000 ≤ l then s.refuseAccess p 0x0201 a
          else if l < boxBase ∨ ¬ s.boxPath p then s.refuseAccess p 0x0804 a
          else
            let q := s.boxRead p ((l - boxBase) / 4096) (l % 4096) len
            if q.1 = 0 then q.2.2.wireQp qp.val (.roce qp.val "read response" q.2.1) else q.2.2.refuseAccess p q.1 a
        | .mgmt =>
          let c0 := s.accessCheck p l len false 0x0804
          if c0 = 0 then s.wireQp qp.val (.roce qp.val "read response" (leBytes 8 (((regAt l).map s.regRead).getD 0)))
          else s.refuseAccess p c0 a
        | _ =>
          let code := s.qpMem qp.val l len false
          if code = 0x0201 then s.refuseAccess p code a
          else if code ≠ 0 then (s.nak p "NAK remote access error").refuse p code a
          else
            match s.readMem l len with
            | (s1, .error d) => ((s1.reportFault p 0x0210 d).nak p "NAK remote operational error").refuse p 0x0210 a
            | (s1, .ok bs) => s1.wireQp qp.val (.roce qp.val "read response" bs))

/-! ### Command and completion rings -/

/-- A command entry (Table 14.11). -/
def entryCmd (p : Path) (e : List Byte) : HostCmd :=
  { path := p, opc := fld e 0 2, flags := fld e 2 1, id := fld e 4 2, ctx := fld e 6 2, args := slice e 8 48, frec := fld e 0x38 8 }

/-- Command opcodes that are not reserved (Table 14.12). -/
def knownOpc (o : Nat) : Bool :=
  (1 ≤ o && o ≤ 3) || (0x10 ≤ o && o ≤ 0x16) || (0x20 ≤ o && o ≤ 0x22) || (0x30 ≤ o && o ≤ 0x31) || (0x40 ≤ o && o ≤ 0x42) || o == 0x50

/-- Whether an entry is refused with 0x0801 (R305). -/
def entryBad (e : List Byte) (h : HostCmd) : Bool :=
  !knownOpc h.opc || 8 ≤ h.flags || !zeroAt e 3 1 || 0xFFFD ≤ h.id

/-- Whether an opcode is a firmware command's (R376, R377). -/
def firmwareOpc (n : Nat) : Bool := n == 0x40 || n == 0x41

/-- An entry taken: refused (R305, R397), a firmware command while another is in progress with 0x0B06 (R377), or a command that has
started. -/
def State.enter (s : State) (h : HostCmd) (bad : Bool) : State :=
  if bad then s.complete h 0 0x0801 0
  else match s.gate h.path h.opc with
    | .deny => s.complete h h.opc 0x0802 0
    | _ =>
      let busy := firmwareOpc h.opc && s.started.any (fun x => firmwareOpc x.opc)
      let code := if busy ∧ s.allow h h.opc none = 0 then 0x0B06 else s.allow h h.opc none
      if code ≠ 0 then s.complete h h.opc code 0 else { s with started := s.started ++ [h] }

/-- The entry at CHEAD of queue `n` read and acted on (R303, R305): stale entries wait, FENCE waits for every earlier
command; an entry that cannot be read completes with its fault and CMDID 0 (log 13, DESIGN CHOICE). (log 67, DEDUCED) -/
def State.readEntry (s : State) (n : Nat) : State :=
  let q := s.eth.queue n
  let running := s.sec.stage = 5 ∨ (s.lan.bivActive ∧ s.sec.stage = 7 ∧ s.serves n)
  if q.addr = 0 ∨ q.stopped ∨ q.chead = q.ctail ∨ ¬ running ∨ s.sec.restart then s else
  let o := s.core.qpOwner n
  let a := localOf q.addr + q.chead % 2 ^ q.log2d * 64
  let next : Queue := { q with chead := (q.chead + 1) % 65536, running := q.running + 1, stale := false }
  let fail := fun (s : State) (code : Nat) =>
    (s.onEth (fun e => e.setQueue n next)).complete { path := .roce n, opc := 0, flags := 0, id := 0, ctx := 0xFFFF, args := [], frec := 0 } 0 code 0
  let code := s.core.access o (s.core.partPantry o) a 64 false
  if code ≠ 0 then fail s code else
  let r := scanRange s.core.space s.core.mem s.core.ecc a 64
  let s1 := s.onCore (fun c => { c with mem := r.1, ecc := r.2.1 })
  if r.2.2.isSome then fail s1 0x0210 else
  let e := r.1.read a 64
  let h := entryCmd (.roce n) e
  if bit h.flags 0 ≠ (q.chead / 2 ^ q.log2d % 2 == 0) then s1.onEth (fun e => e.setQueue n { q with stale := true })
  else if bit h.flags 2 ∧ (q.running ≠ 0 ∨ s.eth.recs.any (fun r => r.qp == n && !r.unsol)) then s1
  else (s1.onEth (fun e => e.setQueue n next)).enter h (entryBad e h)

/-- COMMAND_ENTRY_READ (R303, R305). -/
def execCommandEntryRead (n : Fin 4096) (s : State) : Host.Outcome State Fault Refusal :=
  answer (if (s.eth.queue n.val).stale then s else s.readEntry n.val)

/-- STALE_ENTRY_REREAD (R303). -/
def execStaleEntryReread (n : Fin 4096) (s : State) : Host.Outcome State Fault Refusal :=
  answer (if (s.eth.queue n.val).stale then s.readEntry n.val else s)

/-- The oldest record that waits for a queue's ring, and the others. -/
def takeRec (n : Nat) : List Rec → Option (Rec × List Rec)
  | [] => none
  | r :: t => if r.qp = n then some (r, t) else (takeRec n t).map (fun q => (q.1, r :: q.2))

/-- COMPLETION_RECORD_WRITE (R303, R304): the oldest record of a queue goes to its ring while there is room, after the fault record
that FREC asks for; with EVENT it is also sent. (log 66, DEDUCED) -/
def execCompletionRecordWrite (n : Fin 4096) (s : State) : Host.Outcome State Fault Refusal :=
  answer (
    let q := s.eth.queue n.val
    let st := (s.eth.qp n.val).state
    match takeRec n.val s.eth.recs with
    | none => s
    | some (r, rest) =>
      if q.addr = 0 ∨ q.stopped ∨ ¬ (st = .ready ∨ st = .error) ∨ ¬ s.serves n.val ∨
          2 ^ q.clog2d ≤ (q.cpltail + 65536 - q.cplhead) % 65536 then s else
      let w := s.core.readWclk
      let phase := 1 - q.cpltail / 2 ^ q.clog2d % 2
      let b := recBytes r.cmdid r.status (phase + flag r.unsol 1) r.result r.info w.1
      let s1 : State := { s with core := w.2, eth := { s.eth with recs := rest } }
      let s2 := s1.onEth (fun e => e.setQueue n.val { q with cpltail := (q.cpltail + 1) % 65536 })
      let s3 := match r.frec with
        | some f => s2.request n.val (.hostWrite n.val f.1 q.rkey f.2) f.2
        | none => s2
      let s4 := s3.request n.val (.hostWrite n.val (q.haddr + q.cpltail % 2 ^ q.clog2d * 32) q.rkey b) b
      if r.event then s4.request n.val (.hostSend n.val b) b else s4)

/-! ### Connections and the queue pairs' timers -/

/-- REQ (R297): the lowest free queue pair of the set named by the ServiceID is assigned, or the request is rejected. The request
gives the pair's traffic class, which is its priority, and the sequence number its packets start from; that of the M8's own packets is
a free value. (log 88, DEDUCED) -/
def execReq (port : Fin 4) (service : W64) (remote : Nat) (mtu : Nat) (peer : Caller) (s : State) : Host.Outcome State Fault Refusal :=
  answer (
    let set := service.toNat % 64
    if ¬ (s.eth.port port.val).up ∨ ¬ s.serves (set * 64) then s else
    match (span (set * 64) 64).find? (fun n => (s.eth.qp n).state == .idle) with
    | some n =>
      if [256, 512, 1024, 2048, 4096].contains mtu then
        let q : Qp := { state := .replied, port := port.val, remote := remote, mtu := mtu, retryCnt := peer.retry % 8, retries := peer.retry % 8
                        prio := peer.tc.val, epsn := peer.psn % 2 ^ 24, npsn := s.free.1 % 2 ^ 24 }
        (s.free.2.onEth (fun e => e.setQp n q)).wirePort port.val (.roce n "REP" [])
      else s.wirePort port.val (.frame port.val "REJ" [])
    | none => s.wirePort port.val (.frame port.val "REJ no resources" []))

/-- RTU (R297). -/
def execRtu (qp : Fin 4096) (s : State) : Host.Outcome State Fault Refusal :=
  answer (if (s.eth.qp qp.val).state = .replied then
      (s.onEth (fun e => e.setQp qp.val { e.qp qp.val with state := .ready })).telFlush
    else s)

/-- DREQ (R297): answered with DREP; the queue pair is free. -/
def execDreq (qp : Fin 4096) (s : State) : Host.Outcome State Fault Refusal :=
  answer (if (s.eth.qp qp.val).state = .idle then s
    else (s.onEth (fun e => e.setQp qp.val {})).wirePort (s.eth.qp qp.val).port (.roce qp.val "DREP" []))

/-- REJ (R297). -/
def execRej (qp : Fin 4096) (s : State) : Host.Outcome State Fault Refusal :=
  answer (if (s.eth.qp qp.val).state = .replied then s.onEth (fun e => e.setQp qp.val {}) else s)

/-- Whether 50 µs of WCLK, which runs at 400 MHz (Table 1.4), have passed since a time noted (R298). -/
def spaced (last : Option Nat) (now : Nat) : Bool := last.all (fun t => 20000 ≤ (now + 2 ^ 64 - t) % 2 ^ 64)

/-- CNP_RECEIVED (R298): the send rate is halved, at most once in 50 µs and to no less than 1 Gbit/s. -/
def execCnpReceived (qp : Fin 4096) (s : State) : Host.Outcome State Fault Refusal :=
  answer (
    let q := s.eth.qp qp.val
    let w := s.core.readWclk
    if q.state = .ready ∧ bit (s.eth.port q.port).ctl 16 ∧ spaced q.halvedAt w.1 then
      ({ s with core := w.2 } : State).onEth (fun e => e.setQp qp.val { q with rate := max 1 (q.rate / 2), halvedAt := some w.1 })
    else s)

/-- RATE_INCREASE (R298): 10 Gbit/s more, up to line rate. -/
def execRateIncrease (qp : Fin 4096) (s : State) : Host.Outcome State Fault Refusal :=
  answer (
    let q := s.eth.qp qp.val
    if q.state = .ready then s.onEth (fun e => e.setQp qp.val { q with rate := min 200 (q.rate + 10) }) else s)

/-- A queue pair whose sends cannot be delivered (R306): the error state, and its queue stops with its counts kept. -/
def State.undeliverable (s : State) (qp : Nat) : State :=
  s.onEth (fun e => (e.setQp qp { e.qp qp with state := .error }).setQueue qp { e.queue qp with stopped := true })

/-- RDMA_RETRY_EXHAUSTED (R306). -/
def execRdmaRetryExhausted (qp : Fin 4096) (s : State) : Host.Outcome State Fault Refusal :=
  answer (if (s.eth.qp qp.val).state = .ready then s.undeliverable qp.val else s)

/-- What a queue pair has sent and is not acknowledged, sent again in order (R306). -/
def State.sendAgain (s : State) (qp : Nat) : State :=
  (s.eth.qp qp).unacked.foldl (fun (a : State) b => a.wireQp qp (.roce qp "retransmit" b.2)) s

/-- What is not acknowledged sent again, one of the agreed retries used; with none left it cannot be delivered (R297, R306). -/
def State.retry (s : State) (qp : Nat) : State :=
  let q := s.eth.qp qp
  if q.state ≠ .ready ∨ q.unacked = [] then s
  else if q.retries = 0 then s.undeliverable qp
  else (s.onEth (fun e => e.setQp qp { q with retries := q.retries - 1 })).sendAgain qp

/-- ACK_TIMEOUT (R297, R306). -/
def execAckTimeout (qp : Fin 4096) (s : State) : Host.Outcome State Fault Refusal := answer (s.retry qp.val)

/-- Whether sequence number `a` does not come after `b`, of 24 bits (R306). -/
def psnLe (a b : Nat) : Bool := (b + 2 ^ 24 - a) % 2 ^ 24 < 2 ^ 23

/-- Packets up to a sequence number acknowledged: the agreed retries begin again (R306). -/
def Qp.acked (q : Qp) (psn : Nat) : Qp :=
  let rest := q.unacked.filter (fun b => !psnLe b.1 psn)
  if rest = q.unacked then q else { q with unacked := rest, retries := q.retryCnt }

/-! ### Frames and ports -/

/-- A frame that no feature accepts (R295). -/
def State.dropFrame (s : State) (port : Nat) : State :=
  s.onEth (fun e => e.modPort port (fun p => { p with dropnr := satInc p.dropnr 0xFFFF }))

/-- A CNP for a marked packet, at most one for a queue pair in 50 µs (R298). -/
def State.cnp (s : State) (port qp : Nat) (marked : Bool) : State :=
  let q := s.eth.qp qp
  let w := s.core.readWclk
  if marked ∧ bit (s.eth.port port).ctl 16 ∧ spaced q.cnpAt w.1 then
    (({ s with core := w.2 } : State).onEth (fun e => e.setQp qp { q with cnpAt := some w.1 })).wireQp qp (.roce qp "CNP" [])
  else s

/-- A RoCE request packet (R306): the next expected is acknowledged, and the row of its operation performs it; one from before is
acknowledged again, one from beyond answered with a sequence-error NAK, and neither is performed. -/
def State.sequence (s : State) (qp psn : Nat) : State :=
  let q := s.eth.qp qp
  if psn = q.epsn then (s.onEth (fun e => e.setQp qp { q with epsn := (psn + 1) % 2 ^ 24 })).wireQp qp (.roce qp "ACK" (leBytes 3 psn))
  else if psnLe q.epsn psn then s.wireQp qp (.roce qp "NAK sequence error" (leBytes 3 q.epsn))
  else s.wireQp qp (.roce qp "ACK" (leBytes 3 psn))

/-- FRAME_RECEIVED (R295, R297, R298, R306). (log 51, DESIGN CHOICE) -/
def execFrameReceived (port : Fin 4) (f : FrameKind) (s : State) : Host.Outcome State Fault Refusal :=
  answer (
    let p := s.eth.port port.val
    let ip6 := p.ip6h * 2 ^ 64 + p.ip6l
    if ¬ p.up then s else
    match f with
    | .roce qp psn marked =>
      if 4096 ≤ qp ∨ (s.eth.qp qp).state = .idle then s.dropFrame port.val
      else if (s.eth.qp qp).state = .error then s
      else (s.cnp port.val qp marked).sequence qp psn
    | .ack qp psn marked =>
      if 4096 ≤ qp ∨ (s.eth.qp qp).state = .idle then s.dropFrame port.val
      else (s.cnp port.val qp marked).onEth (fun e => e.setQp qp ((e.qp qp).acked psn))
    | .again qp psn rnr =>
      if 4096 ≤ qp ∨ (s.eth.qp qp).state = .idle then s.dropFrame port.val
      else
        let s1 := s.onEth (fun e => e.setQp qp ((e.qp qp).acked ((psn + 2 ^ 24 - 1) % 2 ^ 24)))
        if rnr then s1.sendAgain qp else s1.retry qp
    | .roceBad qp =>
      if 4096 ≤ qp ∨ (s.eth.qp qp).state = .idle then s.dropFrame port.val else s.wireQp qp (.roce qp "NAK invalid request" [])
    | .arp ip => if ip = p.ip4 ∧ ip ≠ 0 then s.wirePort port.val (.frame port.val "ARP reply" (leBytes 4 ip)) else s.dropFrame port.val
    | .neighbour ip =>
      if ip = ip6 ∧ ip ≠ 0 then s.wirePort port.val (.frame port.val "neighbour advertisement" (leBytes 16 ip)) else s.dropFrame port.val
    | .echo v6 ip =>
      if ip ≠ 0 ∧ ip = (if v6 then ip6 else p.ip4) then s.wirePort port.val (.frame port.val "echo reply" (leBytes 16 ip))
      else s.dropFrame port.val
    | .pfc prios =>
      s.onEth (fun e => e.modPort port.val (fun p =>
        { p with paused := (List.range 8).filter (fun i => p.paused.contains i || (prios.contains i && bit p.ctl (24 + i))) }))
    | .fecBad => s.onEth (fun e => e.modPort port.val (fun p => { p with fecunc := satInc p.fecunc 0xFFFF }))
    | .other => s.dropFrame port.val)

/-- PFC_PAUSE_EXPIRY (R295): what the priority held back is sent, in order. -/
def execPfcPauseExpiry (port : Fin 4) (prio : Fin 8) (s : State) : Host.Outcome State Fault Refusal :=
  answer (
    let mine := fun (h : Nat × Nat × Out) => h.1 == port.val && h.2.1 == prio.val
    let s1 := s.onEth (fun e => { e.modPort port.val (fun p => { p with paused := p.paused.filter (· != prio.val) }) with
      held := e.held.filter (fun h => !mine h) })
    (s.eth.held.filter mine).foldl (fun (a : State) h => a.wire port.val prio.val h.2.2) s1)

/-- A port's UP changed, with telemetry event 6; ports are numbered 0x80 + p there (log 23, DESIGN CHOICE). -/
def State.portState (s : State) (n : Nat) (up : Bool) : State :=
  if (s.eth.port n).up = up then s else
  (s.onEth (fun e => e.modPort n (fun p => { p with up := up }))).telEvent 6 (leBytes 1 (0x80 + n) ++ leBytes 1 (flag (!up) 0) ++ leBytes 1 (flag up 0))

/-- Whether a port may run: boot is past stage 2, EN, ETHCLK, and in bivouac mode that it is the one kept (R296, R398, R407). -/
def State.portMay (s : State) (n : Nat) : Bool :=
  3 ≤ s.sec.stage && s.sec.stage != 6 && bit (s.eth.port n).ctl 0 && s.board.ethclk &&
    (!s.lan.bivActive || s.lan.keptPort.any (fun k => k.1 == n))

/-- PORT_UP (R296): training is complete and the PCS aligned. -/
def execPortUp (port : Fin 4) (s : State) : Host.Outcome State Fault Refusal :=
  answer (if s.portMay port.val then
      (s.onEth (fun e => e.modPort port.val (fun p => { p with andone := true }))).portState port.val true
    else s)

/-- PCS_ALIGNMENT_LOST (R296). -/
def execPcsAlignmentLost (port : Fin 4) (s : State) : Host.Outcome State Fault Refusal := answer (s.portState port.val false)

/-! ### MCTP and PLDM -/

/-- Whether the MCTP endpoint answers: from stage 1, and in recovery (R415). -/
def State.mctpUp (s : State) : Bool := 1 ≤ s.sec.stage
/-- Whether the PLDM terminus answers: Lantern's firmware runs. -/
def State.pldmUp (s : State) : Bool := 2 ≤ s.sec.stage && s.sec.stage != 6
/-- Whether entries can be journalled: Lantern's journal stands (R391). -/
def State.journalUp (s : State) : Bool := 3 ≤ s.sec.stage && s.sec.stage != 6

/-- The enterprise number vendor messages must carry (R311): the boot ROM in recovery takes it from carrier data. (log 50, DEDUCED) -/
def State.vendorId (s : State) : Nat := if s.sec.stage = 6 then s.flash.vendor else s.lan.vid

/-- MCTP_VENDOR_MESSAGE (R310): one command entry, acted on for the operator; PHASE is ignored. (log 50, DEDUCED; log 68, DEDUCED) -/
def execMctpVendorMessage (i3c : Bool) (addr : Nat) (vid : W32) (entry : List Byte) (s : State) : Host.Outcome State Fault Refusal :=
  answer (
    let p := Path.mctp i3c addr
    let h := entryCmd p entry
    if ¬ s.mctpUp then s
    else if vid.toNat ≠ s.vendorId ∨ entry.length ≠ 64 ∨ h.frec ≠ 0 then
      let s1 : State := { s with lan := { s.lan with badVendor := s.lan.badVendor + 1 } }
      let s2 := if s.journalUp then s1.journal (s.srcOf p) { kind := 3, code := 0x0807 } else s1
      s2.send (.answer p 0x0807 0)
    else s.enter { h with flags := h.flags / 2 * 2 } (entryBad entry h))

/-- An answer of the MCTP endpoint. -/
def State.mctpAnswer (s : State) (i3c : Bool) (addr v : Nat) : State := if s.mctpUp then s.send (.answer (.mctp i3c addr) 0 v) else s
/-- An answer of the PLDM terminus. -/
def State.pldmAnswer (s : State) (i3c : Bool) (addr v : Nat) : State := if s.pldmUp then s.send (.answer (.mctp i3c addr) 0 v) else s

/-- SET_ENDPOINT_ID (R310). -/
def execSetEndpointId (i3c : Bool) (addr : Nat) (eid : Byte) (s : State) : Host.Outcome State Fault Refusal :=
  answer (if s.mctpUp then ({ s with lan := { s.lan with eid := eid.toNat } } : State).mctpAnswer i3c addr eid.toNat else s)

/-- GET_ENDPOINT_ID (R310). -/
def execGetEndpointId (i3c : Bool) (addr : Nat) (s : State) : Host.Outcome State Fault Refusal := answer (s.mctpAnswer i3c addr s.lan.eid)

/-- GET_MCTP_VERSION_SUPPORT (R310): the version numbers are DSP0236's, a free value here. -/
def execGetMctpVersionSupport (i3c : Bool) (addr : Nat) (_typ : Byte) (s : State) : Host.Outcome State Fault Refusal :=
  answer (s.free.2.mctpAnswer i3c addr s.free.1)

/-- GET_MESSAGE_TYPE_SUPPORT (R310): three types, 0x00, 0x01 and 0x7F, one byte each. -/
def execGetMessageTypeSupport (i3c : Bool) (addr : Nat) (s : State) : Host.Outcome State Fault Refusal :=
  answer (s.mctpAnswer i3c addr 0x7F010003)

/-- GET_ENDPOINT_UUID (R310). -/
def execGetEndpointUuid (i3c : Bool) (addr : Nat) (s : State) : Host.Outcome State Fault Refusal :=
  answer (s.free.2.mctpAnswer i3c addr s.free.1)

/-- GET_TID (R310). -/
def execGetTid (i3c : Bool) (addr : Nat) (s : State) : Host.Outcome State Fault Refusal := answer (s.pldmAnswer i3c addr s.lan.tid)

/-- GET_PLDM_VERSION (R310). -/
def execGetPldmVersion (i3c : Bool) (addr : Nat) (_typ : Byte) (s : State) : Host.Outcome State Fault Refusal :=
  answer (s.free.2.pldmAnswer i3c addr s.free.1)

/-- GET_PLDM_TYPES (R310): types 0 and 2, as a bit map. -/
def execGetPldmTypes (i3c : Bool) (addr : Nat) (s : State) : Host.Outcome State Fault Refusal := answer (s.pldmAnswer i3c addr 0b101)

/-- GET_PLDM_COMMANDS (R310): the commands of Table 14.16, as the bit map of DSP0240 and DSP0248 codes (PRESUMED). (log 46, PRESUMED) -/
def execGetPldmCommands (i3c : Bool) (addr : Nat) (typ : Byte) (s : State) : Host.Outcome State Fault Refusal :=
  answer (s.pldmAnswer i3c addr (if typ = 0 then 2 ^ 2 + 2 ^ 3 + 2 ^ 4 + 2 ^ 5
    else if typ = 2 then 2 ^ 0x04 + 2 ^ 0x10 + 2 ^ 0x11 + 2 ^ 0x21 + 2 ^ 0x50 + 2 ^ 0x51 else 0))

/-- Sensors of the terminus (Table 14.16), by number: 0 input voltage, 1 input current, 2 input power, 3 to 10 each die's hottest
sensor, 11 the hub die, 12 to 19 the HBM stacks, 20 the Damper cap, 21 the bivouac state. -/
def sensorCount : Nat := 22

/-- GET_PDR_REPOSITORY_INFO (R310): one record for each sensor. -/
def execGetPdrRepositoryInfo (i3c : Bool) (addr : Nat) (s : State) : Host.Outcome State Fault Refusal :=
  answer (s.pldmAnswer i3c addr sensorCount)

/-- GET_PDR (R310): the record's contents are DSP0248's, a free value here. -/
def execGetPdr (i3c : Bool) (addr : Nat) (_handle : W32) (s : State) : Host.Outcome State Fault Refusal :=
  answer (s.free.2.pldmAnswer i3c addr s.free.1)

/-- A sensor's reading (R310): as last updated; the cap and the bivouac state as the registers hold them. -/
def State.sensorValue (s : State) (n : Nat) : Nat :=
  if n = 20 then s.dmp.cap else if n = 21 then flag s.lan.bivActive 0 else (lookup s.lan.sensors n).getD 0

/-- GET_SENSOR_READING (R310): no reading from a sensor that is disabled. (log 46, PRESUMED) -/
def execGetSensorReading (i3c : Bool) (addr : Nat) (sensor : Nat) (s : State) : Host.Outcome State Fault Refusal :=
  answer (if s.pldmUp then s.send (if s.lan.sensorsOff.contains sensor ∨ sensorCount ≤ sensor then .answer (.mctp i3c addr) 1 0
    else .answer (.mctp i3c addr) 0 (s.sensorValue sensor)) else s)

/-- GET_STATE_SENSOR_READINGS (R310). -/
def execGetStateSensorReadings (i3c : Bool) (addr : Nat) (sensor : Nat) (s : State) : Host.Outcome State Fault Refusal :=
  answer (if s.pldmUp then s.send (if sensor = 21 then .answer (.mctp i3c addr) 0 (s.sensorValue sensor) else .answer (.mctp i3c addr) 1 0) else s)

/-- SET_NUMERIC_SENSOR_ENABLE (R310). -/
def execSetNumericSensorEnable (i3c : Bool) (addr : Nat) (sensor : Nat) (on : Bool) (s : State) : Host.Outcome State Fault Refusal :=
  answer (if s.pldmUp then
      let l := s.lan.sensorsOff.filter (· != sensor)
      ({ s with lan := { s.lan with sensorsOff := if on then l else sensor :: l } } : State).pldmAnswer i3c addr 0
    else s)

/-- SET_EVENT_RECEIVER (R310). -/
def execSetEventReceiver (i3c : Bool) (addr : Nat) (eid : Byte) (s : State) : Host.Outcome State Fault Refusal :=
  answer (if s.pldmUp then ({ s with lan := { s.lan with evReceiver := eid.toNat } } : State).pldmAnswer i3c addr 0 else s)

/-- What the Damper has measured for sensor `n` below 20, if it has (R310, R336, R343): volts in 10 mV and watts, means of 100 ms; the
newest current in mA; degrees Celsius, as 8-bit signed numbers. (log 46, PRESUMED) -/
def Dmp.measured (d : Dmp) (n : Nat) : Option Nat :=
  if n = 0 then (if d.window.isEmpty then none else some d.vin)
  else if n = 1 then d.window.head?.map (fun w => w.2.1)
  else if n = 2 then (if d.window.isEmpty then none else some d.measw)
  else if n = 11 then some (encInt 8 (hottest d.hub none / 2))
  else if n < 11 then (if (d.die (n - 3)).powered then some (encInt 8 (hottest (d.die (n - 3)).sensors none / 2)) else none)
  else if (d.die (n - 12)).powered then some (encInt 8 (d.die (n - 12)).hbm) else none

/-- The sensors' readings brought up to date (R310): what the Damper has measured, and of the others those given. -/
def State.scanSensors (s : State) (values : List (Nat × Nat)) : State :=
  let put := fun (l : List (Nat × Nat)) (n : Nat) => match (s.dmp.measured n).orElse (fun _ => lookup values n) with
    | some v => insertKey n v l
    | none => l
  { s with lan := { s.lan with sensors := (List.range 20).foldl put s.lan.sensors } }

/-- PLDM_SENSOR_UPDATE (R310): readings every 100 ms, and an event for each enabled sensor that crossed a threshold. (log 46, PRESUMED) -/
def execPldmSensorUpdate (values : List (Nat × Nat)) (crossed : List Nat) (s : State) : Host.Outcome State Fault Refusal :=
  answer (if s.pldmUp then
      (crossed.filter (fun n => !s.lan.sensorsOff.contains n)).foldl (fun (a : State) n => a.platform 0 n) (s.scanSensors values)
    else s)

/-- DYNAMIC_ADDRESS_ASSIGNMENT (R310, R415). -/
def execDynamicAddressAssignment (addr : Nat) (s : State) : Host.Outcome State Fault Refusal :=
  answer (if s.mctpUp then { s with lan := { s.lan with i3cDyn := addr } } else s)

end Sys2Proof.Machine
end

