-- ==== Sys2Proof/Machine/Nymhel.lean ====
section
/-!
DEFINITION. Nymhel's events (13): training, flits and retries, packets, remote accesses and their answers, routing checks,
keepalives, lost members, aborts and stalled transfers. (log 13, DESIGN CHOICE; log 23, DESIGN CHOICE) -/
namespace Sys2Proof.Machine

/-! ### Links -/

/-- LINK_TRAINED (R269, R271): identities and the epochs of the routing tables are exchanged; a link to this module itself is
refused, any other enters service, and sending resumes at the first flit that ACK does not cover. -/
def execLinkTrained (link : Fin 24) (peerDev peerLevel : Nat) (peerLink : PeerLink) (s : State) :
    Host.Outcome State Fault Refusal :=
  answer (
    let l := link.val
    if (s.nym.link l).state ≠ 1 then s else
    let own := (s.nym.level, s.nym.devnum)
    let dir := if peerLevel < own.1 ∨ (peerLevel = own.1 ∧ peerDev < own.2) then 1 else 2
    let s1 := s.onNym (fun n => n.modLink l (fun k =>
      { k with peerDev := peerDev % 65536, peerLevel := peerLevel % 256, peerLink := peerLink.link % 32, tries := 0
               peerEpochs := peerLink.epochs.map (· % 65536)
               dir := if peerDev = s.nym.devnum then 0 else dir }))
    if peerDev = s.nym.devnum then s1.linkState l 3 else
    let s2 := s1.linkState l 2
    let s3 := (s2.nym.link l).buf.foldl (fun (a : State) f => a.send (.flit l f.2.2)) s2
    let s4 := (s3.nym.link l).owed.foldl (fun (a : State) o => a.credit l o.1 o.2)
      (s3.onNym (fun n => n.modLink l (fun k => { k with owed := [] })))
    s4.drain l)

/-- What an intact flit says of the flits sent the other way (R270, R271): those ACK covers leave the retry buffer, which is
progress, and credits come back. -/
def Link.acked (k : Link) (f : List Byte) : Link :=
  let ack := fld f 4 2
  let buf := k.buf.filter (fun b => 32768 ≤ (ack + 65536 - b.1) % 65536)
  let vc := fld f 6 1
  { k with buf := buf, tries := if buf.length < k.buf.length then 0 else k.tries
           credits := if vc < 5 then k.credits.modify vc (· + fld f 7 1) else k.credits }

/-- Whether a packet under way has its flits on a channel: its head came on it, or its opcode's packets are injected on it. (log 32, DESIGN CHOICE) -/
def Partly.takes (p : Partly) (vc : Nat) : Bool := p.vcs.head? == some vc || (packetOf p.got).vc == vc

/-- The body of a flit taken in on a channel (R272): a head begins a packet, a body continues the oldest of its channel, or for the
escape channel the oldest under way. A packet has as many flits as its LEN says, be it too large (R273). (log 32, DESIGN CHOICE) -/
def Link.take (k : Link) (vc kind : Nat) (body : List Byte) : Link :=
  if kind = 1 then
    let want := 32 + fld body 0xC 2
    { k with partly := k.partly ++ [{ vcs := [vc], got := body.take (min 240 want), want := want }] }
  else
    match (match k.partly.findIdx? (fun p => p.takes vc && p.got.length < p.want) with
      | some i => some i
      | none => k.partly.findIdx? (fun p => p.got.length < p.want)) with
    | none => k
    | some i => { k with partly := k.partly.modify i (fun p =>
        { p with vcs := p.vcs ++ [vc], got := p.got ++ body.take (min 240 (p.want - p.got.length)) }) }

/-- Packets of a link that are complete, moved to those not yet handled; what comes of a packet whose transfer was aborted is
discarded, and its buffers are freed at once (R289). (log 32, DESIGN CHOICE) -/
def State.gather (s : State) (l : Nat) : State :=
  let ps := (s.nym.link l).partly
  let full := ps.filter (fun p => p.want ≤ p.got.length && !p.drop)
  let kept := (ps.filter (fun p => p.got.length < p.want)).map (fun p => if p.drop then { p with vcs := [] } else p)
  let s1 := s.onNym (fun n =>
    { n.modLink l (fun k => { k with partly := kept }) with inbox := n.inbox ++ full.map (fun p => (l, p.vcs, p.got)) })
  s1.creditAll l ((ps.filter Partly.drop).flatMap Partly.vcs)

/-- A retry request sent, with the SEQ expected next (R271). -/
def State.askRetry (s : State) (l : Nat) : State :=
  let k := s.nym.link l
  s.send (.flit l (flitBytes 3 3 ((k.rxSeq + 1) % 65536) k.rxSeq 0xFF 0 []))

/-- Flits resent in order from SEQ `seq` (R271). -/
def State.resend (s : State) (l seq : Nat) : State :=
  let k := s.nym.link l
  let fs := k.buf.filter (fun b => (b.1 + 65536 - seq) % 65536 < 32768)
  let s1 := s.onNym (fun n => n.modLink l (fun k => { k with retries := satInc k.retries 0xFFFF, tries := k.tries + 1 }))
  fs.foldl (fun (a : State) f => a.send (.flit l f.2.2)) s1

/-- FLIT_RECEIVED (R268, R270 to R272): a flit that the FEC or the CRC finds bad, or with a reserved VC or KIND, is
discarded and a resend requested; one out of order is discarded. (log 32, DESIGN CHOICE) -/
def execFlitReceived (link : Fin 24) (flit : List Byte) (fecBad : Bool) (s : State) : Host.Outcome State Fault Refusal :=
  answer (
    let l := link.val
    let vc := fld flit 0 1
    let kind := fld flit 1 1
    let seq := fld flit 2 2
    let k := s.nym.link l
    if k.state ≠ 2 then s
    else if fecBad ∨ flit.length ≠ 256 ∨ crc32 (slice flit 0 252) ≠ fld flit 252 4 ∨ 4 < vc ∨ 3 < kind then s.askRetry l
    else if kind = 3 then (s.onNym (fun n => n.modLink l (·.acked flit))).resend l seq
    else if kind = 0 then
      if seq = k.rxSeq then (s.onNym (fun n => n.modLink l (·.acked flit))).drain l else s
    else if seq ≠ (k.rxSeq + 1) % 65536 then s
    else
      let s1 := (s.onNym (fun n => n.modLink l (fun k =>
        { (k.acked flit).take vc kind (slice flit 8 240) with rxSeq := seq }))).gather l
      let k1 := s1.nym.link l
      (s1.send (.flit l (flitBytes 0 0 k1.txSeq k1.rxSeq 0xFF 0 []))).drain l)

/-- RETRY_REQUEST_RECEIVED (R271). -/
def execRetryRequestReceived (link : Fin 24) (seq : Nat) (s : State) : Host.Outcome State Fault Refusal :=
  answer (if (s.nym.link link.val).state = 2 then s.resend link.val (seq % 65536) else s)

/-- LINK_RETRAIN (R271): after 16 retries without progress the link leaves service and trains again. -/
def execLinkRetrain (link : Fin 24) (s : State) : Host.Outcome State Fault Refusal :=
  answer (
    let k := s.nym.link link.val
    if k.state = 2 ∧ 16 ≤ k.tries then s.train link.val else s)

/-- ESCAPE_MOVE (R272): the oldest flit of channels 0 to 2 that waits for a credit moves to the escape channel. (log 33, DEDUCED) -/
def execEscapeMove (link : Fin 24) (s : State) : Host.Outcome State Fault Refusal :=
  answer (
    let k := s.nym.link link.val
    match k.waiting.findIdx? (fun w => w.vc < 3 && k.credits.getD w.vc 0 == 0) with
    | some i => (s.onNym (fun n => n.modLink link.val (fun k =>
        { k with waiting := k.waiting.modify i (fun w => { w with vc := 4 }) }))).drain link.val
    | none => s)

/-! ### Packets -/

/-- Packet opcodes that are not reserved (Table 13.3). -/
def packetOpc (o : Nat) : Bool := (1 ≤ o && o ≤ 7) || o == 0x10 || o == 0x11 || (0x20 ≤ o && o ≤ 0x22)

/-- Whether a packet is a request. -/
def Packet.request (p : Packet) : Bool := p.opc == 1 || p.opc == 2 || p.opc == 5

/-- Whether a request is one its sender counts until it is acknowledged: a write, or FSET. -/
def Packet.posted (p : Packet) : Bool := p.opc == 2 || (p.opc == 5 && fld p.data 0 8 == 6)

/-- Where a packet goes by the bank of its epoch (R274): this module, a link, or nowhere yet. (log 33, DEDUCED) -/
def State.wayByBank (s : State) (p : Packet) : Option Nat :=
  match (s.nym.banks.find? (fun b => b.epoch == p.epoch)).bind (fun b => b.port p.dest) with
  | some q => if q ≤ 24 then some q else none
  | none => none

/-- A packet of this module, which channels 0 to 2 of a link take only for the link's partition (R278); else its way. -/
def State.wayOf (s : State) (h : HeldPkt) : Option Nat := if h.link = 24 then s.route h.pkt.spart h.pkt.dest else s.wayByBank h.pkt

/-- A response to a request (R272, R278): sent on a link that the partition it serves may use, or kept until there is one. (log 33, DEDUCED) -/
def State.respond (s : State) (p : Packet) (opc arg : Nat) (data : List Byte) (addr : Nat := p.addr) : State :=
  let r : Packet := { dest := p.src, src := s.nym.devnum, epoch := s.epoch, opc := opc, spart := p.spart, tag := p.tag, addr := addr,
                      arg := arg, data := data }
  match s.route p.spart p.src with
  | some l => s.send (.packet l r)
  | none => s.onNym (fun n => { n with heldPkts := n.heldPkts ++ [{ pkt := r, link := 24, vcs := [], stalled := false }] })

/-- A refusal of a request with a fault code (R273, R278): the data say whether the request is one that is acknowledged, and
for 0x0210 give DETAIL (log 23, DESIGN CHOICE). -/
def State.refusePacket (s : State) (p : Packet) (code : Nat) (detail : List Byte := []) : State :=
  s.respond p 7 code (leBytes 1 (flag p.posted 0) ++ detail)

/-- An abort taken (R285): the operations in flight of a context end with its status, and its strands go on. -/
def State.takeAbort (s : State) (k status : Nat) : State :=
  if status % 2 ^ 16 ≠ 0 ∧ (lookup s.core.ctxs k).any Context.inFlight then (s.onCore (fun c => c.abortCtx k status)).wakeAll else s

/-- Collective or expert data come for a context (R288): its operation makes progress, and is no longer stalled. -/
def Core.collMoves (c : Core) (k opc : Nat) : Core :=
  match lookup c.ctxs k with
  | none => c
  | some cx => c.setCtx k { cx with coll := { cx.coll with
      ops := cx.coll.ops.map (fun q => if q.packetOpc = opc then { q with stalled := false } else q) } }

/-- A packet that has reached this module: an abort acts, collective data are progress, requests and responses wait to be served;
keepalives and table vectors act by events of their own. -/
def State.arrive (s : State) (p : Packet) : State :=
  if p.opc = 0x21 then s.takeAbort p.addr p.arg
  else if p.opc = 0x10 ∨ p.opc = 0x11 then s.onCore (fun c => c.collMoves (p.addr % 65536) p.opc)
  else if p.opc ≤ 7 then s.onNym (fun n => { n with mine := n.mine ++ [p] })
  else s

/-- A packet moved on: to this module, its buffers freed, or to a link; one of this module's own is injected now, with the epoch of
the bank that is active (R274). (log 33, DEDUCED) -/
def State.moveOn (s : State) (p : Packet) (link : Nat) (vcs : List Nat) (way : Nat) : State :=
  if way = 24 then (s.creditAll link vcs).arrive p
  else if link = 24 then s.send (.packet way { p with epoch := s.epoch })
  else s.inject way p.vc p (some (link, vcs))

/-- PACKET_RECEIVED (R273, R274): a kept packet whose way is now known moves on; else the oldest packet received is
discarded as malformed, moved on, or kept. A table vector goes no further than this module. -/
def execPacketReceived (s : State) : Host.Outcome State Fault Refusal :=
  answer (
    match s.nym.heldPkts.find? (fun h => (s.wayOf h).isSome) with
    | some h => (s.onNym (fun n => { n with heldPkts := n.heldPkts.erase h })).moveOn h.pkt h.link h.vcs ((s.wayOf h).getD 24)
    | none =>
      match s.nym.inbox with
      | [] => s
      | (l, vcs, b) :: rest =>
        let s1 := s.onNym (fun n => { n with inbox := rest })
        let p := packetOf b
        if ¬ packetOpc p.opc ∨ fld b 0xE 2 ≠ 0 ∨ 4096 < fld b 0xC 2 then
          let s2 := (s1.onNym (fun n => n.modLink l (fun k => { k with proterr := satInc k.proterr 0xFF }))).creditAll l vcs
          if p.request then s2.refusePacket p 0x0704 else s2
        else if p.opc = 0x22 then s1.creditAll l vcs
        else match s1.wayByBank p with
          | some w => s1.moveOn p l vcs w
          | none => s1.onNym (fun n => { n with heldPkts := n.heldPkts ++ [{ pkt := p, link := l, vcs := vcs, stalled := false }] }))

/-! ### Remote accesses, at the holding module -/

/-- The first packet that satisfies `f`, and the others. -/
def takePacket (f : Packet → Bool) : List Packet → Option (Packet × List Packet)
  | [] => none
  | p :: t => if f p then some (p, t) else (takePacket f t).map (fun q => (q.1, p :: q.2))

/-- Check of a remote access (R24, R211, R422): 0, or the code it is refused with; SPART names a partition. -/
def State.remoteCheck (s : State) (p : Packet) (n : Nat) (wr : Bool) : Nat :=
  if 8 ≤ p.spart then 0x0202 else
  let c := s.core.access p.spart (s.core.partPantry p.spart) p.addr n wr
  if c ≠ 0 then c
  else if wr ∧ s.core.hitsCode p.addr n then 0x0202
  else if wr ∧ s.core.storeRefused p.addr n then 0x0502
  else 0

/-- Bytes read for a remote access: the state, and the bytes or the refusal's DETAIL (R262, R278). -/
def State.remoteRead (s : State) (a n : Nat) : State × Except (List Byte) (List Byte) := s.readMem a n true

/-- A flag operation of another module (R102, R278). -/
def State.remoteFlag (s : State) (p : Packet) : State :=
  let kind := fld p.data 0 8
  let v2 := fld p.data 8 8
  let code := if ¬ flagAddr p.addr then 0x0203 else s.remoteCheck p 8 (4 ≤ kind)
  if code ≠ 0 then s.refusePacket p code
  else if kind = 6 then (s.onCore (fun c => c.store p.addr (leBytes 8 p.arg))).respond p 3 0 []
  else match s.remoteRead p.addr 8 with
    | (s1, .error d) => s1.refusePacket p 0x0210 d
    | (s1, .ok bs) =>
      let old := ofLE bs
      match kind with
      | 4 => (s1.onCore (fun c => c.store p.addr (leBytes 8 (old + p.arg)))).respond p 6 old []
      | 5 => (if old = p.arg then s1.onCore (fun c => c.store p.addr (leBytes 8 v2)) else s1).respond p 6 old []
      | _ => if flagCmp kind old p.arg then s1.respond p 6 old []
             else s1.onNym (fun n => { n with parked := n.parked ++ [p] })

/-- A request of another module served or refused (R21, R278, R422). -/
def State.serve (s : State) (p : Packet) : State :=
  if p.opc = 5 then s.remoteFlag p
  else if p.opc = 2 then
    let code := s.remoteCheck p p.data.length true
    if code ≠ 0 then s.refusePacket p code else (s.onCore (fun c => c.store p.addr p.data)).respond p 3 0 []
  else
    let n := fld p.data 0 4
    let code := s.remoteCheck p n false
    if code ≠ 0 then s.refusePacket p code else
    match s.remoteRead p.addr n with
    | (s1, .error d) => s1.refusePacket p 0x0210 d
    | (s1, .ok bs) =>
      (List.range (ceilDiv n 4096)).foldl (fun (a : State) i =>
        a.respond p 4 0 (slice bs (4096 * i) (min 4096 (n - 4096 * i))) (p.addr + 4096 * i)) s1

/-- REMOTE_ACCESS_RECEIVED (R278, R422): the oldest request for this module. -/
def execRemoteAccessReceived (s : State) : Host.Outcome State Fault Refusal :=
  answer (match takePacket Packet.request s.nym.mine with
    | some (p, rest) => (s.onNym (fun n => { n with mine := rest })).serve p
    | none => s)

/-- REMOTE_FWAIT_ANSWER (R278): a parked FWAIT whose comparison now holds is answered. -/
def execRemoteFwaitAnswer (n : Nat) (s : State) : Host.Outcome State Fault Refusal :=
  answer (match s.nym.parked[n]? with
    | none => s
    | some p =>
      let s0 := s.onNym (fun m => { m with parked := m.parked.eraseIdx n })
      match s.remoteRead p.addr 8 with
      | (s1, .error d) => ({ s1 with nym := s0.nym } : State).refusePacket p 0x0210 d
      | (s1, .ok bs) =>
        if flagCmp (fld p.data 0 8) (ofLE bs) p.arg then ({ s1 with nym := s0.nym } : State).respond p 6 (ofLE bs) [] else s1)

/-! ### Remote accesses, at the issuer -/

/-- A response to request `q` of a queue pair (R299): data go to its requester, a refusal is reported. (log 71, DESIGN CHOICE) -/
def State.qpResponse (s : State) (qp : Nat) (q : Req) (p : Packet) : State :=
  if p.opc = 4 then s.wireQp qp (.roce qp "read response" p.data)
  else if p.opc = 7 then s.qpRefused qp p.arg q.addr
  else s

/-- A response to request `q` of strand `i` of context `k`, of the launch and rank that made it (R99, R108, R278): data and flag
results return to its instruction, an acknowledgement counts, a refusal is the strand's fault, or its context's where the strand
has ended since; its record names the instruction that made the request and the rank of its strand, ended or not. (log 71, DESIGN
CHOICE; log 87, DEDUCED) -/
def State.strandResponse (s : State) (k i launch rank : Nat) (q : Req) (p : Packet) : State :=
  let a := p.src * 2 ^ 48 + p.addr
  let there := (s.core.strand k i).any (fun r => r.launch == launch && r.rank == rank)
  let s := s.onCore (fun c => c.spend k p.spart 3 p.data.length)
  let upd := fun (f : Strand → Strand) => if there then (s.onCore (fun c => c.modStrand k i f)).wakeCtx k else s
  match p.opc with
  | 3 => upd (fun r => { r with acks := r.acks - 1, stalled := false })
  | 4 => upd (fun r => { r with arrived := addArrived r.arrived a p.data, stalled := false })
  | 6 => upd (fun r => { r with arrived := addArrived r.arrived a (leBytes 8 p.arg), stalled := false })
  | _ =>
    let ending := fun (r : Strand) => if q.wait.isNone then { r with acks := r.acks - 1, stalled := false } else r.dropTransfer
    let c := if there then s.core.modStrand k i ending else s.core
    let c := c.raise s.nym.devnum k (if there then i else 128) { code := p.arg, detail := p.data.drop 1 } (some (rankField rank i, q.pc))
    ({ s with core := c } : State).onFault k

/-- A response to request `q` of a decode request (R249, R262): its bytes join the others, or its consumer faults. (log 71, DESIGN CHOICE) -/
def State.sieveResponse (s : State) (n : Nat) (p : Packet) : State :=
  match s.core.decodes.find? (fun d => d.num == n) with
  | none => s
  | some d =>
    if p.opc = 4 then
      s.onCore (fun c => decodesTry s.envOf
        (c.modDecode n (fun d => { d with arrived := addArrived d.arrived (p.src * 2 ^ 48 + p.addr) p.data })))
    else
      (s.onCore (fun c => (c.dropDecode d).raise s.nym.devnum d.ctx d.strand { code := p.arg, detail := p.data.drop 1 })).onFault d.ctx

/-- Requests once a response to `q` is here: `q` is answered, or more of its bytes are still to come; a transfer that progresses
is no longer stalled (R288). -/
def Core.answer (c : Core) (q : Req) (p : Packet) : Core :=
  if p.opc = 4 ∧ p.data.length < q.left then
    { c with reqs := c.reqs.map (fun r => if r = q then { r with left := r.left - p.data.length, stalled := false } else r) }
  else { c with reqs := c.reqs.erase q }

/-- A response taken to the request it answers, by its tag and the module it comes from; one that answers none is dropped. (log
71, DESIGN CHOICE) -/
def State.response (s : State) (p : Packet) : State :=
  match s.core.reqs.find? (fun q => q.tag == p.tag && q.dest == p.src) with
  | none => s
  | some q =>
    let s1 := s.onCore (fun c => c.answer q p)
    match q.who with
    | .strand k i launch rank => s1.strandResponse k i launch rank q p
    | .qp n => s1.qpResponse n q p
    | .sieve n => s1.sieveResponse n p

/-- REMOTE_RESPONSE_RECEIVED (R99, R108, R278): the oldest response for this module. -/
def execRemoteResponseReceived (s : State) : Host.Outcome State Fault Refusal :=
  answer (match takePacket (fun p => !p.request) s.nym.mine with
    | some (p, rest) => (s.onNym (fun n => { n with mine := rest })).response p
    | none => s)

/-! ### Routing checks -/

/-- The bank of an epoch, of those this module holds, checked or not. -/
def Nym.bankOf (n : Nym) (epoch : Nat) : Option Bank :=
  (n.active.toList ++ n.previous.toList ++ n.pendingBank.toList).find? (fun b => b.epoch == epoch)

/-- TABLE_VECTOR_RECEIVED (R275): a peer's vector, kept for the check, and answered with this module's own of that epoch. -/
def execTableVectorReceived (link : Fin 24) (vec : TableVec) (s : State) : Host.Outcome State Fault Refusal :=
  answer (
    if (s.nym.link link.val).state ≠ 2 then s else
    let s1 := s.onNym (fun n => { n with vectors := insertKey link.val vec n.vectors })
    match s.nym.bankOf vec.epoch with
    | some b => if vec.reply then s1 else s1.sendVector link.val b true
    | none => s1)

/-- A peer's vector of an epoch. -/
def Nym.vectorOf (n : Nym) (l epoch : Nat) : Option TableVec :=
  match lookup n.vectors l with
  | some v => if v.epoch = epoch then some v else none
  | none => none

/-- Whether an entry of a bank passes against its peer (R275 checks 2 and 3). -/
def Nym.entryOk (n : Nym) (epoch : Nat) (e : Nat × Nat × Nat) : Bool :=
  e.2.1 == 24 ||
  ((n.link e.2.1).state == 2 && (n.vectorOf e.2.1 epoch).any (fun v =>
    (lookup v.entries e.1).any (fun q =>
      q.1 ≤ 24 && q.2 + 1 == e.2.2 && (q.1 == 24 || (n.link e.2.1).dir != 2 || v.dirs.getD q.1 0 == 2))))

/-- ROUTING_CHECK_COMPLETE (R275, R276): once every named link that is up has answered, the image passes, or fails at its
first failing destination. -/
def execRoutingCheckComplete (s : State) : Host.Outcome State Fault Refusal :=
  answer (match s.nym.pstate, s.nym.pendingBank with
    | 1, some b =>
      if b.linksOf.any (fun l => (s.nym.link l).state == 2 && (s.nym.vectorOf l b.epoch).isNone) then s
      else match b.entries.find? (fun e => !s.nym.entryOk b.epoch e) with
        | some e => s.onNym (fun n => n.checkFailed e.1)
        | none => s.onNym (fun n => { n with pstate := 2 })
    | _, _ => s)

/-- ROUTING_VECTOR_TIMEOUT (R275): the vector of a named link has not come in time. -/
def execRoutingVectorTimeout (link : Fin 24) (s : State) : Host.Outcome State Fault Refusal :=
  answer (match s.nym.pstate, s.nym.pendingBank with
    | 1, some b =>
      match b.entries.find? (fun e => e.2.1 == link.val) with
      | some e => if (s.nym.vectorOf link.val b.epoch).isNone then s.onNym (fun n => n.checkFailed e.1) else s
      | none => s
    | _, _ => s)

/-! ### Members -/

/-- KEEPALIVE (R285): to every other member on another module while an operation of the context is in flight. -/
def execKeepalive (k : Fin 1024) (s : State) : Host.Outcome State Fault Refusal :=
  answer (match lookup s.core.ctxs k.val with
    | some cx =>
      if cx.inFlight then
        cx.coll.members.foldl (fun (a : State) m =>
          if m.1 = s.nym.devnum then a else
          match s.routeAny m.1 with
          | some l => a.send (.packet l { dest := m.1, src := s.nym.devnum, epoch := s.epoch, opc := 0x20,
                                           spart := cx.part, tag := k.val, addr := m.2, arg := 0, data := [] })
          | none => a) s
      else s
    | none => s)

/-- MEMBER_LOST (R285, Table 13.7): a member silent for 1 s (status 1), or reported as gone (status 2 or 5), ends the
operation at every member that can be reached. -/
def execMemberLost (k : Fin 1024) (rank : Nat) (code : Fin 6) (s : State) : Host.Outcome State Fault Refusal :=
  answer (match lookup s.core.ctxs k.val with
    | some cx =>
      if cx.inFlight ∧ rank < cx.coll.members.length ∧ (code = 1 ∨ code = 2 ∨ code = 5) then
        (s.abortAll k.val (statusWord code.val (if code = 2 then noRank else rank))).wakeAll
      else s
    | none => s)

/-- ABORT_RECEIVED (R285). -/
def execAbortReceived (k : Fin 1024) (status : W64) (s : State) : Host.Outcome State Fault Refusal :=
  answer (s.takeAbort k.val status.toNat)

/-! ### Stalled transfers -/

/-- The other module a strand's transfer concerns, if it has one (R288). -/
def State.transferOf (s : State) (r : Strand) : Option Nat :=
  let far := fun (a : Nat) => if ownAddr s.nym.devnum a then none else some (devOf a)
  match r.held.map Held.wait with
  | some (.remote a _) | some (.panels a _) | some (.remoteFlag a _ _ _) => far a
  | _ => if r.acks = 0 then none else some r.ackTo

/-- The report of a stalled transfer in telemetry (R288, R393). -/
def State.reportStall (s : State) (dest : Nat) : State :=
  s.telEvent 3 (leBytes 2 dest ++ leBytes 1 ((s.routeAny dest).getD 0xFF))

/-- The oldest packet kept in its buffers, or else the oldest request of a queue pair or a decode request, that is not yet
reported: reported as stalled (R288). -/
def State.stallOther (s : State) : State :=
  match s.nym.heldPkts.find? (fun h => !h.stalled) with
  | some h =>
    (s.onNym (fun n => { n with heldPkts := n.heldPkts.map (fun g => if g = h then { g with stalled := true } else g) })).reportStall
      h.pkt.dest
  | none =>
    match s.core.reqs.find? (fun q => !q.stalled && match q.who with | .strand _ _ _ _ => false | _ => true) with
    | some q =>
      (s.onCore (fun c => { c with reqs := c.reqs.map (fun r => if r = q then { r with stalled := true } else r) })).reportStall q.dest
    | none => s

/-- TRANSFER_STALLED (R288): a strand's transfer or collective, or when it has none another of this module. -/
def execTransferStalled (t : StrandId) (s : State) : Host.Outcome State Fault Refusal :=
  answer (
    let k := t.ctx.val
    let i := t.idx.val
    match lookup s.core.ctxs k, s.core.strand k i with
    | some cx, some r =>
      if r.stalled ∨ cx.coll.ops.any (fun q => q.strand == i && q.fin.isNone && q.stalled) then s
      else if cx.coll.ops.any (fun q => q.strand == i && q.fin.isNone) then
        let ops := cx.coll.ops.map (fun q => if q.strand = i then { q with stalled := true } else q)
        (s.onCore (fun c => c.setCtx k { cx with coll := { cx.coll with ops := ops } })).reportStall
          (((cx.coll.members.find? (fun m => m.1 != s.nym.devnum)).map Prod.fst).getD s.nym.devnum)
      else match s.transferOf r with
        | some d => (s.onCore (fun c => c.modStrand k i (fun r => { r with stalled := true }))).reportStall d
        | none => s.stallOther
    | _, _ => s.stallOther)

end Sys2Proof.Machine
end

