-- ==== Sys2Proof/Machine/Power.lean ====
section
/-!
DEFINITION. Power of the compute side, and bivouac mode's entry and power-down (16, 18, 19, 20: R332, R335, R396 to R398).
-/
namespace Sys2Proof.Machine

/-! ### Compute dies -/

/-- MARGIN of a die at a number of hours (R332): the increment of the step with the largest threshold reached. -/
def Die.marginAt (d : Die) (hours : Nat) : Nat :=
  ((d.steps.filter (fun s => s.1 ≤ hours)).getLast?.map Prod.snd).getD 0

/-- A die powered up (R335, R342): its CCLK locks at OP0, its thermal ceiling starts at OP15, and its margin is taken.
No temperature from before stands until its first sample. (log 36, DESIGN CHOICE) -/
def Die.powerUp (d : Die) (hours : Nat) : Die :=
  { d with powered := true, op := 0, thceil := 15, target := 0, rising := false, since := 0, stretched := false, lim := none,
           follow := none, margin := d.marginAt hours, temp := 50 }

/-- A die without power. (log 36, DESIGN CHOICE) -/
def Die.powerDown (d : Die) : Die := { d with powered := false, op := 0, rising := false, stretched := false }

/-- The compute dies powered up; their links may train (R335, R369 stage 4). Core power stays off after a thermal trip (R344). -/
def State.powerUp (s : State) : State :=
  let h := s.dmp.hours
  if s.board.thermtrip then s else
  ({ s with dmp := s.dmp.allDies (fun d => d.powerUp h)
            board := { s.board with corePower := true, hbmPower := true } } : State).linkEnable

/-! ### The compute side stopped -/

/-- On-chip memory of the compute dies lost: pantries, tile memories, function tables and decode requests. -/
def Core.loseChip (c : Core) : Core :=
  { c with mem := c.mem.clear pantryBase (pantryEnd - pantryBase), ecc := c.ecc.forget c.space pantryBase (pantryEnd - pantryBase)
           windows := [], ftab := [], decodes := [], walks := [], live := [], reqs := [] }

/-- Every Sieve generation cleared; assignments stay (R397). -/
def Core.clearGens (c : Core) : Core :=
  { c with tslots := c.tslots.map (fun t => { t with cur := none, prev := none, draining := none }), decodes := [] }

/-- Every known context discarded and every pack unloaded, with a status at other members of what was in flight. -/
def State.dropContexts (s : State) (code : Nat) : State :=
  let ks := s.core.ctxs.map Prod.fst
  let s1 := ks.foldl (fun (a : State) k =>
    let ms := ((lookup a.core.ctxs k).map (fun cx => cx.coll.members)).getD []
    a.abortAll k (statusWord code (a.rankIn k ms))) s
  let s2 := ks.foldl State.discardCtx s1
  s2.onCore (fun c => { c with packs := [] })

/-! ### Bivouac mode -/

/-- The boot entry (R388, R391): at the number after the reservation mark, once the flash copy is back in the ring, then
entries for what was found before it. Nothing happens when it has been written. (log 35, DEDUCED; log 50, DEDUCED) -/
def State.bootJournal (s : State) (ring : Bool) : State :=
  if s.sec.journalled then s else
  let j := s.core.jnl
  let last := (j.flash.getLast?.map Prod.fst).getD 0
  let h := (j.flash.getLast?.map (fun e => slice e.2 0x60 32)).getD (List.replicate 32 0)
  let c0 : Core := { s.core with jnl := { j with head := j.mark, hash := h, copied := last, ringLost := !ring } }
  let c1 := if ring then j.flash.foldl (fun (c : Core) e => c.store (ringSlot e.1) e.2) c0 else c0
  let s1 : State := { s with core := c1, sec := { s.sec with journalled := true, found := [] } }
  let s2 := s1.journal Src.lantern { kind := 4, old := last, detail := leBytes 4 s.sec.secver ++ leBytes 8 s.sec.bootStat }
  s.sec.found.foldl (fun (a : State) f => a.journal (if f.1 then Src.rom else Src.lantern) { kind := 3, code := f.2.1, detail := f.2.2 }) s2

/-- A command not admitted in bivouac mode (R397). (log 35, DEDUCED) -/
def State.bivouacDeny (s : State) (h : HostCmd) : State :=
  if bivouacAdmits h.opc && s.keeps h.path then s else
  ({ s with started := s.started.erase h } : State).complete h h.opc 0x0802 0

/-- A binding command not complete, in bivouac mode: it is not applied (R397). (log 35, DEDUCED) -/
def State.bivouacUnbind (s : State) (r : Rebind) : State :=
  let s1 := s.journal (s.srcOf r.cmd.path) { kind := 2, code := 0x20, new := 0x0802, detail := r.args }
  s1.onCore (fun c => { c with dones := c.dones ++ [{ cmd := r.cmd, status := 0x0802, result := 0 }] })

/-- Entry into bivouac mode (R396 to R398); a later cause is journalled only. (log 35, DEDUCED) -/
def State.bivouac (s : State) (cause : Nat) : State :=
  if s.sec.stage < 2 ∨ s.sec.stage = 6 then s else
  let s0 := s.bootJournal (cause != 6)
  let s1 := s0.journal Src.lantern { kind := 5, code := cause }
  if s.lan.bivActive then s1 else
  let kept := if s.core.owner 5 s.lan.bivQset = 0xFF then some (s.lan.bivPort, s.lan.bivQset) else none
  let s2 : State :=
    { s1 with lan := { s1.lan with bivActive := true, bivCause := cause, bivCount := satInc s1.lan.bivCount 0xFF, keptPort := kept,
                                   stopping := true }
              sec := { s1.sec with stage := 7, restart := false } }
  let s3 := s2.started.foldl State.bivouacDeny s2
  let s4 := s3.rebinds.foldl State.bivouacUnbind { s3 with rebinds := [] }
  let s5 := ((s4.dropContexts 1).onCore Core.clearGens)
  let s6 := (List.range 4).foldl (fun (a : State) e => a.closeEngine e 0x0802) s5
  let s7 := (List.range 4).foldl (fun (a : State) p => if kept.any (fun k => k.1 == p) then a else a.portState p false) s6
  ((s7.alert 2).telEvent 7 (leBytes 1 cause)).platform 2 cause

/-- The power-down that ends bivouac entry (R397 step 5): HBM contents are lost and read 0 until written (R399). -/
def State.powerDown (s : State) : State :=
  let s1 : State := { s with dmp := s.dmp.allDies Die.powerDown
                             board := { s.board with corePower := false, hbmPower := false }
                             lan := { s.lan with stopping := false } }
  (s1.onCore (fun c =>
    { c.loseChip with mem := (c.loseChip.mem).clear 0 hbmEnd, ecc := (c.loseChip.ecc).forget c.space 0 hbmEnd })).linkEnable

end Sys2Proof.Machine
end

