-- ==== Sys2Proof/Machine/Damper.lean ====
section
/-!
DEFINITION. The Damper (16): operating points, the two power loops, droop, thermal control, hours, and the follow-peer
ceiling (R286). (log 8, DESIGN CHOICE) -/
namespace Sys2Proof.Machine

/-- The Damper changed. -/
def State.onDmp (s : State) (f : Dmp → Dmp) : State := { s with dmp := f s.dmp }

/-- Whether the Damper runs: power is good and RESET_N is deasserted. -/
def State.damperUp (s : State) : Bool := s.board.pgood && s.board.resetN

/-! ### The point of a die -/

/-- A die's preference (R333): the highest preferred point among strands placed on it, or OP15. -/
def Core.preference (c : Core) (d : Nat) : Nat :=
  let l := c.ctxs.flatMap (fun k => (k.2.strands.filter (fun r => r.2.me.any (fun m => m / 16 == d))).map (fun r => r.2.prefer))
  if l.isEmpty then 15 else l.foldl max 0

/-- Valid sensors of a die. -/
def validCount (v : Vector Sensor 16) : Nat := (v.toList.filter Sensor.valid).length

/-- LIMCEIL (R334, R340, R343): OP8 under the fallback table or with fewer than 12 valid sensors, the droop burst's ceiling. -/
def Die.limitOf (d : Die) (fallback : Bool) : Nat :=
  min (if fallback ∨ validCount d.sensors < 12 then 8 else 15) (d.lim.getD 15)

/-- A die's ceilings and target set (R334). -/
def Die.retarget (d : Die) (pref capceil : Nat) (follow fallback brk : Bool) : Die :=
  let fol := if follow then d.follow.getD 15 else 15
  let lim := d.limitOf fallback
  { d with pref := pref, capceil := capceil, folceil := fol, limceil := lim
           target := if brk then 0 else min pref (min capceil (min d.thceil (min fol lim))) }

/-- A die at another point, where it takes the margin in use (R332, R335). -/
def Die.toPoint (d : Die) (p hours : Nat) : Die := { d with op := p, rising := false, margin := d.marginAt hours }

/-- A loop tick's step of a die towards its target (R335): down at once; up, the voltage first, at most once in 10 ticks. -/
def Die.tick (d : Die) (hours : Nat) : Die :=
  let d1 := { d with since := min 10 (d.since + 1) }
  if d1.target < d1.op then d1.toPoint (d1.op - 1) hours
  else if d1.op < d1.target then { d1 with rising := true }
  else { d1 with rising := false }

/-! ### The estimate loop -/

/-- The calibrated estimate in watts of a raw one (R336). -/
def Dmp.calibrated (d : Dmp) (raw : Nat) : Int := (d.gain * raw : Nat) / 16384 + d.offset

/-- The raw estimate (R336) with each powered die's part rated at the point `at'` gives it, and the part of memory, links, hub die
and conversion loss. (log 8, DESIGN CHOICE) -/
def Dmp.rawAt (d : Dmp) (seq : Nat) (at' : Die → Nat) : Nat :=
  (d.dies.toList.zipIdx.map (fun x => if x.1.powered then Config.rawPower x.1.weights (seq + x.2) (at' x.1) else 0)).sum +
    Config.rawPower [] (seq + 8) 0

/-- CAPCEIL (R337): the highest point at which the calibrated estimate, with the activity of this tick rated at that point on
every die, does not exceed the cap. (log 8, DESIGN CHOICE) -/
def Dmp.capCeil (d : Dmp) (seq : Nat) : Nat :=
  ((List.range 16).filter (fun n => d.calibrated (d.rawAt seq (fun _ => n)) ≤ (d.cap : Int))).getLast?.getD 0

/-- Issue gating (R337): k falls each tick while OP0 does not meet the cap, and rises every 10 ticks while the estimate is 3 %
below it. -/
def Dmp.gating (d : Dmp) (ceil : Nat) (est : Int) : Dmp :=
  if ceil = 0 ∧ (d.cap : Int) < est then { d with gate := max 1 (d.gate - 1), gateWait := 0 }
  else if est * 100 ≤ (d.cap * 97 : Nat) then
    if 9 ≤ d.gateWait then { d with gate := min 16 (d.gate + 1), gateWait := 0 } else { d with gateWait := d.gateWait + 1 }
  else { d with gateWait := 0 }

/-- The estimate of a tick, held where the mean over each 1 ms does not exceed CAPW (R338). (log 8, DESIGN CHOICE) -/
def Dmp.held (d : Dmp) (est : Int) : Int :=
  let rest := d.ests.take 999
  min est (max 0 (d.cap * (rest.length + 1) - rest.sum))

/-- Mean of a list of integers, not below 0 (ESTW). -/
def meanInt (l : List Int) : Nat := if l.isEmpty then 0 else (l.sum / (l.length : Int)).toNat

/-- One tick of the estimate loop (R334, R336, R337). (log 8, DESIGN CHOICE) -/
def State.loopTick (s : State) : State :=
  let seq := s.core.seq
  let d := s.dmp
  let raw := d.rawAt seq Die.op
  let est := d.held (d.calibrated raw)
  let ceil := d.capCeil seq
  let ests := (est :: d.ests).take 1000
  let d1 := d.gating ceil est
  let dies := d1.dies.zipIdx.map (fun x =>
    if x.1.powered then (x.1.retarget (s.core.preference x.2) ceil s.nym.follow d.vtfall d.pwrbrk).tick d.hours else x.1)
  (s.onCore (fun c => { c with seq := c.seq + 9 })).onDmp (fun _ =>
    { d1 with dies := dies, ests := ests, estw := meanInt ests % 65536, rawSum := d1.rawSum + raw, rawCount := d1.rawCount + 1 })

/-- ESTIMATE_LOOP_TICK (R334 to R337, R339). -/
def execEstimateLoopTick (s : State) : Host.Outcome State Fault Refusal := answer (if s.damperUp then s.loopTick else s)

/-- VOLTAGE_SETTLED (R335): the rail has reached the higher point's voltage, and CCLK rises; not before 10 ticks after the
die's last rise. -/
def execVoltageSettled (d : Fin 8) (s : State) : Host.Outcome State Fault Refusal :=
  answer (
    let x := s.dmp.die d.val
    if x.powered ∧ x.rising ∧ x.op < x.target ∧ x.since = 10 then
      s.onDmp (fun m => m.modDie d.val (fun y => { y.toPoint (y.op + 1) m.hours with since := 0 }))
    else s)

/-! ### The measured loop -/

/-- Mean of measured power in watts, and of input voltage in units of 10 mV, over a window. -/
def windowMeans (w : List (Nat × Nat × Nat)) : Nat × Nat :=
  let n := w.length
  if n = 0 then (0, 0) else ((w.map (fun x => x.1 * x.2.1)).sum / (1000000 * n), (w.map Prod.fst).sum / (10 * n))

/-- MEASURED_SAMPLE (R336): a sample of voltage and current paired with the raw estimate of the same time. -/
def execMeasuredSample (mv : Nat) (ma : Nat) (s : State) : Host.Outcome State Fault Refusal :=
  answer (if s.damperUp then
      s.onDmp (fun d =>
        let w := ((mv, ma, if d.rawCount = 0 then 0 else d.rawSum / d.rawCount) :: d.window).take 1000
        let m := windowMeans w
        { d with window := w, measw := m.1 % 65536, vin := m.2 % 65536, rawSum := 0, rawCount := 0 })
    else s)

/-- A quotient brought to an integer: the spec does not state the rounding, which is free (log 10, DESIGN CHOICE). (log 9, DESIGN CHOICE) -/
def freeRound (seq : Nat) (num den : Int) : Int :=
  if num % den = 0 then num / den else num / den + (if Config.choice seq then 1 else 0)

/-- The line fitted by least squares through the window's pairs of raw estimate and measured power (R336): GAIN as
numerator and denominator, and OFFSET in watts likewise. -/
def Dmp.fit (d : Dmp) : (Int × Int) × (Int × Int) :=
  let xs := d.window.map (fun w => (w.2.2 : Int))
  let ys := d.window.map (fun w => ((w.1 * w.2.1 : Nat) : Int))
  let n : Int := d.window.length
  let sx := xs.sum
  let sy := ys.sum
  let den := n * (xs.map (fun x => x * x)).sum - sx * sx
  let span := xs.foldl max 0 - xs.foldl min (xs.headD 0)
  let g : Int × Int := if span < 100 then ((d.gain : Int), 16384)
    else (n * (List.zipWith (· * ·) xs ys).sum - sx * sy, den * 1000000)
  (g, (sy * g.2 - g.1 * sx * 1000000, n * g.2 * 1000000))

/-- CALIBRATION_FIT (R336): an applied fit moves each value a quarter of the way; one out of bounds is not applied. (log 9, DESIGN CHOICE) -/
def execCalibrationFit (s : State) : Host.Outcome State Fault Refusal :=
  answer (
    if ¬ s.damperUp ∨ s.dmp.window.isEmpty then s else
    let f := s.dmp.fit
    let g := f.1
    let o := f.2
    let bad := decide (g.1 * 10 < g.2 * 8 ∨ g.2 * 125 < g.1 * 100 ∨ 150 * o.2 < o.1 ∨ o.1 < -150 * o.2)
    if bad then
      ((s.onDmp (fun d => { d with calhold := true })).noteFault 0x0902).telEvent 5 (leBytes 2 0x0902)
    else
      let q := s.core.seq
      let gain := (s.dmp.gain : Int) + freeRound q (g.1 * 16384 - (s.dmp.gain : Int) * g.2) (4 * g.2)
      let off := s.dmp.offset + freeRound (q + 1) (o.1 - s.dmp.offset * o.2) (4 * o.2)
      (s.onCore (fun c => { c with seq := c.seq + 2 })).onDmp (fun d => { d with calhold := false, gain := gain.toNat, offset := off }))

/-- Whether measured power over the last 100 ms exceeds the cap by more than 5 % (R338). -/
def Dmp.excess (d : Dmp) : Bool :=
  decide (d.cap * 105 * 10000 * d.window.length < (d.window.map (fun x => x.1 * x.2.1)).sum)

/-- POWER_EXCESS_ALERT (R338, R347). -/
def execPowerExcessAlert (s : State) : Host.Outcome State Fault Refusal :=
  answer (if s.damperUp ∧ s.dmp.excess then ((s.noteFault 0x0904).telEvent 5 (leBytes 2 0x0904)).alert 1 else s)

/-- POWER_EXCESS_PERSISTENT (R338, R396): bivouac mode with cause 2. -/
def execPowerExcessPersistent (s : State) : Host.Outcome State Fault Refusal :=
  answer (if s.damperUp ∧ s.dmp.excess then s.bivouac 2 else s)

/-! ### Droop -/

/-- DROOP_DETECTED (R340): the clock is stretched and the event counted; `count` is the events within the last 1 ms, and more
than 1,000 lower LIMCEIL. -/
def execDroopDetected (d : Fin 8) (count : Nat) (s : State) : Host.Outcome State Fault Refusal :=
  answer (if (s.dmp.die d.val).powered then
      s.onDmp (fun m => m.modDie d.val (fun x =>
        { x with stretched := true, droops := satInc x.droops 0xFFFF, lim := if 1000 < count then some (x.op - 1) else x.lim }))
    else s)

/-- DROOP_RECOVERED (R340). -/
def execDroopRecovered (d : Fin 8) (s : State) : Host.Outcome State Fault Refusal :=
  answer (s.onDmp (fun m => m.modDie d.val (fun x => { x with stretched := false })))

/-- DROOP_LIMIT_EXPIRY (R340). -/
def execDroopLimitExpiry (d : Fin 8) (s : State) : Host.Outcome State Fault Refusal :=
  answer (s.onDmp (fun m => m.modDie d.val (fun x => { x with lim := none })))

/-! ### Thermal control -/

/-- The middle element of a list of fifteen readings. (log 39, DEDUCED) -/
def medianOf (l : List Int) : Int :=
  let le := fun (a b : Int) => decide (a ≤ b)
  (sortBy le l).getD (l.length / 2) 0

/-- A sensor after a sample (R343), with the median of its die's other sensors; all in half degrees. (log 39, DEDUCED) -/
def Sensor.sample (x : Sensor) (reading median : Int) : Sensor :=
  let out := decide (reading < -80 ∨ 300 < reading)
  let far := decide (40 < reading - median ∨ reading - median < -40)
  let differ := if far then min 10 (x.differ + 1) else 0
  let agree := if out ∨ far then 0 else min 10 (x.agree + 1)
  { x with reading := reading, differ := differ, agree := agree
           valid := if out ∨ differ = 10 then false else if x.valid then true else agree = 10 }

/-- A die's sensors after a sample; the readings are in degrees, to which trims apply (R384). (log 39, DEDUCED) -/
def sampleAll (v : Vector Sensor 16) (readings : List Int) : Vector Sensor 16 :=
  let rs := v.toList.zipIdx.map (fun x => 2 * readings.getD x.2 25 + x.1.trim)
  v.zipIdx.map (fun x => x.1.sample (rs.getD x.2 50) (medianOf (rs.eraseIdx x.2)))

/-- The record that fewer than 12 sensors of a die are valid, when the count first falls so (R343, R347). -/
def State.noteSensors (s : State) (old new : Vector Sensor 16) : State :=
  if 12 ≤ validCount old ∧ validCount new < 12 then (s.noteFault 0x0903).telEvent 5 (leBytes 2 0x0903) else s

/-- SENSOR_SAMPLE (R342, R343): a compute die's sensors and its HBM stack's temperature, or the hub die's sensors (die 8). -/
def execSensorSample (die : Fin 9) (readings : List Int) (hbm : Int) (s : State) : Host.Outcome State Fault Refusal :=
  answer (
    if ¬ s.damperUp then s
    else if die.val = 8 then
      let new := sampleAll s.dmp.hub readings
      (s.onDmp (fun d => { d with hub := new })).noteSensors s.dmp.hub new
    else
      let x := s.dmp.die die.val
      if ¬ x.powered then s else
      let new := sampleAll x.sensors readings
      let t := hottest new (some (2 * hbm))
      (s.onDmp (fun d => d.modDie die.val (fun y =>
        { y with sensors := new, temp := t, hbm := hbm, tj := encInt 8 (t / 2), nsens := validCount new }))).noteSensors x.sensors new)

/-- THERMAL_CEILING_STEP (R342): a step of a die's thermal ceiling, as its temperature and the hub die's say. -/
def execThermalCeilingStep (d : Fin 8) (s : State) : Host.Outcome State Fault Refusal :=
  answer (
    let x := s.dmp.die d.val
    let set := fun (n : Nat) => s.onDmp (fun m => m.modDie d.val (fun y => { y with thceil := n }))
    if ¬ x.powered then s
    else if 190 ≤ x.temp ∨ 190 ≤ hottest s.dmp.hub none then set (x.thceil - 1)
    else if x.temp < 186 then set (min 15 (x.thceil + 1))
    else s)

/-- THERMAL_PERSISTENT (R342, R396): bivouac mode with cause 1. -/
def execThermalPersistent (d : Fin 8) (s : State) : Host.Outcome State Fault Refusal :=
  answer (
    let x := s.dmp.die d.val
    if x.powered ∧ x.thceil = 0 ∧ 200 ≤ x.temp then s.bivouac 1 else s)

/-- HOURS_TICK (R332, R385, Table 16.6): the hours advance and go to flash; a margin follows its die's next change of point. -/
def execHoursTick (s : State) : Host.Outcome State Fault Refusal :=
  answer (if s.damperUp ∧ 2 ≤ s.sec.stage ∧ s.sec.stage ≠ 6 then
      let h := (s.dmp.hours + 1) % 2 ^ 32
      let s1 := s.onCore (fun c => { c with jnl := { c.jnl with wear := c.jnl.wear.write 8 } })
      { s1.onDmp (fun d => { d with hours := h }) with flash := { s1.flash with hours := h } }
    else s)

/-! ### The follow-peer ceiling -/

/-- Whether the module waits on members of an operation in flight. -/
def Core.waitsOnMembers (c : Core) : Bool := c.ctxs.any (fun k => k.2.inFlight)

/-- FOLLOW_CEILING (R286): the module has waited 100 µs on a member that advertises point `op`. -/
def execFollowCeiling (op : Fin 16) (s : State) : Host.Outcome State Fault Refusal :=
  answer (if s.nym.follow ∧ s.core.waitsOnMembers then
      s.onDmp (fun d => d.allDies (fun x => { x with follow := some (min 15 (op.val + s.nym.fmargin)) }))
    else s)

/-- FOLLOW_RELEASE (R286): 10 ms after the last such wait. -/
def execFollowRelease (s : State) : Host.Outcome State Fault Refusal :=
  answer (s.onDmp (fun d => d.allDies (fun x => { x with follow := none })))

end Sys2Proof.Machine
end

