-- ==== Sys2Proof/Machine/Video.lean ====
section
/-!
DEFINITION. The video engines (17): streams, submits, frames and their results. What a codec makes of samples and bits is its
specification's: functions with no body, of what R350 lets them depend on (log 26, DESIGN CHOICE).
-/
namespace Sys2Proof.Machine

/-- A video engine. -/
def State.engine (s : State) (e : Nat) : Engine := s.vid.toList.getD e {}
/-- A video engine changed. -/
def State.modEngine (s : State) (e : Nat) (f : Engine → Engine) : State := { s with vid := s.vid.setIfInBounds e (f (s.engine e)) }

/-! ### Accesses of the engines -/

/-- Why an engine may not write memory for a partition (R24, R99, R211), 0 where it may. (log 40, DEDUCED) -/
def State.vidCheck (s : State) (part a n : Nat) : Nat :=
  let code := s.core.access part (s.core.partPantry part) a n true
  if code ≠ 0 then code else if s.core.hitsCode a n then 0x0202 else if s.core.storeRefused a n then 0x0502 else 0

/-- Bytes an engine writes for a partition, where it may. -/
def State.vidStore (s : State) (part a : Nat) (bs : List Byte) : State :=
  if s.vidCheck part a bs.length = 0 then s.onCore (fun c => c.store a bs) else s

/-- Memory an engine writes for a partition with bytes that the spec does not state, where it may. -/
def State.vidSpoil (s : State) (part a n : Nat) : State :=
  if s.vidCheck part a n = 0 then s.onCore (fun c => c.spoil a n) else s

/-- Bytes an engine reads for a partition (R24, R99, R262): the state after the checks, and the bytes or the fault. (log 40, DEDUCED) -/
def State.vidRead (s : State) (part a n : Nat) : State × Except (Nat × List Byte) (List Byte) :=
  let code := s.core.access part (s.core.partPantry part) a n false
  if code ≠ 0 then (s, .error (code, [])) else
  match s.readMem a n with
  | (s1, .error d) => (s1, .error (0x0210, d))
  | (s1, .ok bs) => (s1, .ok bs)

/-- Whether an address of a flag an engine polls or writes is one in this module's pantry (R20, R351, R354). (log 40, DEDUCED) -/
def State.vidFlag (s : State) (a : Nat) : Bool := flagAddr a && ownAddr s.nym.devnum a

/-! ### Frame records -/

/-- Whether a row of the second plane shares a byte with bytes `x` to `x + n − 1`: the first row that ends beyond `x` decides. -/
def rowMeets (t : Td) (l x n : Nat) : Bool :=
  let j := if x < t.base + l then 0 else if t.s1 = 0 then t.e1 else (x - t.base - l) / t.s1 + 1
  decide (j < t.e1 ∧ t.base + j * t.s1 < x + n)

/-- Whether two planes overlap (R351). -/
def planesMeet (a b : Td) : Bool :=
  let la := rowLen a.fmt a.e0
  let lb := rowLen b.fmt b.e0
  let b1 := { b with base := localOf b.base }
  (List.range a.e1).any (fun i => rowMeets b1 lb (localOf a.base + i * a.s1) la)

/-- Bytes from a plane's first to its last. -/
def Td.extent (t : Td) : Nat := if t.e1 = 0 ∨ t.e0 = 0 then 0 else (t.e1 - 1) * t.s1 + rowLen t.fmt t.e0

/-- Whether a plane descriptor is as R351 requires, with extents `w` by `h`. -/
def State.planeOk (s : State) (part depth : Nat) (dec : Bool) (d w h : Nat) : Bool :=
  let t := tdOf d
  descFault d { fmt := fun f => f == (if depth = 8 then 0xC else 0xA), scaled := false, dest := dec } true == 0 &&
  t.rank == 2 && bits d 90 2 == 0 && t.e0 == w && t.e1 == h && t.base % 64 == 0 && t.s1 % 64 == 0 &&
  (s.local? t.base).any (fun l => (areaOf l).1 == .hbm && s.core.access part [] l t.extent true == 0)

/-- Whether picture sizes are within R348's limits for a direction. -/
def sizeOk (dec : Bool) (w h : Nat) : Bool :=
  if dec then decide (16 ≤ w ∧ w ≤ 8192 ∧ 16 ≤ h ∧ h ≤ 4352 ∧ w * h ≤ 35651584)
  else decide (16 ≤ w ∧ w ≤ 7680 ∧ w % 16 = 0 ∧ 16 ≤ h ∧ h ≤ 4320 ∧ h % 2 = 0)

/-- Extents of the chroma planes (R351). (log 40, DEDUCED) -/
def chromaSize (chroma w h : Nat) : Nat × Nat :=
  match chroma with
  | 1 => (ceilDiv w 2, ceilDiv h 2)
  | 2 => (ceilDiv w 2, h)
  | _ => (w, h)

/-- Whether 256 bytes are a frame record for a direction (R351). -/
def State.frameOk (s : State) (part : Nat) (dec : Bool) (b : List Byte) : Bool :=
  let depth := fld b 2 1
  let chroma := fld b 3 1
  let w := fld b 4 2
  let h := fld b 6 2
  let c := chromaSize chroma w h
  let y := fld b 0x40 64
  let u := fld b 0x80 64
  let v := fld b 0xC0 64
  fld b 0 2 == 1 && (depth == 8 || depth == 10) && chroma ≤ 3 && sizeOk dec w h && zeroAt b 0x14 44 &&
  (if dec then fld b 8 8 == 0 || s.vidFlag (fld b 8 8) else zeroAt b 8 12) &&
  s.planeOk part depth dec y w h &&
  (if chroma = 0 then u == 0 && v == 0
   else s.planeOk part depth dec u c.1 c.2 && s.planeOk part depth dec v c.1 c.2 &&
     !planesMeet (tdOf y) (tdOf u) && !planesMeet (tdOf y) (tdOf v) && !planesMeet (tdOf u) (tdOf v))

/-- A frame record read and checked: its bytes, or its fault with its DETAIL. -/
def State.frameAt (s : State) (part : Nat) (dec : Bool) (a : Nat) : State × Except (Nat × List Byte) (List Byte) :=
  if a % 64 ≠ 0 then (s, .error (0x0A03, [])) else
  match s.fetch part a 256 with
  | (s1, .ok b) => (s1, if s1.frameOk part dec b then .ok b else .error (0x0A03, []))
  | (s1, .error (c, d)) => (s1, .error (if c = 0x0210 then (c, d) else (0x0A03, [])))

/-! ### Streams -/

/-- Whether a block's codec, profile, level, tier, depth and chroma are among those of Table 17.1. (log 40, DEDUCED) -/
def codecOk (dec : Bool) (b : List Byte) : Bool :=
  let profile := fld b 4 1
  let level := fld b 5 1
  let tier := fld b 6 1
  let depth := fld b 7 1
  let chroma := fld b 0xC 1
  if fld b 3 1 = 0 then
    decide (level ≤ (if dec then 183 else 180)) && tier ≤ 1 &&
    (match profile with
     | 1 => depth == 8 && chroma == 1
     | 2 => (depth == 8 || depth == 10) && chroma == 1
     | 4 => dec && (depth == 8 || depth == 10) && chroma ≤ 3
     | _ => false)
  else fld b 3 1 == 1 && profile == 0 && decide (level ≤ (if dec then 17 else 16)) && tier == 0 && (depth == 8 || depth == 10) && chroma ≤ 1

/-- The largest target bit rate of a level in kbit/s: MaxBR of H.265's tables for the Main and the High tier, and MainMbps of AV1's
(log 89, PRESUMED). -/
def levelKbps (codec level tier : Nat) : Nat :=
  let best := fun (l : List (Nat × Nat)) => ((l.filter (fun e => e.1 ≤ level)).map Prod.snd).foldl max 0
  if codec = 1 then best [(0, 1500), (1, 3000), (4, 6000), (5, 10000), (8, 12000), (9, 20000), (12, 30000), (13, 40000), (14, 60000), (16, 60000),
    (17, 100000)]
  else if tier = 1 then best [(30, 128), (60, 1500), (63, 3000), (90, 6000), (93, 10000), (120, 30000), (123, 50000), (150, 100000),
    (153, 160000), (156, 240000), (180, 240000), (183, 480000)]
  else best [(30, 128), (60, 1500), (63, 3000), (90, 6000), (93, 10000), (120, 12000), (123, 20000), (150, 25000), (153, 40000), (156, 60000),
    (180, 60000), (183, 120000)]

/-- Whether 128 bytes are a stream parameter block (Table 17.3). (log 40, DEDUCED; log 89, PRESUMED) -/
def State.blockOk (s : State) (part : Nat) (b : List Byte) : Bool :=
  let dec := fld b 2 1 == 0
  let state := fld b 0x10 8
  fld b 0 2 == 1 && fld b 2 1 ≤ 1 && codecOk dec b && sizeOk dec (fld b 8 2) (fld b 0xA 2) && zeroAt b 0xE 2 && zeroAt b 0x30 80 &&
  state % 4096 == 0 && (s.local? state).any (fun l => (areaOf l).1 == .hbm && s.core.access part [] l 65536 true == 0) &&
  fld b 0x23 1 ≤ 1 && fld b 0x2E 1 ≤ 1 && fld b 0x2F 1 ≤ 1 &&
  (if dec then 2 ≤ fld b 0xD 1 && fld b 0xD 1 ≤ 32
   else fld b 0xD 1 == 0 && fld b 0x18 8 == 0 && fld b 0x20 1 ≤ 2 && 1 ≤ fld b 0x22 1 && fld b 0x22 1 ≤ 68 &&
     fld b 0x28 2 != 0 && fld b 0x2A 2 != 0 && (fld b 0x20 1 == 0 || fld b 0x24 4 ≤ levelKbps (fld b 3 1) (fld b 5 1) (fld b 6 1)))

/-- The pool of a decode block: its addresses with their records, or the fault of a record with its DETAIL. -/
def State.poolOf (s : State) (part : Nat) (b : List Byte) : State × Except (Nat × List Byte) (List (Nat × List Byte)) :=
  let n := fld b 0xD 1
  if n = 0 then (s, .ok []) else
  match s.fetch part (fld b 0x18 8) (8 * n) with
  | (s1, .error (c, d)) => (s1, .error (if c = 0x0210 then (c, d) else (0x0A03, [])))
  | (s1, .ok bs) =>
    (wordsOf 8 n bs).foldl (fun (r : State × Except (Nat × List Byte) (List (Nat × List Byte))) a =>
      match r.2 with
      | .error _ => r
      | .ok l => let q := r.1.frameAt part true a
                 (q.1, q.2.map (fun b => l ++ [(a, b)]))) (s1, .ok [])

/-- A stream of an engine closed: its outstanding submits complete with 0x0A06 (R353). -/
def State.closeStream (s : State) (e i : Nat) (t : Stream) : State :=
  let g := s.engine e
  let mine := g.run.filter (fun r => r.sub.stream == i)
  let qs := (mine.map (fun r => r.sub.cmd)).toList ++ t.subs.map Submit.cmd
  (s.onCore (fun c => c.finishCmds qs 0xFFFF t.part 0x0A06 0)).modEngine e (fun g =>
    { g with streams := eraseKey i g.streams, run := if mine.isSome then none else g.run, cur := if mine.isSome then 0 else g.cur
             loaded := if g.loaded = some i then none else g.loaded })

/-- Command 0x0030 (R353): a stream opened or closed. (log 40, DEDUCED) -/
def State.streamCmd (s : State) (h : HostCmd) : State :=
  s.command h 0x30 none (fun s =>
    let e := h.arg 1 1
    let part := (s.core.pathPart h.path).getD 0xFFFF
    if 1 < h.arg 0 1 ∨ 3 < e ∨ ¬ h.zero 4 4 ∨ ¬ h.zero 16 32 ∨ (h.arg 0 1 = 0 ∧ ¬ h.zero 2 2) ∨ (h.arg 0 1 = 1 ∧ ¬ h.zero 8 8) then
      no s 0x0801
    else if h.arg 0 1 = 1 then
      let n := h.arg 2 2
      match lookup (s.engine (n / 256)).streams (n % 256) with
      | some t => if t.part = part ∧ n < 1024 ∧ n / 256 = e then (s.closeStream e (n % 256) t, .now 0 0) else no s 0x0A04
      | none => no s 0x0A04
    else if s.core.owner 6 e ≠ part then no s 0x0A02
    else match s.fetch part (h.arg 8 8) 128 with
      | (s1, .error (c, d)) => if c = 0x0210 then no s1 c d else no s1 0x0A01
      | (s1, .ok b) =>
        if ¬ s1.blockOk part b then no s1 0x0A01 else
        match s1.poolOf part b, freeKey (s1.engine e).streams 256 with
        | (s2, .error (c, d)), _ => no s2 c d
        | (s2, .ok _), none => no s2 0x0A05
        | (s2, .ok pool), some i =>
          let t : Stream := { part := part, block := b, pool := pool.map Prod.fst, held := [], refs := [], frames := 0, outseq := 0
                              lastPic := none, subs := [], recs := pool.map Prod.snd }
          (s2.modEngine e (fun g => { g with streams := insertKey i t g.streams }), .now 0 (e * 256 + i)))

/-- VIDEO_STREAM_OPEN (R353). -/
def execVideoStreamOpen (h : HostCmd) (s : State) : Host.Outcome State Fault Refusal := answer (s.streamCmd h)

/-- VIDEO_STREAM_CLOSE (R353). -/
def execVideoStreamClose (h : HostCmd) (s : State) : Host.Outcome State Fault Refusal := answer (s.streamCmd h)

/-! ### Submits -/

/-- Whether a stream decodes. -/
def Stream.dec (t : Stream) : Bool := fld t.block 2 1 == 0

/-- Whether a submit's arguments are in order for its stream (R354). -/
def State.submitOk (s : State) (h : HostCmd) (t : Stream) : Bool :=
  let buf := h.arg 16 8
  let len := h.arg 24 4
  let rel := h.arg 28 4
  let pan := s.core.partPantry t.part
  buf % 64 == 0 && (h.arg 32 8 == 0 || s.vidFlag (h.arg 32 8)) && (s.local? buf).any (fun l => s.core.access t.part pan l len true == 0) &&
  (if t.dec then h.arg 8 8 == 0 && (List.range 32).all (fun i => !bit rel i || t.held.contains i) else rel == 0)

/-- SUBMIT (R354): the submit joins its stream; RELEASE returns pool entries. -/
def execSubmit (h : HostCmd) (s : State) : Host.Outcome State Fault Refusal :=
  answer (s.command h 0x31 none (fun s =>
    let n := h.arg 0 2
    let e := n / 256
    if ¬ h.zero 2 6 then no s 0x0801 else
    match (if n < 1024 then lookup (s.engine e).streams (n % 256) else none) with
    | none => no s 0x0A04
    | some t =>
      if some t.part ≠ s.core.pathPart h.path ∨ ¬ s.submitOk h t then no s 0x0A04 else
      let fr := if t.dec then (s, .ok []) else s.frameAt t.part false (h.arg 8 8)
      match fr with
      | (s1, .error (c, d)) => no s1 c d
      | (s1, .ok b) =>
        if ¬ t.dec ∧ ¬ (fld b 4 2 ≤ fld t.block 8 2 ∧ fld b 6 2 ≤ fld t.block 0xA 2 ∧ fld b 2 1 ≤ fld t.block 7 1 ∧
            fld b 3 1 = fld t.block 0xC 1) then no s1 0x0A03 else
        let sub : Submit :=
          { cmd := h.ref, stream := n % 256, frame := h.arg 8 8, buf := localOf (h.arg 16 8), len := h.arg 24 4, ready := h.arg 32 8
            readyVal := h.arg 40 8, age := none }
        let t1 : Stream := { t with subs := t.subs ++ [sub], held := t.held.filter (fun i => !bit (h.arg 28 4) i) }
        (s1.modEngine e (fun g => { g with streams := insertKey (n % 256) t1 g.streams }), .later)))

/-! ### Frames -/

/-- A submit completed. -/
def State.subDone (s : State) (part : Nat) (b : Submit) (status result : Nat) (detail : List Byte := []) : State :=
  s.onCore (fun c => { c with dones := c.dones ++
    [{ cmd := b.cmd, status := status, result := result, ctx := 0xFFFF, part := part, detail := detail }] })

/-- A submit's READY flag read, as an acquire, when the submit starts (R261, R262, R355). -/
def State.acquire (s : State) (b : Submit) : State × Except (List Byte) Unit :=
  if b.ready = 0 then (s, .ok ()) else
  match s.readMem (localOf b.ready) 8 with
  | (s1, .error d) => (s1, .error d)
  | (s1, .ok _) => (s1, .ok ())

/-- The first submit of a stream whose READY flag cannot be read (R262). -/
def State.spoilt (s : State) (g : Engine) : Option (Nat × Stream × Submit) :=
  g.streams.findSome? (fun t => match t.2.subs with
    | b :: _ => if b.ready ≠ 0 ∧ b.age.isNone ∧ (s.core.peek (localOf b.ready)).isNone then some (t.1, t.2, b) else none
    | [] => none)

/-- The state area of a stream left undefined: what an engine saves there is its own. -/
def State.saveStream (s : State) (t : Stream) : State := s.vidSpoil t.part (localOf (fld t.block 0x10 8)) 65536

/-- The eligible submit an engine starts next: the one that became eligible first (R355). -/
def Engine.next (g : Engine) : Option (Nat × Stream × Submit) :=
  (g.streams.filterMap (fun t => match t.2.subs with
    | b :: _ => b.age.map (fun a => (a, t.1, t.2, b))
    | [] => none)).foldl (fun (r : Option (Nat × Nat × Stream × Submit)) x =>
      match r with
      | some y => if x.1 < y.1 then some x else some y
      | none => some x) none |>.map (fun x => x.2)

/-- The pool entry a decoder chooses (R358). -/
def Stream.freeEntry (t : Stream) : Option Nat :=
  (List.range t.pool.length).find? (fun i => !t.held.contains i && !t.refs.contains i)

/-- The planes of a frame record that it has, with their descriptors and how many luma rows and columns a sample covers. -/
def recordPlanes (b : List Byte) : List (Nat × Td × Nat × Nat) :=
  let chroma := fld b 3 1
  let down := (if chroma = 1 then 2 else 1, if chroma = 1 ∨ chroma = 2 then 2 else 1)
  [(0, tdOf (fld b 0x40 64), 1, 1)] ++
    if chroma = 0 then [] else [(1, tdOf (fld b 0x80 64), down), (2, tdOf (fld b 0xC0 64), down)]

/-- The samples of a row of a plane as its bytes give them; 10-bit ones are signed 16-bit numbers. -/
def rowSamples (depth : Nat) (bs : List Byte) : List Int :=
  if depth = 8 then bs.map (fun b => (b.toNat : Int)) else (wordsOf 2 (bs.length / 2) bs).map (fun w => signed w 16)

/-- A sample limited to 0 to 2^DEPTH − 1 (R352). -/
def clampSample (depth : Nat) (v : Int) : Nat := if v < 0 then 0 else min v.toNat (2 ^ depth - 1)

/-- The samples of a frame record's planes as an encoder takes them (R352), after its size, and whether it limited one; or the fault of
a read. -/
def State.frameData (s : State) (part : Nat) (b : List Byte) : State × Except (Nat × List Byte) (List Nat × Bool) :=
  let depth := fld b 2 1
  let rows := (recordPlanes b).flatMap (fun p => (List.range p.2.1.e1).map (fun i => (localOf p.2.1.base + i * p.2.1.s1, rowLen p.2.1.fmt p.2.1.e0)))
  rows.foldl (fun (r : State × Except (Nat × List Byte) (List Nat × Bool)) row =>
    match r.2 with
    | .error _ => r
    | .ok (l, c) =>
      match r.1.vidRead part row.1 row.2 with
      | (s1, .error e) => (s1, .error e)
      | (s1, .ok bs) =>
        let vs := rowSamples depth bs
        (s1, .ok (l ++ vs.map (clampSample depth), c || vs.any (fun v => (clampSample depth v : Int) != v))))
    (s, .ok ([depth, fld b 3 1, fld b 4 2, fld b 6 2], false))

/-- What a submit's frame is made of, read when it starts (R355; log 26, DESIGN CHOICE): a unit's bytes, or a frame's samples, its
height, and whether one was limited; or the fault of a read. -/
def State.unitData (s : State) (t : Stream) (b : Submit) : State × Except (Nat × List Byte) (List Nat × Nat × Bool) :=
  if t.dec then
    match s.vidRead t.part b.buf b.len with
    | (s1, .error e) => (s1, .error e)
    | (s1, .ok bs) => (s1, .ok (bs.map BitVec.toNat, Config.vidHeader (fld t.block 3 1) (bs.map BitVec.toNat) 1, false))
  else
    match s.frameAt t.part false b.frame with
    | (s1, .error e) => (s1, .error e)
    | (s1, .ok r) =>
      match s1.frameData t.part r with
      | (s2, .error e) => (s2, .error e)
      | (s2, .ok (d, c)) => (s2, .ok (d, fld r 6 2, c))

/-- FRAME_START (R262, R355, R358): the next eligible submit starts, after a switch of streams; a decode with no free pool entry
completes with NOFRAME, and a submit whose flag or data cannot be read with the fault of that read. -/
def execFrameStart (e : Fin 4) (s : State) : Host.Outcome State Fault Refusal :=
  answer (
    let g := s.engine e.val
    let taken := fun (s : State) (i : Nat) (t : Stream) =>
      s.modEngine e.val (fun g => { g with streams := insertKey i { t with subs := t.subs.drop 1 } g.streams })
    if g.run.isSome ∨ s.lan.bivActive then s else
    match s.spoilt g, g.next with
    | some (i, t, b), _ =>
      let q := s.acquire b
      (taken q.1 i t).subDone t.part b 0x0210 0 (match q.2 with | .error d => d | .ok _ => [])
    | none, none => s
    | none, some (i, t, b) =>
      let s1 := taken (s.acquire b).1 i t
      if t.dec ∧ t.freeEntry.isNone then s1.subDone t.part b 0 (0x40 * 2 ^ 32) else
      let s2 := match g.loaded with
        | some j => if j = i then s1 else ((lookup g.streams j).map s1.saveStream).getD s1
        | none => s1
      match s2.unitData t b with
      | (s3, .error (code, d)) => s3.subDone t.part b code 0 d
      | (s3, .ok (data, height, clamped)) =>
        s3.modEngine e.val (fun g =>
          { g with run := some { sub := b, entry := if t.dec then t.freeEntry else none, progress := 0, data := data, height := height, clamped := clamped }
                   loaded := some i, cur := i }))

/-- The frame in progress on an engine, with its stream. -/
def State.running (s : State) (e : Nat) : Option (Running × Stream) :=
  (s.engine e).run.bind (fun r => (lookup (s.engine e).streams r.sub.stream).map (fun t => (r, t)))

/-- The frame in progress on an engine, if it is one of stream `i`. -/
def State.runningOf (s : State) (e i : Nat) : Option (Running × Stream) := (s.running e).filter (fun p => p.1.sub.stream == i)

/-- The frame in progress on an engine changed. -/
def State.setRun (s : State) (e : Nat) (r : Running) : State := s.modEngine e (fun g => { g with run := some r })

/-! ### Encoding -/

/-- Slices or tile rows of a frame (R356): of SLICEROWS rows of 64 luma rows each. -/
def Stream.slices (t : Stream) (height : Nat) : Nat := ceilDiv (ceilDiv height 64) (fld t.block 0x22 1)

/-- SLICE_COMPLETE (R356): slice `slice` of the frame in progress, which is its next: its bytes follow those written, then the progress
word, as a release; a slice that would pass the buffer's end is not written, and no later one is. A row that names another slice
changes nothing. (log 13, DESIGN CHOICE) -/
def execSliceComplete (e : Fin 4) (slice : Nat) (s : State) : Host.Outcome State Fault Refusal :=
  answer (match s.running e.val with
    | some (r, t) =>
      if t.dec ∨ r.full ∨ r.denied ≠ 0 ∨ t.slices r.height ≤ r.slices ∨ slice ≠ r.slices then s else
      let bytes := Config.vidCode t.block (t.fed ++ [r.data]) r.slices
      let n := r.progress + bytes.length
      let code := s.vidCheck t.part r.sub.buf (64 + n)
      if r.sub.len < 64 + n then s.setRun e.val { r with full := true }
      else if code ≠ 0 then s.setRun e.val { r with denied := code }
      else
        let s1 := (s.vidStore t.part (r.sub.buf + 64 + r.progress) bytes).vidStore t.part r.sub.buf (leBytes 8 n)
        let s2 := s1.setRun e.val { r with progress := n, slices := r.slices + 1 }
        if bit (fld t.block 0x23 1) 0 then
          match r.sub.cmd.path with
          | .roce qp => s2.unsolicited qp 0xFFFD 0 ((e.val * 256 + r.sub.stream) * 2 ^ 32 + t.frames) n
          | _ => s2
        else s2
    | none => s)

/-- The end of a frame on an engine: no frame is in progress, and its stream is as given. -/
def State.endFrame (s : State) (e : Nat) (r : Running) (t : Stream) : State :=
  s.modEngine e (fun g => { g with run := none, cur := 0, streams := insertKey r.sub.stream t g.streams })

/-- An encoded frame ended (R356, R359): bytes, frame number, picture type and CLAMPED; or an output buffer too small for its
slices, or a write that was refused, with the stream as it was. -/
def State.encodeDone (s : State) (e : Nat) (r : Running) (t : Stream) : State :=
  if r.denied ≠ 0 then (s.endFrame e r t).subDone t.part r.sub r.denied 0
  else if r.full then
    let s1 := if 8 ≤ r.sub.len then s.vidStore t.part r.sub.buf (List.replicate 8 255) else s
    (s1.endFrame e r t).subDone t.part r.sub 0x0A07 0
  else if r.slices < t.slices r.height then s
  else
    let gop := fld t.block 0x2C 2
    let first := t.frames = 0 ∨ (gop ≠ 0 ∧ t.frames % gop = 0)
    let res := r.progress + t.frames % 65536 * 2 ^ 32 + flag (!first) 48 + flag r.clamped 49
    (s.endFrame e r { t with frames := t.frames + 1, fed := t.fed ++ [r.data] }).subDone t.part r.sub 0 res

/-! ### Decoding -/

/-- Whether a unit's headers exceed its stream's limits or Table 17.1 (R360). (log 26, DESIGN CHOICE) -/
def Stream.exceeds (t : Stream) (data : List Nat) : Bool :=
  let h := Config.vidHeader (fld t.block 3 1) data
  fld t.block 8 2 < h 0 || fld t.block 0xA 2 < h 1 || fld t.block 7 1 < h 2 || fld t.block 0xC 1 < h 3 || !sizeOk true (h 0) (h 1) ||
    !(h 2 == 8 || h 2 == 10)

/-- The CTU or superblock that a luma sample lies in, in raster order. -/
def ctuAt (w side y x : Nat) : Nat := y / side * ceilDiv w side + x / side

/-- What a decoded picture's rows are written from (R350, R360): the unit's headers, whether a CTU is concealed, and the value a sample of
it takes. -/
structure Picture where
  w : Nat
  h : Nat
  side : Nat
  concealed : Nat → Nat → Bool

/-- The picture of a frame in progress; `from` is the first luma row that the watchdog conceals. -/
def Stream.picture (t : Stream) (data : List Nat) (late : Nat) : Picture :=
  let h := Config.vidHeader (fld t.block 3 1) data
  let side := max 1 (h 4)
  { w := h 0, h := h 1, side := side
    concealed := fun y x => decide (late ≤ y) || Config.vidDamaged t.block (t.fed ++ [data]) (ctuAt (h 0) side y x) }

/-- One row of a plane of the pool entry being decoded, written (R350, R357, R360): decoded samples, and in concealed CTUs the co-located
samples of the picture last decoded, or 2^(DEPTH − 1). -/
def State.decodeRow (s : State) (t : Stream) (data : List Nat) (pic : Picture) (depth : Nat) (p : Nat × Td × Nat × Nat) (last : Option Td) (i : Nat) :
    State :=
  let (plane, d, v, hz) := p
  let n := min d.e0 (ceilDiv pic.w hz)
  let size := if depth = 8 then 1 else 2
  let (s1, old) := match last with
    | some l =>
      if ¬ (i < l.e1 ∧ n ≤ l.e0) then (s, []) else
      (match s.vidRead t.part (localOf l.base + i * l.s1) (size * n) with
      | (s1, .ok bs) => (s1, (rowSamples depth bs).map (clampSample depth))
      | (s1, .error _) => (s1, []))
    | none => (s, [])
  let codes := (List.range n).map (fun j =>
    if pic.concealed (i * v) (j * hz) then old.getD j (2 ^ (depth - 1))
    else Config.vidSample t.block (t.fed ++ [data]) plane i j % 2 ^ depth)
  s1.vidStore t.part (localOf d.base + i * d.s1) (codes.flatMap (leBytes size))

/-- Luma rows `lo` to `hi − 1`, and the chroma rows they cover, of pool entry `n` written. -/
def State.decodeRows (s : State) (t : Stream) (n : Nat) (data : List Nat) (pic : Picture) (lo hi : Nat) : State :=
  let b := t.recs.getD n []
  let last := t.lastPic.map (fun m => recordPlanes (t.recs.getD m []))
  (recordPlanes b).foldl (fun (a : State) p =>
    let v := p.2.2.1
    ((List.range (min p.2.1.e1 (ceilDiv hi v))).filter (fun i => ceilDiv lo v ≤ i)).foldl (fun (a : State) i =>
      a.decodeRow t data pic (fld b 2 1) p (last.bind (fun l => (l.find? (fun q => q.1 == p.1)).map (fun q => q.2.1))) i) a) s

/-- Why the engine may not write the planes of a pool entry, 0 where it may (R24). (log 40, DEDUCED) -/
def State.planesCheck (s : State) (t : Stream) (n : Nat) : Nat :=
  (((recordPlanes (t.recs.getD n [])).map (fun p => s.vidCheck t.part (localOf p.2.1.base) p.2.1.extent)).find? (· != 0)).getD 0

/-- DECODE_ROW_COMPLETE (R357): luma rows completed, a whole number of CTU or superblock rows or all of the picture, are written and their
count goes, as a release, to PROG of the picture's frame record. -/
def execDecodeRowComplete (e : Fin 4) (rows : Nat) (s : State) : Host.Outcome State Fault Refusal :=
  answer (match s.running e.val with
    | some (r, t) =>
      match r.entry with
      | some n =>
        let pic := t.picture r.data r.height
        if rows ≤ r.progress ∨ r.height < rows ∨ (rows % pic.side ≠ 0 ∧ rows ≠ r.height) ∨ r.data = [] ∨ t.exceeds r.data ∨ r.denied ≠ 0 then s else
        let prog := fld (t.recs.getD n []) 8 8
        let c1 := s.planesCheck t n
        let code := if c1 ≠ 0 then c1 else if prog = 0 then 0 else s.vidCheck t.part (localOf prog) 8
        if code ≠ 0 then s.setRun e.val { r with denied := code } else
        let s1 := (s.decodeRows t n r.data pic r.progress rows).setRun e.val { r with progress := rows }
        if prog = 0 then s1 else s1.vidStore t.part (localOf prog) (leBytes 8 rows)
      | none => s
    | none => s)

/-- Pictures output: each gets its sequence number in its record and is held by the host (R351, R358, R359). -/
def State.outputs (s : State) (t : Stream) (l : List Nat) : State × Stream :=
  l.foldl (fun (q : State × Stream) i =>
    if i < q.2.pool.length ∧ ¬ q.2.held.contains i then
      (q.1.vidStore q.2.part (localOf (q.2.pool.getD i 0) + 0x10) (leBytes 4 q.2.outseq),
       { q.2 with held := q.2.held ++ [i], outseq := (q.2.outseq + 1) % 2 ^ 32 })
    else q) (s, t)

/-- The pool entry that holds a picture, by its number. -/
def Stream.entryOf (t : Stream) (num : Nat) : Option Nat := (t.pics.find? (fun p => p.2 == num)).map Prod.fst

/-- A decoded unit ended (R358 to R360), at its own end or, `late`, at the watchdog bound, when its unfinished rows are concealed: an empty
unit or one beyond the stream's limits writes nothing; any other leaves its picture, DSTAT, the count of what was concealed, and the
pictures output. -/
def State.decodeDone (s : State) (e n : Nat) (r : Running) (t : Stream) (late : Bool) : State :=
  let wdog := flag late 3
  if r.data = [] then (s.endFrame e r t).subDone t.part r.sub 0 ((0x20 + wdog) * 2 ^ 32)
  else if t.exceeds r.data then
    (s.endFrame e r { t with fed := t.fed ++ [r.data] }).subDone t.part r.sub 0 ((4 + wdog) * 2 ^ 32)
  else
    let code := if r.denied ≠ 0 then r.denied else s.planesCheck t n
    if code ≠ 0 then (s.endFrame e r t).subDone t.part r.sub code 0 else
    let units := t.fed ++ [r.data]
    let pic := t.picture r.data (if late then r.progress else r.height)
    let s1 := s.decodeRows t n r.data pic r.progress r.height
    let bad := ((List.range (ceilDiv pic.h pic.side)).flatMap (fun y => (List.range (ceilDiv pic.w pic.side)).map (fun x => (y, x)))).countP
      (fun q => pic.concealed (q.1 * pic.side) (q.2 * pic.side))
    let broken := (List.range (ceilDiv pic.h pic.side * ceilDiv pic.w pic.side)).any (Config.vidDamaged t.block units)
    let dstat := flag broken 0 + (Config.vidNotes t.block units &&& 0x32) + wdog
    let pics := (n, t.frames) :: t.pics.filter (fun p => p.1 != n)
    let t1 := { t with frames := t.frames + 1, lastPic := some n, fed := units, pics := pics }
    let t2 := { t1 with refs := (Config.vidNeeds t.block units).filterMap t1.entryOf }
    let q := s1.outputs t2 ((Config.vidOutputs t.block units).filterMap t2.entryOf)
    let mask := (List.range 32).foldl (fun m i => m + flag (q.2.held.contains i && !t.held.contains i) i) 0
    (q.1.endFrame e r q.2).subDone t.part r.sub 0 (mask + dstat * 2 ^ 32 + min bad 0xFFFFFF * 2 ^ 40)

/-- FRAME_COMPLETE (R356, R358 to R360): the end of the frame in progress, one of stream `stream`; a row that names another stream changes
nothing. (log 13, DESIGN CHOICE) -/
def execFrameComplete (e : Fin 4) (stream : Fin 256) (s : State) : Host.Outcome State Fault Refusal :=
  answer (match s.runningOf e.val stream.val with
    | some (x, t) =>
      match x.entry with
      | some n => s.decodeDone e.val n x t false
      | none => s.encodeDone e.val x t
    | none => s)

/-- VIDEO_WATCHDOG (R360, R361): a decode unit of stream `stream` ended at the watchdog bound; its unfinished rows are concealed, WATCHDOG is set and
counted. -/
def execVideoWatchdog (e : Fin 4) (stream : Fin 256) (s : State) : Host.Outcome State Fault Refusal :=
  answer (match s.runningOf e.val stream.val with
    | some (x, t) =>
      match x.entry with
      | some n => (s.decodeDone e.val n x t true).modEngine e.val (fun g => { g with wdog := satInc g.wdog 0xFFFF })
      | none => s
    | none => s)

end Sys2Proof.Machine
end

