-- ==== Sys2Proof/Machine/Boot.lean ====
section
/-!
DEFINITION. Boot, identity and attestation (18): signed objects, the boot ROM's steps, restarts, firmware commands, reports,
and the exit from bivouac mode (R399).
-/
namespace Sys2Proof.Machine

/-! ### Signed objects -/

/-- Parts of a signed object's bytes (R365), of a firmware image or of a rollback record: header, key and signature. -/
def objHead (image : Bool) (o : List Byte) : List Byte := slice o 0 (if image then 256 else 64)
def objKey (image : Bool) (o : List Byte) : List Byte := slice o (if image then 0x100 else 0x40) 1312
def objSig (image : Bool) (o : List Byte) : List Byte := slice o (if image then 0x620 else 0x560) 2420

/-- The zero bytes between signature and payload. -/
def objZeros (image : Bool) (o : List Byte) : Bool := if image then zeroAt o 0xF94 0x6C else zeroAt o 0xED4 0x12C

/-- The payload of an image, LENGTH bytes. -/
def objPayload (o : List Byte) : List Byte := slice o 0x1000 (fld o 0x10 4)

/-- SECVER of an image, or MINSEC of a rollback record. -/
def objVersion (o : List Byte) : Nat := fld o 4 4

/-- Check 1 of R366 for an image (Table 18.2) or a rollback record (R365). -/
def headerOk (image : Bool) (o : List Byte) : Bool :=
  fld o 0 2 == 1 && objZeros image o && fld o 3 1 == 0 && 0x1000 ≤ o.length &&
  (if image then fld o 2 1 == 1 && 1 ≤ fld o 0x10 4 && fld o 0x10 4 ≤ 33550336 && 0x1000 + fld o 0x10 4 ≤ o.length &&
      zeroAt o 0x14 4 && zeroAt o 0x38 200
   else fld o 2 1 == 2 && zeroAt o 8 56)

/-- Whether an object verifies (R366): 0, or the fault of the first check that fails. The vendor key hash is in mask ROM. -/
def verify (keyHash : List Byte) (minsec : Nat) (image : Bool) (o : List Byte) : Nat :=
  if ¬ headerOk image o then 0x0B01
  else if sha3 (objKey image o) ≠ keyHash ∨ ¬ mlVerify (objKey image o) (objHead image o) (objSig image o) then 0x0B02
  else if image ∧ sha3 (objPayload o) ≠ slice o 0x18 32 then 0x0B03
  else if image ∧ objVersion o < minsec then 0x0B04
  else 0

/-- MINSEC of the rollback region; none while it does not verify (R370). -/
def State.minsecNow (s : State) : Option Nat :=
  (s.flash.rollback.filter (fun o => verify s.silicon.keyHash 0 false o == 0)).map objVersion

/-- Check of the image in a slot; an empty slot holds no header. -/
def State.slotCheck (s : State) (n minsec : Nat) : Nat :=
  match lookup s.flash.slots n with
  | some o => verify s.silicon.keyHash minsec true o
  | none => 0x0B01

/-! ### Writing the flash -/

/-- The regions of Table 18.1 that anything writes. -/
inductive Region where
  | dirA | dirB | rollback | carrier | slot (n : Nat) | staged
deriving DecidableEq, Repr

/-- Regions that firmware may write (Table 18.1). -/
def Region.firmware : Region → Bool
  | .rollback | .carrier => false
  | .dirA | .dirB | .slot _ | .staged => true

/-- Whether a region may be written (R364): by firmware only where Table 18.1 says so, and not one locked; the boot ROM writes
the rollback region, in recovery past the lock that it holds itself. Nothing on the module writes carrier data. (log 34, DEDUCED) -/
def Sec.mayWrite (x : Sec) (rom : Bool) (r : Region) : Bool :=
  match r with
  | .carrier => false
  | .rollback => rom && (!x.locked || x.stage == 6)
  | _ => rom || r.firmware

/-- A region's contents replaced; none is an erased region. -/
def Flash.put (f : Flash) (r : Region) (o : Option (List Byte)) : Flash :=
  match r with
  | .dirA => { f with dirA := o.getD [] }
  | .dirB => { f with dirB := o.getD [] }
  | .rollback => { f with rollback := o }
  | .staged => { f with staged := o }
  | .slot n => { f with slots := match o with | some b => insertKey n b f.slots | none => eraseKey n f.slots }
  | .carrier => f

/-- A region written, where that is permitted (R364). -/
def State.program (s : State) (rom : Bool) (r : Region) (o : Option (List Byte)) : State :=
  if s.sec.mayWrite rom r then { s with flash := s.flash.put r o } else s

/-! ### The boot directory -/

/-- A boot directory's 64 bytes (R367). -/
def dirBytes (seq dflt tryS : Nat) : List Byte :=
  let b := layout 64 [(0, 2, 1), (4, 4, seq), (8, 1, dflt), (9, 1, tryS)]
  patch b 0x3C (leBytes 4 (crc32c (b.take 0x3C)))

/-- What a copy's region holds (R367); none when it is not valid. -/
def dirOf (b : List Byte) : Option BootDir :=
  let d := fld b 8 1
  let t := fld b 9 1
  if 64 ≤ b.length ∧ fld b 0 2 = 1 ∧ zeroAt b 2 2 ∧ zeroAt b 0x0A 50 ∧ d < 2 ∧ (t < 2 ∨ t = 0xFF) ∧ fld b 0x3C 4 = crc32c (b.take 0x3C) then
    some { seq := fld b 4 4, dflt := d, tryS := t }
  else none

/-- The copy in force (R367): whether it is A, and its contents. -/
def Flash.dir (f : Flash) : Option (Bool × BootDir) :=
  match dirOf f.dirA, dirOf f.dirB with
  | some a, some b => if (a.seq + 2 ^ 32 - b.seq) % 2 ^ 32 < 2 ^ 31 then some (true, a) else some (false, b)
  | some a, none => some (true, a)
  | none, some b => some (false, b)
  | none, none => none

/-- The directory written to the copy not in use, with SEQ one higher (R367). -/
def State.writeDir (s : State) (rom : Bool) (dflt tryS : Nat) : State :=
  match s.flash.dir with
  | some (true, a) => s.program rom .dirB (some (dirBytes ((a.seq + 1) % 2 ^ 32) dflt tryS))
  | some (false, b) => s.program rom .dirA (some (dirBytes ((b.seq + 1) % 2 ^ 32) dflt tryS))
  | none => s.program rom .dirA (some (dirBytes 1 dflt tryS))

/-! ### The boot ROM -/

/-- A measurement extended (R373). -/
def Sec.extend (x : Sec) (i : Nat) (d : List Byte) : Sec :=
  { x with meas := x.meas.setIfInBounds i (sha3 (x.meas.toList.getD i [] ++ d)) }

/-- The compute side as recovery needs it (R368): unpowered, with nothing known. What follows is a boot, with its own boot entry (R388);
bivouac mode, which only its exit or RESET_N ends (R399), stands, and the firmware comes back to it. (log 31, DEDUCED) -/
def State.recover (s : State) : State :=
  let s1 := if s.board.corePower then (s.dropContexts 1).powerDown else s
  { s1 with sec := { s1.sec with stage := 6, restart := false, journalled := false } }

/-- A flash write of the boot ROM: whether it fails is free (R380, 0x0B08), and a region it fails on is left erased. (log 34, DEDUCED) -/
def State.romWrite (s : State) (r : Region) (w : State → State) : State :=
  let s1 := s.onCore (fun c => { c with seq := c.seq + 1 })
  if Config.choice s.core.seq then ({ s1 with sec := { s1.sec with found := s1.sec.found ++ [(true, 0x0B08, [])] } } : State).program true r none
  else w s1

/-- Faults that the boot ROM found, for the journal (R380). -/
def State.romFound (s : State) (l : List Nat) : State := { s with sec := { s.sec with found := s.sec.found ++ l.map (fun c => (true, c, [])) } }

/-- Step 3 of R368: the copy not in use is written with TRY cleared before a TRY slot is attempted. -/
def State.clearTry (s : State) (a : Bool) (d : BootDir) : State :=
  if d.tryS = 0xFF then s else s.romWrite (if a then .dirB else .dirA) (fun x => x.writeDir true d.dflt 0xFF)

/-- Step 4 of R368: the slot that starts, whether from TRY and whether after a fallback, and the faults found; none when no slot
verifies. (log 31, DEDUCED) -/
def State.chooseSlot (s : State) (minsec : Nat) (d : BootDir) : Option (Nat × Bool × Bool) × List Nat :=
  let trial := d.tryS ≠ 0xFF
  let first := if trial then d.tryS else d.dflt
  let c := s.slotCheck first minsec
  if c = 0 then (some (first, trial, false), [])
  else
    let c2 := s.slotCheck (1 - first) minsec
    if c2 = 0 then (some (1 - first, false, true), [c, 0x0B09]) else (none, [c, 0x0B09, c2])

/-- Steps 3 to 5 of R368: the image starts at stage 2, or Lantern enters recovery. Faults found at a restart of Lantern are
journalled then (R388); those of a boot follow its boot entry. -/
def State.startImage (s : State) (minsec : Nat) : State :=
  match s.flash.dir with
  | none => s.recover
  | some (a, d) =>
    let q := s.chooseSlot minsec d
    let s1 := (s.clearTry a d).romFound q.2
    match q.1 with
    | none => s1.recover
    | some (slot, trial, fell) =>
      match lookup s1.flash.slots slot with
      | none => s1.recover
      | some o =>
        let up := s1.sec.journalled
        { s1 with
          core := if up then s1.sec.found.foldl (fun (c : Core) f => c.journal Src.rom { kind := 3, code := f.2.1 }) s1.core else s1.core
          sec := { s1.sec.extend 1 (sha3 (objHead true o)) with stage := 2, slot := slot, trial := trial, fallback := fell,
                                                                secver := objVersion o, minsec := minsec,
                                                                found := if up then [] else s1.sec.found } }

/-- Whether a test image is accepted (R331): its signature verifies under the vendor key, and what it holds is in range. -/
def TestImage.ok (t : TestImage) (keyHash : List Byte) : Bool :=
  sha3 t.key == keyHash && mlVerify t.key t.bytes t.sig && t.base.length == 8 &&
  t.base.all (fun l => l.length == 16 &&
    (List.range 16).all (fun n => vMin.getD n 0 ≤ l.getD n 0 && l.getD n 0 ≤ vMax.getD n 0) &&
    (List.range 15).all (fun n => l.getD n 0 ≤ l.getD (n + 1) 0)) &&
  t.steps.length == 8 && t.weights.length == 8 &&
  t.steps.all (fun l => l.length ≤ 8 && (List.range (l.length - 1)).all (fun n => (l.getD n (0, 0)).1 < (l.getD (n + 1) (0, 0)).1))

/-- Carrier data that firmware loads at stage 2 (R13, R331, R373, R378, R385): MAC addresses, vendor number, hours, boot count, voltage
tables and weights, with the fallback table for a test image that is refused (0x0901); and, at the first such stage since RESET_N, the
device number. -/
def State.loadCarrier (s : State) : State :=
  let f := s.flash
  let t := f.test
  let ok := t.ok s.silicon.keyHash
  let h := f.hours % 2 ^ 32
  let dies := s.dmp.dies.zipIdx.map (fun x =>
    { x.1 with base := if ok then t.base.getD x.2 [] else vMax, steps := if ok then t.steps.getD x.2 [] else []
               weights := if ok then t.weights.getD x.2 [] else s.silicon.weights })
  let s1 : State := { s with
    nym := if s.sec.loaded then s.nym else { s.nym with devnum := f.devnum % 65536 }
    eth := { s.eth with ports := s.eth.ports.zipIdx.map (fun x => { x.1 with mac := f.macs.getD x.2 0 % 2 ^ 48 }) }
    lan := { s.lan with vid := f.vendor % 2 ^ 32 }
    sec := { s.sec with loaded := true }
    dmp := { s.dmp with hours := h, vtfall := !ok, dies := dies.map (fun d => { d with margin := d.marginAt h }) }
    flash := { f with bootn := f.bootn + 1 }
    core := { s.core with jnl := { s.core.jnl with bootn := f.bootn + 1, wear := s.core.jnl.wear.write 8 } } }
  if ok then s1 else s1.noteFault 0x0901

/-- Step 2 of R368 (R370): a staged rollback record with a higher MINSEC is written to the rollback region, read back and verified,
and the staged copy erased; one with no higher is erased; one that does not verify is a fault found at boot. -/
def State.applyRollback (s : State) : State :=
  match s.flash.staged, s.minsecNow with
  | some o, some m =>
    let v := verify s.silicon.keyHash 0 false o
    if v ≠ 0 then s.romFound [v]
    else if m < objVersion o then
      let s1 := s.romWrite .rollback (fun x => x.program true .rollback (some o))
      if s1.flash.rollback = some o then s1.program true .staged none else s1
    else s.program true .staged none
  | _, _ => s

/-- Steps 2 to 5 of R368, with the measurements of R373: from stage 1 to stage 2, or to recovery. A rollback record is applied
only at a boot begun by RESET_N (R370); the regions are locked in either case. -/
def State.bootImage (s : State) (byReset : Bool) : State :=
  let s0 := if byReset then s.applyRollback else s
  let s1 : State := { s0 with sec := { s0.sec with locked := true } }
  match s1.minsecNow, s1.flash.rollback with
  | some m, some r =>
    let s2 : State := { s1.romFound (if s1.flash.remade then [0x0B0A] else []) with flash := { s1.flash with remade := false } }
    let s3 := s2.startImage m
    if s3.sec.stage = 2 then
      let x := ((s3.sec.extend 0 s3.silicon.romDigest).extend 2 (sha3 s3.flash.test.bytes)).extend 3 (sha3 (objHead false r))
      ({ s3 with sec := x } : State).loadCarrier
    else s3
  | none, some r => (s1.romFound [verify s1.silicon.keyHash 0 false r]).recover
  | _, none => (s1.romFound [0x0B01]).recover

/-! ### Device identity -/

/-- A DER length and what follows it. -/
def derLen : List Byte → Option (Nat × List Byte)
  | [] => none
  | b :: t =>
    if b.toNat < 128 then some (b.toNat, t)
    else some ((t.take (b.toNat - 128)).foldl (fun a x => a * 256 + x.toNat) 0, t.drop (b.toNat - 128))

/-- Consecutive DER items: tag and contents; `fuel` bounds their number. -/
def derItems : Nat → List Byte → List (Nat × List Byte)
  | 0, _ => []
  | _, [] => []
  | fuel + 1, t :: l =>
    match derLen l with
    | none => []
    | some (n, b) => (t.toNat, b.take n) :: derItems fuel (b.drop n)

/-- The public key that the first certificate of a chain names (R372, RFC 5280): an X.509 v3 certificate whose subject key has the
algorithm id-ml-dsa-44. (log 91, DESIGN CHOICE) -/
def certKey (chain : List Byte) : Option (List Byte) := do
  let cert ← (derItems 1 chain).head?
  let tbs ← (derItems 1 cert.2).head?
  let fields := (derItems 11 tbs.2).filter (fun x => x.1 != 0xA0)
  let spki ← fields[5]?
  let alg ← (derItems 2 spki.2)[0]?
  let key ← (derItems 2 spki.2)[1]?
  if alg.2 = ([0x06, 0x09, 0x60, 0x86, 0x48, 0x01, 0x65, 0x03, 0x04, 0x03, 0x11] : List Byte) then some (key.2.drop 1) else none

/-- The seed of the device key pair (R372): SHA3-256 of 0x01 and the PUF key K. (log 7, DESIGN CHOICE) -/
def State.deviceSeed (s : State) : List Byte := sha3 (1 :: leBytes 32 (Config.pufKey s.silicon.sram s.flash.helper).toNat)

/-- KEYID (Table 18.4): the digest of the device's public key. -/
def State.keyId (s : State) : List Byte := sha3 (mlKeyGen s.deviceSeed).1

/-- Step 1 of R368 (R372): the device key derived, and IDOK. -/
def State.deriveKey (s : State) : State :=
  { s with sec := { s.sec with stage := 1, seed := some s.deviceSeed, idok := (certKey s.flash.chain).map sha3 == some s.keyId } }

/-! ### Stages and restarts -/

/-- A Lantern restart (R369): steps 3 to 5 again, while strands keep running; before stage 5 of a boot was reached, the boot goes
on from there. (log 31, DEDUCED) -/
def State.restartLantern (s : State) : State :=
  let s1 := s.startImage s.sec.minsec
  if s1.sec.stage = 2 then { s1 with sec := { s1.sec with restart := s.sec.restart || decide (5 ≤ s.sec.stage), wantRestart := none } }
  else { s1 with sec := { s1.sec with wantRestart := none } }

/-- The next stage of boot (R368, R369): key, image, memories with the boot entry, compute dies, ready. A restart climbs without
touching the hardware. In bivouac mode the firmware comes back to stage 7, with the compute side down (R399). (log 31, DEDUCED) -/
def State.nextStage (s : State) : State :=
  let atStage := fun (x : State) (n : Nat) => ({ x with sec := { x.sec with stage := n } } : State)
  if ¬ s.board.resetN then s
  else if s.sec.restart then
    if s.lan.bivActive then { s with sec := { s.sec with stage := 7, restart := false } }
    else if s.sec.stage = 4 then { s with sec := { s.sec with stage := 5, restart := false } }
    else atStage s (s.sec.stage + 1)
  else match s.sec.stage with
    | 0 => s.deriveKey
    | 1 => s.bootImage (!s.sec.locked)
    | 2 => (atStage s 3).bootJournal (!s.lan.bivActive || !s.core.jnl.ringLost)
    | 3 => if s.lan.bivActive then atStage s 7 else if s.board.refclk ∧ ¬ s.board.thermtrip then atStage s.powerUp 4 else s.bivouac 4
    | 4 => atStage s 5
    | _ => s

/-- BOOT_STAGE_ADVANCE (R335, R368, R369). -/
def execBootStageAdvance (s : State) : Host.Outcome State Fault Refusal := answer s.nextStage

/-- What the boot ROM does in recovery before it restarts (R370): where the rollback region does not verify, the staged record is
written there, read back and verified, and the staged copy erased. (log 34, DEDUCED) -/
def State.remakeRollback (s : State) : State :=
  match s.minsecNow, s.flash.staged with
  | none, some o =>
    let s1 := s.romWrite .rollback (fun x => x.program true .rollback (some o))
    if s1.flash.rollback = some o then
      let s2 := s1.program true .staged none
      { s2 with flash := { s2.flash with remade := true } }
    else s1
  | _, _ => s

/-- LANTERN_RESTART (R369, R370, R377): once an activate command's completion record is written; in recovery the boot ROM restarts
itself. -/
def execLanternRestart (s : State) : Host.Outcome State Fault Refusal :=
  answer (match s.sec.wantRestart with
    | none => s
    | some q =>
      if s.eth.recs.any (fun r => Path.roce r.qp == q.path && r.cmdid == q.id && !r.unsol) then s
      else if s.sec.stage = 6 then
        let s1 := s.remakeRollback
        { s1 with sec := { s1.sec with stage := 1, wantRestart := none } }
      else s.restartLantern)

/-- TRIAL_WATCHDOG (R369): a trial image not yet at stage 5 is restarted. -/
def execTrialWatchdog (s : State) : Host.Outcome State Fault Refusal :=
  answer (if s.sec.trial ∧ 2 ≤ s.sec.stage ∧ s.sec.stage < 5 then
      let s1 := s.startImage s.sec.minsec
      { s1 with sec := { s1.sec with restart := s.sec.restart && s1.sec.stage == 2 } }
    else s)

/-- LANTERN_WATCHDOG_RESTART (R369, R396): the firmware's watchdog restarts it; the third time within 10 minutes is a bivouac
cause. -/
def execLanternWatchdogRestart (third : Bool) (s : State) : Host.Outcome State Fault Refusal :=
  answer (if s.sec.stage < 2 ∨ s.sec.stage = 6 then s else if third then s.bivouac 8 else s.restartLantern)

/-! ### Firmware commands -/

/-- The slot that command 0x0040 writes (R376): neither running nor DEFAULT. (log 34, DEDUCED) -/
def State.stageSlot (s : State) : Option Nat :=
  let dflt := (s.flash.dir.map (fun d => d.2.dflt)).getD 1
  ([0, 1] : List Nat).find? (fun n => n != dflt && (s.sec.stage == 6 || n != s.sec.slot))

/-- Fault that refuses an object to be staged (R366, R371), 0 for none. -/
def State.stageFault (s : State) (image : Bool) (o : List Byte) : Nat :=
  let v := verify s.silicon.keyHash (s.minsecNow.getD 0) image o
  let dflt := (s.flash.dir.bind (fun d => lookup s.flash.slots d.2.dflt)).map objVersion
  if v ≠ 0 then v
  else if ¬ image ∧ s.sec.stage ≠ 6 ∧ dflt.any (fun d => d < objVersion o) then 0x0B04
  else 0

/-- FIRMWARE_STAGE (R366, R370, R371, R376): the object is verified, then its slot or the staging region is erased, written and read
back; whether the erasure and the writing succeed is the command's to say. (log 34, DEDUCED) -/
def execFirmwareStage (h : HostCmd) (erased : Bool) (written : Bool) (s : State) : Host.Outcome State Fault Refusal :=
  answer (s.command h 0x40 none (fun s =>
    let image := h.arg 12 1 == 0
    if 1 < h.arg 12 1 ∨ ¬ h.zero 13 35 then no s 0x0B07 else
    match s.fetch 0xFF (h.arg 0 8) (h.arg 8 4) with
    | (s1, .error (c, d)) => no s1 c d
    | (s1, .ok bs) =>
      let f := s1.stageFault image bs
      if f ≠ 0 then no s1 f
      else
        match if image then s1.stageSlot.map (fun n => (Region.slot n, n)) else some (.staged, 2) with
        | none => no s1 0x0B06
        | some (r, n) =>
          if ¬ erased then no s1 0x0B08
          else if written then (s1.program false r (some bs), .now 0 n) else no (s1.program false r none) 0x0B08))

/-- MINSEC that an image to be activated must meet (R370, R371): that of the rollback region, and in recovery of a staged record
too; none when there is neither. -/
def State.activateMin (s : State) : Option Nat :=
  let staged := if s.sec.stage = 6 then (s.flash.staged.filter (fun o => verify s.silicon.keyHash 0 false o == 0)).map objVersion else none
  match s.minsecNow, staged with
  | some m, some n => some (max m n)
  | some m, none => some m
  | none, n => n

/-- FIRMWARE_ACTIVATE (R367, R370, R377): the slot's image is verified again and the boot directory written. -/
def execFirmwareActivate (h : HostCmd) (s : State) : Host.Outcome State Fault Refusal :=
  answer (s.command h 0x41 none (fun s =>
    let slot := h.arg 0 1
    if 1 < slot ∨ 1 < h.arg 1 1 ∨ 1 < h.arg 2 1 ∨ ¬ h.zero 3 45 then no s 0x0B07 else
    match s.activateMin with
    | none => no s 0x0B04
    | some m =>
      let c := s.slotCheck slot m
      if c ≠ 0 then no s c else
      let dflt := (s.flash.dir.map (fun d => d.2.dflt)).getD slot
      let s1 := if h.arg 1 1 = 0 then s.writeDir false dflt slot else s.writeDir false slot 0xFF
      let want := if h.arg 2 1 = 1 ∨ s.sec.stage = 6 then some h.ref else s.sec.wantRestart
      ({ s1 with sec := { s1.sec with wantRestart := want } }, .now 0 0)))

/-! ### Attestation -/

/-- Bytes 0x000 to 0xABF of a report (Table 18.4). (log 37, DEDUCED) -/
def State.reportHead (s : State) (lcount rseq : Nat) (nonce : List Byte) : List Byte :=
  let b := layout 0xAC0 [(0, 2, 1), (2, 2, flag s.sec.trial 0 + flag s.lan.bivActive 1), (4, 2, s.nym.devnum), (8, 8, lcount), (0x10, 8, rseq),
    (0x18, 4, s.sec.minsec), (0x1C, 4, s.sec.secver), (0x160, 8, s.core.jnl.head)]
  let b1 := patch (patch (patch b 0x20 nonce) 0x40 s.keyId) 0x60 s.sec.meas.toList.flatten
  patch (patch b1 0x180 s.core.jnl.hash) 0x200 ((List.range 2192).map (fun o => BitVec.ofNat 8 (s.core.ownerByte o)))

/-- ATTESTATION_REPORT (R372, R374, R375): a signed snapshot, and the certificate chain when CERTS asks for it. (log 37, DEDUCED) -/
def execAttestationReport (h : HostCmd) (s : State) : Host.Outcome State Fault Refusal :=
  answer (s.command h 0x42 none (fun s =>
    let a := h.arg 32 8
    let direct : Bool := match h.path with | .roce _ => true | _ => false
    if 1 < h.arg 40 1 ∨ ¬ h.zero 41 7 ∨ (¬ direct ∧ a ≠ 0) then no s 0x0B07
    else if ¬ s.sec.idok then no s 0x0B05
    else
      let w := s.core.readWclk
      let n := s.sec.rseq + 1
      let s1 : State := { s with core := w.2, sec := { s.sec with rseq := n } }
      let head := s1.reportHead w.1 n (slice h.args 0 32)
      let rep := head ++ slice (mlSign (mlKeyGen (s.sec.seed.getD [])).2 head) 0 2420
      let chain := if h.arg 40 1 = 1 then s.flash.chain.take 16384 else []
      let res := n % 2 ^ 48 + chain.length * 2 ^ 48
      match h.path with
      | .roce qp =>
        let k := (s1.eth.queue qp).rkey
        let s2 := s1.request qp (.hostWrite qp a k rep) rep
        (if chain.isEmpty then s2 else s2.request qp (.hostWrite qp (a + 5184) k chain) chain, .now 0 res)
      | _ => (s1, .now 0 res 3 [] (rep ++ chain))))

/-! ### The exit from bivouac mode -/

/-- Bivouac mode left: the compute side is powered up and trained again, and the journal's ring stands. -/
def State.bringUp (s : State) : State :=
  let s0 := if s.lan.stopping then s.powerDown else s
  let s1 : State := { s0 with lan := { s0.lan with bivActive := false, keptPort := none }, sec := { s0.sec with stage := 5 } }
  let c := s1.core
  let c1 := if c.jnl.ringLost then c.jnl.flash.foldl (fun (c : Core) e => c.store (ringSlot e.1) e.2) { c with jnl := { c.jnl with ringLost := false } }
    else c
  ({ s1 with core := c1 } : State).powerUp

/-- BIVOUAC_EXIT (R399): `cause` is a cause of Table 19.9, less 1, that bring-up met; without REFCLK, or after a thermal trip, it
is cause 4. -/
def execBivouacExit (h : HostCmd) (cause : Option (Fin 8)) (s : State) : Host.Outcome State Fault Refusal :=
  answer (s.command h 0x50 none (fun s =>
    if ¬ h.zero 0 48 then no s 0x0801
    else if ¬ s.lan.bivActive then (s, .now 0 2)
    else
      let met := if s.board.refclk ∧ ¬ s.board.thermtrip then cause.map (fun c => c.val + 1) else some 4
      match met with
      | none => (((s.bringUp).complete h 0x50 0 0).journal Src.lantern { kind := 6 }, .later)
      | some c => (((s.bringUp).complete h 0x50 0 (1 + c * 2 ^ 8)).bivouac c, .later)))

end Sys2Proof.Machine
end

