-- ==== Sys2Proof/Machine/Background.lean ====
section
/-!
DEFINITION. Background work (19): scrubbing and clearing (R382, R383), calibration (R384), the journal's flash copy (R391),
periodic telemetry (R393), the causes of bivouac mode (R396), and errors of stored words (R260).
-/
namespace Sys2Proof.Machine

/-- Whether background activities run (R381): from stage 5, in bivouac mode, and while Lantern restarts from there. -/
def State.bgRuns (s : State) : Bool := s.board.resetN && (s.sec.stage == 5 || s.sec.stage == 7 || s.sec.restart)

/-! ### Protected words -/

/-- Where a protected word lies: main memory, the OSP or ACM of a strand, or that of an ME with no strand. -/
inductive WordPlace where
  | main
  | tile (k i me : Nat) (acm : Bool)
  | window (me : Nat) (acm : Bool)
deriving DecidableEq, Repr

/-- The strand placed on an ME, as context and index. -/
def Core.strandAt (c : Core) (me : Nat) : Option (Nat × Nat) :=
  (c.ctxs.flatMap (fun k => (k.2.strands.filter (fun r => r.2.me == some me)).map (fun r => (k.1, r.1)))).head?

/-- The protected word an address names (R257, R259): its place and its byte offset there; none where there is none or it is
without power. -/
def State.wordAt (s : State) (addr : Nat) : Option (WordPlace × Nat) :=
  let a := addr / 64 * 64
  match (areaOf a).1 with
  | .hbm => if s.board.hbmPower then some (.main, a) else none
  | .lp => some (.main, a)
  | .pantry => if s.board.corePower then some (.main, a) else none
  | .window =>
    let me := (a - winBase) / 0x400000
    let o := (a - winBase) % 0x400000
    if ¬ s.board.corePower ∨ 0x280000 ≤ o then none
    else
      let acm := decide (0x200000 ≤ o)
      let w := o - (if acm then 0x200000 else 0)
      match s.core.strandAt me with
      | some (k, i) => some (.tile k i me acm, w)
      | none => some (.window me acm, w)
  | _ => none

/-- The words of a place. -/
def WordPlace.space (c : Core) : WordPlace → Space
  | .main => c.space
  | .tile k i me acm => tileSpaceOf k i me acm
  | .window me acm => windowSpace me acm

/-- The memory of a place. -/
def Core.placeMem (c : Core) : WordPlace → Mem
  | .main => c.mem
  | .tile k i _ acm => (((lookup c.ctxs k).bind (fun cx => lookup cx.tiles i)).getD {}).part acm
  | .window me acm => (c.windowMem me).part acm

/-- The memory of a place replaced. -/
def Core.setPlaceMem (c : Core) (p : WordPlace) (m : Mem) : Core :=
  match p with
  | .main => { c with mem := m }
  | .tile k i _ acm =>
    match lookup c.ctxs k with
    | none => c
    | some cx => c.setCtx k { cx with tiles := insertKey i (((lookup cx.tiles i).getD {}).setPart acm m) cx.tiles }
  | .window me acm => { c with windows := insertKey me ((c.windowMem me).setPart acm m) c.windows }

/-- One word checked and a corrected one written back (R260, R261, R382). A word with no error changes nothing. -/
def Core.scrub (c : Core) (p : WordPlace) (w : Nat) : Core :=
  let sp := p.space c
  if (errWords sp c.ecc w 64).isEmpty then c else
  let q := scanWord sp (c.placeMem p) c.ecc w
  ({ c with ecc := q.2.1 } : Core).setPlaceMem p q.1

/-- Whether a place is scrubbed now: in bivouac mode LPDDR5X only (Table 19.1). -/
def State.scrubs (s : State) (addr : Nat) : Bool := s.bgRuns && (!s.lan.bivActive || (areaOf addr).1 == .lp)

/-- SCRUB_READ (R382). (log 41, DEDUCED) -/
def execScrubRead (addr : W64) (s : State) : Host.Outcome State Fault Refusal :=
  answer (
    if ¬ s.scrubs addr.toNat then s else
    match s.wordAt addr.toNat with
    | none => s
    | some (p, w) => s.onCore (fun c => c.scrub p w))

/-- The oldest region to be cleared now: in bivouac mode one of LPDDR5X (Table 19.1). -/
def State.clearingNow (s : State) : Option (Nat × Nat × Nat) := s.bg.clearing.find? (fun x => !s.lan.bivActive || x.1 == 3)

/-- One clearing write (R383): the next word of a region. The region reads 0 since its rebinding; the write is performed on a word that
the new owner has not written, whose zeros are from then on stored like any others. (log 41, DEDUCED) -/
def State.clearNext (s : State) (r : Nat × Nat × Nat) : State :=
  let w := (regionBase r.1 r.2.1 + r.2.2) / 64
  { s with core := { s.core with ecc := { s.core.ecc with uncleared := cutRange w (w + 1) s.core.ecc.uncleared } }
           bg := { s.bg with clearing := if 0x40000000 ≤ r.2.2 + 64 then s.bg.clearing.erase r
             else s.bg.clearing.map (fun x => if x = r then (r.1, r.2.1, r.2.2 + 64) else x) } }

/-- REGION_CLEAR_WRITE (R383). -/
def execRegionClearWrite (s : State) : Host.Outcome State Fault Refusal :=
  answer (match s.clearingNow with
    | some r => if s.bgRuns then s.clearNext r else s
    | none => s)

/-- MEMORY_SYMBOL_ERROR (R259, R260): a symbol of a stored word is disturbed by a value, or, with no symbol, the word's next transfer
fails all five attempts, in DRAM. A word still to be cleared reads zero whatever it holds (R383). (log 84, DESIGN CHOICE) -/
def execMemorySymbolError (addr : W64) (sym : Option (Fin 68)) (flip : Byte) (s : State) : Host.Outcome State Fault Refusal :=
  answer (
    match s.wordAt addr.toNat, sym with
    | none, _ => s
    | some (p, w), none =>
      let dram := match (areaOf addr.toNat).1 with | .hbm | .lp => true | _ => false
      if dram then s.onCore (fun c => { c with ecc := { c.ecc with once := insertNat ((p.space c).off + w / 64) c.ecc.once } }) else s
    | some (p, w), some sym =>
      let key := (p.space s.core).off + w / 64
      if s.core.ecc.uncleared.any (fun r => r.1 ≤ key && key < r.2) then s else
      let old := (lookup s.core.ecc.errs key).getD []
      let v := (lookup old sym.val).getD 0 ^^^ flip
      let pat := if v = 0 then eraseKey sym.val old else insertKey sym.val v old
      s.onCore (fun c => { c with ecc := { c.ecc with errs := if pat.isEmpty then eraseKey key c.ecc.errs else insertKey key pat c.ecc.errs } }))

/-! ### Calibration -/

/-- Whether a unit code names an HBM stack or an LPDDR5X channel that is trained now (Table 12.6, Table 19.1). -/
def State.trains (s : State) (unit : Nat) : Bool :=
  s.bgRuns && ((unit < 8 && s.board.hbmPower && !s.lan.bivActive) || (0x10 ≤ unit && unit < 0x20))

/-- MEMORY_RETRAIN (R384): a full retrain once the unit's temperature has moved by 10 °C since the last. -/
def execMemoryRetrain (unit : Fin 64) (temp : Int) (s : State) : Host.Outcome State Fault Refusal :=
  answer (
    let moved : Bool := match lookup s.bg.trained unit.val with
      | none => true
      | some t => decide (10 ≤ temp - t ∨ 10 ≤ t - temp)
    if s.trains unit.val ∧ moved then { s with bg := { s.bg with trained := insertKey unit.val temp s.bg.trained } } else s)

/-- A trim moved by at most half a degree. -/
def Sensor.retrim (x : Sensor) (delta : Int) : Sensor := { x with trim := x.trim + max (-1) (min 1 delta) }

/-- A sensor of a die changed. -/
def modSensor (v : Vector Sensor 16) (i : Nat) (f : Sensor → Sensor) : Vector Sensor 16 :=
  v.setIfInBounds i (f (v.toList.getD i {}))

/-- SENSOR_TRIM (R384): the comparison finds a difference of `delta` half degrees; in bivouac mode for the hub die (8) only. -/
def execSensorTrim (die : Fin 9) (sensor : Fin 16) (delta : Int) (s : State) : Host.Outcome State Fault Refusal :=
  answer (
    if ¬ s.bgRuns then s
    else if die.val = 8 then s.onDmp (fun d => { d with hub := modSensor d.hub sensor.val (fun x => x.retrim delta) })
    else if s.lan.bivActive ∨ ¬ (s.dmp.die die.val).powered then s
    else s.onDmp (fun d => d.modDie die.val (fun x => { x with sensors := modSensor x.sensors sensor.val (fun y => y.retrim delta) })))

/-! ### Journal and telemetry -/

/-- JOURNAL_FLASH_COPY (R391). -/
def execJournalFlashCopy (s : State) : Host.Outcome State Fault Refusal :=
  answer (if s.board.resetN ∧ s.sec.journalled ∧ s.core.jnl.ringLost = false then s.onCore Core.copyEntry else s)

/-- A periodic record formed; one not yet sent is replaced by it and counted (R393). -/
def State.telPeriod (s : State) : State :=
  let r := s.telRecord 0 0 []
  let l := r.2.lan
  let lost := if l.telPeriodic.isSome then satInc l.telLost 0xFFFFFFFF else l.telLost
  ({ r.2 with lan := { l with telPeriodic := some r.1, telLost := lost } } : State).telFlush

/-- TELEMETRY_PERIODIC (R393). -/
def execTelemetryPeriodic (s : State) : Host.Outcome State Fault Refusal :=
  answer (if s.bgRuns ∧ s.lan.telEn then s.telPeriod else s)

/-! ### Causes of bivouac mode -/

/-- INPUT_RAIL_OUT_OF_RANGE (R396): cause 3. -/
def execInputRailOutOfRange (s : State) : Host.Outcome State Fault Refusal :=
  answer (if s.damperUp then s.bivouac 3 else s)

/-- COMPUTE_DIE_LOST (R396): cause 4. A die is lost that was powered, or whose power a thermal trip took. (log 53, DEDUCED) -/
def execComputeDieLost (d : Fin 8) (s : State) : Host.Outcome State Fault Refusal :=
  answer (if s.damperUp ∧ ((s.dmp.die d.val).powered ∨ s.board.thermtrip) then s.bivouac 4 else s)

/-- MEMORY_TRAINING_FAILED (R392, R396): an HBM stack (0 to 7), cause 5; an LPDDR5X channel (8 to 23), cause 6, and the ring
cannot be written. (log 54, DEDUCED) -/
def execMemoryTrainingFailed (unit : Fin 24) (s : State) : Host.Outcome State Fault Refusal :=
  answer (
    if ¬ s.damperUp ∨ s.sec.stage < 2 ∨ s.sec.stage = 6 then s
    else if unit.val < 8 then s.bivouac 5
    else (s.onCore (fun c => { c with jnl := { c.jnl with ringLost := true } })).bivouac 6)

/-- HUB_UNCORRECTABLE_ERROR (R396): cause 7. -/
def execHubUncorrectableError (s : State) : Host.Outcome State Fault Refusal :=
  answer (if s.damperUp then s.bivouac 7 else s)

/-- BIVOUAC_POWER_DOWN_COMPLETE (R397 step 5). -/
def execBivouacPowerDownComplete (s : State) : Host.Outcome State Fault Refusal :=
  answer (if s.lan.stopping then s.powerDown else s)

end Sys2Proof.Machine
end

