-- ==== Sys2Proof/Machine/Board.lean ====
section
/-!
DEFINITION. The board's view (20): reset and power sequence (R404 to R407), PWRBRK_N (R339, R409, R410), thermal trip (R344,
R411), clocks (R407), the TAP (R416) and the UART (R417).
-/
namespace Sys2Proof.Machine

/-- The board contacts changed. -/
def State.onBoard (s : State) (f : Board → Board) : State := { s with board := f s.board }

/-- ALERT_N asserted (R412): in recovery, and while any bit of LAN_ALERT is 1. -/
def State.alertN (s : State) : Bool := s.board.resetN && (s.sec.stage == 6 || s.lan.alert != 0)

/-! ### Reset -/

/-- On-chip state cleared (R407): every register at its reset value, HBM and LPDDR5X contents undefined. Flash, the mask ROM,
the contacts, the queue of commands and the messages already sent stay. -/
def State.internalReset (s : State) : State :=
  let c := Core.reset
  let j := s.core.jnl
  { State.reset with
    pending := s.pending
    flash := s.flash
    silicon := s.silicon
    board := { s.board with corePower := false, hbmPower := false, pbtrans := 0, brkPeriods := 0 }
    core := { c with mem := Mem.undefined s.core.seq, ecc := { c.ecc with draws := s.core.ecc.draws }, seq := s.core.seq + 2, out := s.core.out
                     jnl := { c.jnl with flash := j.flash, mark := j.mark, wear := j.wear } } }

/-- Test instructions that drive contacts (R416). -/
def TapIns.drives : TapIns → Bool
  | .extest | .extestPulse | .extestTrain => true
  | .reset | .bypass | .idcode | .sample => false

/-- RESET_N deasserted inside: the boot ROM starts at stage 0, MOD_ID is sampled, and a PWRBRK_N already asserted
applies (R368, R410, Table 20.5). -/
def State.startBoot (s : State) : State :=
  { s with board := { s.board with resetN := true, heldReset := false, tap := if s.board.tap.drives then .reset else s.board.tap }
           dmp := { s.dmp with pwrbrk := s.board.brk }
           lan := { s.lan with smbAddr := 0x60 + s.board.modId % 8 }
           sec := { s.sec with stage := 0 } }

/-- RESET_N_ASSERT (R407). -/
def execResetNAssert (s : State) : Host.Outcome State Fault Refusal :=
  answer (if s.board.resetN then (s.internalReset).onBoard (fun b => { b with resetN := false, heldReset := false })
    else s.onBoard (fun b => { b with heldReset := false }))

/-- RESET_N_DEASSERT (R368, R407): held inside until 1 ms after PGOOD rose. -/
def execResetNDeassert (s : State) : Host.Outcome State Fault Refusal :=
  answer (if s.board.resetN then s
    else if s.board.pgood ∧ s.board.settled then s.startBoot
    else s.onBoard (fun b => { b with heldReset := true }))

/-- HELD_RESET_N_RELEASE (R407): 1 ms after PGOOD rose. -/
def execHeldResetNRelease (s : State) : Host.Outcome State Fault Refusal :=
  answer (if ¬ s.board.pgood then s else
    let s1 := s.onBoard (fun b => { b with settled := true })
    if s.board.heldReset then s1.startBoot else s1)

/-! ### Power -/

/-- Power taken from everything but the standby island: state is lost as at a reset, and a RESET_N that is deasserted is held
for the next PGOOD (R405, R407). (log 53, DEDUCED) -/
def State.unpower (s : State) : State :=
  (s.internalReset).onBoard (fun b =>
    { b with rails := false, pgood := false, settled := false, heldReset := b.resetN || b.heldReset, resetN := false, intOsc := false
             tap := .reset })

/-- PWR_EN_ASSERT (R406, R407): acted on once the standby island runs and the minimum off time has passed. -/
def execPwrEnAssert (s : State) : Host.Outcome State Fault Refusal :=
  answer (if s.board.on then s
    else if s.board.island ∧ ¬ s.board.offTime then s.onBoard (fun b => { b with pwrEn := true, on := true, wantOn := false })
    else s.onBoard (fun b => { b with pwrEn := b.island, wantOn := true }))

/-- PWR_EN_DEASSERT (R407, R411): internal reset, then power-down; THERMTRIP_N is released. -/
def execPwrEnDeassert (s : State) : Host.Outcome State Fault Refusal :=
  answer (if ¬ s.board.on then s.onBoard (fun b => { b with pwrEn := false, wantOn := false, thermtrip := false })
    else (s.unpower).onBoard (fun b => { b with pwrEn := false, on := false, wantOn := false, offTime := true, thermtrip := false }))

/-- A PWR_EN that waited is acted on. -/
def Board.turnOn (b : Board) : Board :=
  if b.wantOn ∧ b.island ∧ ¬ b.offTime then { b with pwrEn := true, on := true, wantOn := false } else b

/-- MINIMUM_OFF_TIME_ELAPSED (Table 20.4). -/
def execMinimumOffTimeElapsed (s : State) : Host.Outcome State Fault Refusal :=
  answer (s.onBoard (fun b => Board.turnOn { b with offTime := false }))

/-- RAILS_GOOD (R406): PGOOD rises with every rail in regulation and the three clocks present. -/
def execRailsGood (s : State) : Host.Outcome State Fault Refusal :=
  answer (if s.board.on ∧ s.board.input ∧ ¬ s.board.overvolt ∧ s.board.refclk ∧ s.board.mgtclk ∧ s.board.ethclk ∧ ¬ s.board.pgood then
      s.onBoard (fun b => { b with rails := true, pgood := true, settled := false })
    else s)

/-- STANDBY_START (R404). -/
def execStandbyStart (s : State) : Host.Outcome State Fault Refusal :=
  answer (s.onBoard (fun b => Board.turnOn { b with input := true, island := true }))

/-- STANDBY_STOP (R404, R405): all power is removed; a PWR_EN that stays high is acted on when the island runs again. -/
def execStandbyStop (s : State) : Host.Outcome State Fault Refusal :=
  answer ((s.unpower).onBoard (fun b =>
    { b with input := false, island := false, wantOn := b.pwrEn || b.wantOn, pwrEn := false, on := false, offTime := false, brk := false }))

/-- INPUT_OVERVOLTAGE (R404): the input switch opens, and the module loses its power. -/
def execInputOvervoltage (s : State) : Host.Outcome State Fault Refusal :=
  answer ((s.unpower).onBoard (fun b => { b with overvolt := true }))

/-- INPUT_SWITCH_CLOSURE (R404). -/
def execInputSwitchClosure (s : State) : Host.Outcome State Fault Refusal :=
  answer (s.onBoard (fun b => { b with overvolt := false }))

/-! ### PWRBRK_N -/

/-- RAW_PWRBRK_N_EDGE (R410, Table 20.7b): the raw contact changes; edges since RESET_N are counted. (log 54, DEDUCED) -/
def execRawPwrbrkNEdge (low : Bool) (s : State) : Host.Outcome State Fault Refusal :=
  answer (if s.board.rawPwrbrk = low then s else
    s.onBoard (fun b => { b with rawPwrbrk := low, pbtrans := if b.resetN then satInc b.pbtrans 0xFFFF else b.pbtrans }))

/-- PWRBRK_ASSERT (R339, R393, R410): the raw contact was low for the assertion time; while RESET_N is asserted the filter runs
without effect. (log 54, DEDUCED) -/
def execPwrbrkAssert (s : State) : Host.Outcome State Fault Refusal :=
  answer (if ¬ s.board.island ∨ ¬ s.board.rawPwrbrk ∨ s.board.brk then s else
    let s1 := s.onBoard (fun b => { b with brk := true, brkPeriods := 0 })
    if s.damperUp then (s1.onDmp (fun d => { d with pwrbrk := true })).telEvent 4 (leBytes 8 0) else s1)

/-- PWRBRK_RELEASE (R339, R410): the raw contact was high continuously for the release time. (log 54, DEDUCED) -/
def execPwrbrkRelease (s : State) : Host.Outcome State Fault Refusal :=
  answer (if s.board.rawPwrbrk then s else
    (s.onBoard (fun b => { b with brk := false })).onDmp (fun d => { d with pwrbrk := false }))

/-! ### Thermal trip -/

/-- Every known context gone with the compute dies' power; no abort can be sent (R344). (log 53, DEDUCED) -/
def State.loseContexts (s : State) : State :=
  s.core.ctxs.foldl (fun (a : State) k =>
    a.onCore (fun c => (c.forgetCtx k.1).finishCmds k.2.orphans k.1 k.2.part 0x0C02 0)) s

/-- THERMTRIP (R344): THERMTRIP_N asserts and latches, and core power goes off until PWR_EN is deasserted. (log 53, DEDUCED) -/
def execThermtrip (s : State) : Host.Outcome State Fault Refusal :=
  answer (if ¬ s.board.pgood then s else
    let s1 := s.loseContexts.onCore (fun c => c.loseChip.clearGens)
    ((s1.onBoard (fun b => { b with thermtrip := true, corePower := false })).onDmp (fun d => d.allDies Die.powerDown)).linkEnable)

/-! ### Clocks -/

/-- REFCLK_LOSS (R407): the CCLK PLLs unlock, which is bivouac cause 4. -/
def execRefclkLoss (s : State) : Host.Outcome State Fault Refusal :=
  answer (
    let s1 := s.onBoard (fun b => { b with refclk := false })
    if s.damperUp ∧ s.board.corePower then s1.bivouac 4 else s1)

/-- REFCLK_RETURN (R413). -/
def execRefclkReturn (s : State) : Host.Outcome State Fault Refusal := answer (s.onBoard (fun b => { b with refclk := true }))

/-- MGTCLK_LOSS (R407): Lantern continues on its internal oscillator. (log 36, DESIGN CHOICE) -/
def execMgtclkLoss (s : State) : Host.Outcome State Fault Refusal :=
  answer (s.onBoard (fun b => { b with mgtclk := false, intOsc := b.pgood }))

/-- MGTCLK_RETURN (R407). (log 36, DESIGN CHOICE) -/
def execMgtclkReturn (s : State) : Host.Outcome State Fault Refusal :=
  answer (s.onBoard (fun b => { b with mgtclk := true, intOsc := false }))

/-- ETHCLK_LOSS (R407): all four ports go down, with telemetry event 6. -/
def execEthclkLoss (s : State) : Host.Outcome State Fault Refusal :=
  answer ((List.range 4).foldl (fun (a : State) p => a.portState p false) (s.onBoard (fun b => { b with ethclk := false })))

/-- ETHCLK_RETURN (R413). -/
def execEthclkReturn (s : State) : Host.Outcome State Fault Refusal := answer (s.onBoard (fun b => { b with ethclk := true }))

/-! ### The TAP and the UART -/

/-- A TAP instruction loaded (R416): only while PGOOD is high; one that drives contacts acts as BYPASS while RESET_N is
deasserted. -/
def State.tapLoad (s : State) (i : TapIns) : State :=
  if ¬ s.board.pgood then s else s.onBoard (fun b => { b with tap := if b.resetN && i.drives then .bypass else i })

/-- BYPASS (R416). -/
def execBypass (s : State) : Host.Outcome State Fault Refusal := answer (s.tapLoad .bypass)

/-- IDCODE (R416): TDO carries the identity. -/
def execIdcode (s : State) : Host.Outcome State Fault Refusal :=
  answer (if s.board.pgood then (s.tapLoad .idcode).send (.event "TDO IDCODE" 0x1A8CD0E3 0) else s)

/-- SAMPLE/PRELOAD (R416). -/
def execSamplePreload (s : State) : Host.Outcome State Fault Refusal := answer (s.tapLoad .sample)

/-- EXTEST (R416). -/
def execExtest (s : State) : Host.Outcome State Fault Refusal := answer (s.tapLoad .extest)

/-- EXTEST_PULSE (R416). -/
def execExtestPulse (s : State) : Host.Outcome State Fault Refusal := answer (s.tapLoad .extestPulse)

/-- EXTEST_TRAIN (R416). -/
def execExtestTrain (s : State) : Host.Outcome State Fault Refusal := answer (s.tapLoad .extestTrain)

/-- UART_RX_BYTE (R417): the byte is discarded. -/
def execUartRxByte (_byte : Byte) (s : State) : Host.Outcome State Fault Refusal := answer s

end Sys2Proof.Machine
end

