-- ==== Sys2Proof/Machine/Dispatch.lean ====
section
/-!
DEFINITION. One arm per command: a direct call of its meaning.
-/
namespace Sys2Proof.Machine

def exec (i : Instr) (s : State) : Host.Outcome State Fault Refusal :=
  match i with
  | .nop t b => Sys2Proof.Machine.execNop t b s
  | .salu t b => Sys2Proof.Machine.execSalu t b s
  | .salui t b => Sys2Proof.Machine.execSalui t b s
  | .scmp t b => Sys2Proof.Machine.execScmp t b s
  | .scmpi t b => Sys2Proof.Machine.execScmpi t b s
  | .plog t b => Sys2Proof.Machine.execPlog t b s
  | .smovi t b => Sys2Proof.Machine.execSmovi t b s
  | .sld t b => Sys2Proof.Machine.execSld t b s
  | .sst t b => Sys2Proof.Machine.execSst t b s
  | .br t b => Sys2Proof.Machine.execBr t b s
  | .call t b => Sys2Proof.Machine.execCall t b s
  | .bri t b => Sys2Proof.Machine.execBri t b s
  | .endStrand t b => Sys2Proof.Machine.execEndStrand t b s
  | .valu t b => Sys2Proof.Machine.execValu t b s
  | .vfma t b => Sys2Proof.Machine.execVfma t b s
  | .vcmp t b => Sys2Proof.Machine.execVcmp t b s
  | .vsel t b => Sys2Proof.Machine.execVsel t b s
  | .vred t b => Sys2Proof.Machine.execVred t b s
  | .vperm t b => Sys2Proof.Machine.execVperm t b s
  | .vbcast t b => Sys2Proof.Machine.execVbcast t b s
  | .vmovs t b => Sys2Proof.Machine.execVmovs t b s
  | .vexp2 t b => Sys2Proof.Machine.execVexp2 t b s
  | .vlog2 t b => Sys2Proof.Machine.execVlog2 t b s
  | .vtab t b => Sys2Proof.Machine.execVtab t b s
  | .vstat t b => Sys2Proof.Machine.execVstat t b s
  | .vld t b => Sys2Proof.Machine.execVld t b s
  | .vst t b => Sys2Proof.Machine.execVst t b s
  | .vtrd t b => Sys2Proof.Machine.execVtrd t b s
  | .vtwr t b => Sys2Proof.Machine.execVtwr t b s
  | .dld t b => Sys2Proof.Machine.execDld t b s
  | .dst t b => Sys2Proof.Machine.execDst t b s
  | .dset t b => Sys2Proof.Machine.execDset t b s
  | .dget t b => Sys2Proof.Machine.execDget t b s
  | .tld t b => Sys2Proof.Machine.execTld t b s
  | .tst t b => Sys2Proof.Machine.execTst t b s
  | .aopen t b => Sys2Proof.Machine.execAopen t b s
  | .mma t b => Sys2Proof.Machine.execMma t b s
  | .mconv t b => Sys2Proof.Machine.execMconv t b s
  | .afin t b => Sys2Proof.Machine.execAfin t b s
  | .aexp t b => Sys2Proof.Machine.execAexp t b s
  | .aimp t b => Sys2Proof.Machine.execAimp t b s
  | .gred t b => Sys2Proof.Machine.execGred t b s
  | .nanTrapRecord k => Sys2Proof.Machine.execNanTrapRecord k s
  | .gemm t b => Sys2Proof.Machine.execGemm t b s
  | .convolve t b => Sys2Proof.Machine.execConvolve t b s
  | .bgemm t b => Sys2Proof.Machine.execBgemm t b s
  | .attn t b => Sys2Proof.Machine.execAttn t b s
  | .rapply t b => Sys2Proof.Machine.execRapply t b s
  | .panelArrival t data => Sys2Proof.Machine.execPanelArrival t data s
  | .splitKFlagReady t => Sys2Proof.Machine.execSplitKFlagReady t s
  | .arriveFlagReady t => Sys2Proof.Machine.execArriveFlagReady t s
  | .ptpub t b => Sys2Proof.Machine.execPtpub t b s
  | .kvput t b => Sys2Proof.Machine.execKvput t b s
  | .msum t b => Sys2Proof.Machine.execMsum t b s
  | .bsort t b => Sys2Proof.Machine.execBsort t b s
  | .walkBegin t obj => Sys2Proof.Machine.execWalkBegin t obj s
  | .tndw t b => Sys2Proof.Machine.execTndw t b s
  | .tndu t b => Sys2Proof.Machine.execTndu t b s
  | .tndn t b => Sys2Proof.Machine.execTndn t b s
  | .tfill t b => Sys2Proof.Machine.execTfill t b s
  | .sample t b => Sys2Proof.Machine.execSample t b s
  | .samplerFaultDetected d t => Sys2Proof.Machine.execSamplerFaultDetected d t s
  | .samplerSelftestComplete d pass => Sys2Proof.Machine.execSamplerSelftestComplete d pass s
  | .powerOnSelftestComplete d pass => Sys2Proof.Machine.execPowerOnSelftestComplete d pass s
  | .press t b => Sys2Proof.Machine.execPress t b s
  | .phist t b => Sys2Proof.Machine.execPhist t b s
  | .tgen t b => Sys2Proof.Machine.execTgen t b s
  | .tgenDrainComplete t => Sys2Proof.Machine.execTgenDrainComplete t s
  | .decodeRequestAccept t d n => Sys2Proof.Machine.execDecodeRequestAccept t d n s
  | .blockDelivered => Sys2Proof.Machine.execBlockDelivered s
  | .coll t b => Sys2Proof.Machine.execColl t b s
  | .collectiveComplete t peers => Sys2Proof.Machine.execCollectiveComplete t peers s
  | .memb t b => Sys2Proof.Machine.execMemb t b s
  | .membWaitComplete t => Sys2Proof.Machine.execMembWaitComplete t s
  | .rput t b => Sys2Proof.Machine.execRput t b s
  | .xdisp t b => Sys2Proof.Machine.execXdisp t b s
  | .xcomb t b => Sys2Proof.Machine.execXcomb t b s
  | .fset t b => Sys2Proof.Machine.execFset t b s
  | .fadd t b => Sys2Proof.Machine.execFadd t b s
  | .fcas t b => Sys2Proof.Machine.execFcas t b s
  | .fwait t b => Sys2Proof.Machine.execFwait t b s
  | .fwaitSatisfied t => Sys2Proof.Machine.execFwaitSatisfied t s
  | .bar t b => Sys2Proof.Machine.execBar t b s
  | .barrierComplete t => Sys2Proof.Machine.execBarrierComplete t s
  | .fence t b => Sys2Proof.Machine.execFence t b s
  | .ophint t b => Sys2Proof.Machine.execOphint t b s
  | .ccnt t b => Sys2Proof.Machine.execCcnt t b s
  | .caprd t b => Sys2Proof.Machine.execCaprd t b s
  | .rgrd t b => Sys2Proof.Machine.execRgrd t b s
  | .rgwr t b => Sys2Proof.Machine.execRgwr t b s
  | .yield t b => Sys2Proof.Machine.execYield t b s
  | .startAdmission d => Sys2Proof.Machine.execStartAdmission d s
  | .remoteAccessReceived => Sys2Proof.Machine.execRemoteAccessReceived s
  | .remoteResponseReceived => Sys2Proof.Machine.execRemoteResponseReceived s
  | .remoteFwaitAnswer n => Sys2Proof.Machine.execRemoteFwaitAnswer n s
  | .nopCommand h => Sys2Proof.Machine.execNopCommand h s
  | .regrd h => Sys2Proof.Machine.execRegrd h s
  | .regwr h => Sys2Proof.Machine.execRegwr h s
  | .packLoad h f => Sys2Proof.Machine.execPackLoad h f s
  | .contextCreate h => Sys2Proof.Machine.execContextCreate h s
  | .discard h => Sys2Proof.Machine.execDiscard h s
  | .launch h => Sys2Proof.Machine.execLaunch h s
  | .launchStart k => Sys2Proof.Machine.execLaunchStart k s
  | .resume h => Sys2Proof.Machine.execResume h s
  | .saveContext h => Sys2Proof.Machine.execSaveContext h s
  | .restoreContext h => Sys2Proof.Machine.execRestoreContext h s
  | .binding h => Sys2Proof.Machine.execBinding h s
  | .bindingComplete => Sys2Proof.Machine.execBindingComplete s
  | .linkRebindAbort => Sys2Proof.Machine.execLinkRebindAbort s
  | .rationSet h => Sys2Proof.Machine.execRationSet h s
  | .partitionMode h => Sys2Proof.Machine.execPartitionMode h s
  | .videoStreamOpen h => Sys2Proof.Machine.execVideoStreamOpen h s
  | .videoStreamClose h => Sys2Proof.Machine.execVideoStreamClose h s
  | .submit h => Sys2Proof.Machine.execSubmit h s
  | .frameStart e => Sys2Proof.Machine.execFrameStart e s
  | .sliceComplete e slice => Sys2Proof.Machine.execSliceComplete e slice s
  | .decodeRowComplete e rows => Sys2Proof.Machine.execDecodeRowComplete e rows s
  | .frameComplete e stream => Sys2Proof.Machine.execFrameComplete e stream s
  | .videoWatchdog e stream => Sys2Proof.Machine.execVideoWatchdog e stream s
  | .firmwareStage h erased written => Sys2Proof.Machine.execFirmwareStage h erased written s
  | .firmwareActivate h => Sys2Proof.Machine.execFirmwareActivate h s
  | .lanternRestart => Sys2Proof.Machine.execLanternRestart s
  | .attestationReport h => Sys2Proof.Machine.execAttestationReport h s
  | .bivouacExit h cause => Sys2Proof.Machine.execBivouacExit h cause s
  | .doorbellCmdtail qp n v => Sys2Proof.Machine.execDoorbellCmdtail qp n v s
  | .doorbellCplhead qp n v => Sys2Proof.Machine.execDoorbellCplhead qp n v s
  | .commandEntryRead n => Sys2Proof.Machine.execCommandEntryRead n s
  | .staleEntryReread n => Sys2Proof.Machine.execStaleEntryReread n s
  | .completionRecordWrite n => Sys2Proof.Machine.execCompletionRecordWrite n s
  | .queueConfigWrite p n reg v => Sys2Proof.Machine.execQueueConfigWrite p n reg v s
  | .rdmaWriteReceived qp va rkey data => Sys2Proof.Machine.execRdmaWriteReceived qp va rkey data s
  | .rdmaReadReceived qp va rkey len => Sys2Proof.Machine.execRdmaReadReceived qp va rkey len s
  | .cnpReceived qp => Sys2Proof.Machine.execCnpReceived qp s
  | .rateIncrease qp => Sys2Proof.Machine.execRateIncrease qp s
  | .req port service remote mtu peer => Sys2Proof.Machine.execReq port service remote mtu peer s
  | .rtu qp => Sys2Proof.Machine.execRtu qp s
  | .dreq qp => Sys2Proof.Machine.execDreq qp s
  | .rej qp => Sys2Proof.Machine.execRej qp s
  | .rdmaRetryExhausted qp => Sys2Proof.Machine.execRdmaRetryExhausted qp s
  | .frameReceived port f => Sys2Proof.Machine.execFrameReceived port f s
  | .portUp port => Sys2Proof.Machine.execPortUp port s
  | .portctlWrite p port v => Sys2Proof.Machine.execPortctlWrite p port v s
  | .mailboxDataWrite p m off data => Sys2Proof.Machine.execMailboxDataWrite p m off data s
  | .mailboxSend p m v => Sys2Proof.Machine.execMailboxSend p m v s
  | .mailboxTake p m => Sys2Proof.Machine.execMailboxTake p m s
  | .mctpVendorMessage i3c addr vid entry => Sys2Proof.Machine.execMctpVendorMessage i3c addr vid entry s
  | .setEndpointId i3c addr eid => Sys2Proof.Machine.execSetEndpointId i3c addr eid s
  | .getEndpointId i3c addr => Sys2Proof.Machine.execGetEndpointId i3c addr s
  | .getMctpVersionSupport i3c addr typ => Sys2Proof.Machine.execGetMctpVersionSupport i3c addr typ s
  | .getMessageTypeSupport i3c addr => Sys2Proof.Machine.execGetMessageTypeSupport i3c addr s
  | .getEndpointUuid i3c addr => Sys2Proof.Machine.execGetEndpointUuid i3c addr s
  | .getTid i3c addr => Sys2Proof.Machine.execGetTid i3c addr s
  | .getPldmVersion i3c addr typ => Sys2Proof.Machine.execGetPldmVersion i3c addr typ s
  | .getPldmTypes i3c addr => Sys2Proof.Machine.execGetPldmTypes i3c addr s
  | .getPldmCommands i3c addr typ => Sys2Proof.Machine.execGetPldmCommands i3c addr typ s
  | .getPdrRepositoryInfo i3c addr => Sys2Proof.Machine.execGetPdrRepositoryInfo i3c addr s
  | .getPdr i3c addr handle => Sys2Proof.Machine.execGetPdr i3c addr handle s
  | .getSensorReading i3c addr sensor => Sys2Proof.Machine.execGetSensorReading i3c addr sensor s
  | .getStateSensorReadings i3c addr sensor => Sys2Proof.Machine.execGetStateSensorReadings i3c addr sensor s
  | .setNumericSensorEnable i3c addr sensor on => Sys2Proof.Machine.execSetNumericSensorEnable i3c addr sensor on s
  | .setEventReceiver i3c addr eid => Sys2Proof.Machine.execSetEventReceiver i3c addr eid s
  | .registerWrite p addr size v => Sys2Proof.Machine.execRegisterWrite p addr size v s
  | .fpflagsClear p slot v => Sys2Proof.Machine.execFpflagsClear p slot v s
  | .numctlWrite p slot v => Sys2Proof.Machine.execNumctlWrite p slot v s
  | .histctlClr p slot set v => Sys2Proof.Machine.execHistctlClr p slot set v s
  | .fitstatClr p slot v => Sys2Proof.Machine.execFitstatClr p slot v s
  | .rcpstatClr p slot v => Sys2Proof.Machine.execRcpstatClr p slot v s
  | .fltringWrite p slot v => Sys2Proof.Machine.execFltringWrite p slot v s
  | .tailWrite p slot v => Sys2Proof.Machine.execTailWrite p slot v s
  | .ecccntClr p unit v => Sys2Proof.Machine.execEcccntClr p unit v s
  | .lanAlertClear p v => Sys2Proof.Machine.execLanAlertClear p v s
  | .samplerTest p d v => Sys2Proof.Machine.execSamplerTest p d v s
  | .hbmmapWrite p v => Sys2Proof.Machine.execHbmmapWrite p v s
  | .slotpartWrite p v => Sys2Proof.Machine.execSlotpartWrite p v s
  | .saveWindowAccess p addr write len => Sys2Proof.Machine.execSaveWindowAccess p addr write len s
  | .devnumWrite p v => Sys2Proof.Machine.execDevnumWrite p v s
  | .routingLoad p v => Sys2Proof.Machine.execRoutingLoad p v s
  | .routingCheckComplete => Sys2Proof.Machine.execRoutingCheckComplete s
  | .routingVectorTimeout link => Sys2Proof.Machine.execRoutingVectorTimeout link s
  | .routingActivate p v => Sys2Proof.Machine.execRoutingActivate p v s
  | .routingRetire p v => Sys2Proof.Machine.execRoutingRetire p v s
  | .stallAbort p v => Sys2Proof.Machine.execStallAbort p v s
  | .capWrite p v => Sys2Proof.Machine.execCapWrite p v s
  | .linkTrained link peerDev peerLevel peerLink => Sys2Proof.Machine.execLinkTrained link peerDev peerLevel peerLink s
  | .flitReceived link flit fecBad => Sys2Proof.Machine.execFlitReceived link flit fecBad s
  | .retryRequestReceived link seq => Sys2Proof.Machine.execRetryRequestReceived link seq s
  | .linkRetrain link => Sys2Proof.Machine.execLinkRetrain link s
  | .escapeMove link => Sys2Proof.Machine.execEscapeMove link s
  | .packetReceived => Sys2Proof.Machine.execPacketReceived s
  | .tableVectorReceived link vec => Sys2Proof.Machine.execTableVectorReceived link vec s
  | .keepalive k => Sys2Proof.Machine.execKeepalive k s
  | .memberLost k rank code => Sys2Proof.Machine.execMemberLost k rank code s
  | .abortReceived k status => Sys2Proof.Machine.execAbortReceived k status s
  | .transferStalled t => Sys2Proof.Machine.execTransferStalled t s
  | .followCeiling op => Sys2Proof.Machine.execFollowCeiling op s
  | .followRelease => Sys2Proof.Machine.execFollowRelease s
  | .rationPeriodBoundary => Sys2Proof.Machine.execRationPeriodBoundary s
  | .preemptionPointReached k => Sys2Proof.Machine.execPreemptionPointReached k s
  | .contextSaveComplete k => Sys2Proof.Machine.execContextSaveComplete k s
  | .contextRestoreComplete k => Sys2Proof.Machine.execContextRestoreComplete k s
  | .scrubRead addr => Sys2Proof.Machine.execScrubRead addr s
  | .regionClearWrite => Sys2Proof.Machine.execRegionClearWrite s
  | .memoryRetrain unit temp => Sys2Proof.Machine.execMemoryRetrain unit temp s
  | .sensorTrim die sensor delta => Sys2Proof.Machine.execSensorTrim die sensor delta s
  | .journalFlashCopy => Sys2Proof.Machine.execJournalFlashCopy s
  | .telemetryPeriodic => Sys2Proof.Machine.execTelemetryPeriodic s
  | .estimateLoopTick => Sys2Proof.Machine.execEstimateLoopTick s
  | .voltageSettled d => Sys2Proof.Machine.execVoltageSettled d s
  | .measuredSample mv ma => Sys2Proof.Machine.execMeasuredSample mv ma s
  | .calibrationFit => Sys2Proof.Machine.execCalibrationFit s
  | .powerExcessAlert => Sys2Proof.Machine.execPowerExcessAlert s
  | .powerExcessPersistent => Sys2Proof.Machine.execPowerExcessPersistent s
  | .droopDetected d count => Sys2Proof.Machine.execDroopDetected d count s
  | .droopRecovered d => Sys2Proof.Machine.execDroopRecovered d s
  | .droopLimitExpiry d => Sys2Proof.Machine.execDroopLimitExpiry d s
  | .sensorSample die readings hbm => Sys2Proof.Machine.execSensorSample die readings hbm s
  | .thermalCeilingStep d => Sys2Proof.Machine.execThermalCeilingStep d s
  | .thermalPersistent d => Sys2Proof.Machine.execThermalPersistent d s
  | .thermtrip => Sys2Proof.Machine.execThermtrip s
  | .hoursTick => Sys2Proof.Machine.execHoursTick s
  | .inputRailOutOfRange => Sys2Proof.Machine.execInputRailOutOfRange s
  | .computeDieLost d => Sys2Proof.Machine.execComputeDieLost d s
  | .memoryTrainingFailed unit => Sys2Proof.Machine.execMemoryTrainingFailed unit s
  | .hubUncorrectableError => Sys2Proof.Machine.execHubUncorrectableError s
  | .lanternWatchdogRestart third => Sys2Proof.Machine.execLanternWatchdogRestart third s
  | .bivouacPowerDownComplete => Sys2Proof.Machine.execBivouacPowerDownComplete s
  | .resetNAssert => Sys2Proof.Machine.execResetNAssert s
  | .resetNDeassert => Sys2Proof.Machine.execResetNDeassert s
  | .bootStageAdvance => Sys2Proof.Machine.execBootStageAdvance s
  | .trialWatchdog => Sys2Proof.Machine.execTrialWatchdog s
  | .pwrEnAssert => Sys2Proof.Machine.execPwrEnAssert s
  | .railsGood => Sys2Proof.Machine.execRailsGood s
  | .pwrEnDeassert => Sys2Proof.Machine.execPwrEnDeassert s
  | .pwrbrkAssert => Sys2Proof.Machine.execPwrbrkAssert s
  | .pwrbrkRelease => Sys2Proof.Machine.execPwrbrkRelease s
  | .standbyStart => Sys2Proof.Machine.execStandbyStart s
  | .standbyStop => Sys2Proof.Machine.execStandbyStop s
  | .inputOvervoltage => Sys2Proof.Machine.execInputOvervoltage s
  | .refclkLoss => Sys2Proof.Machine.execRefclkLoss s
  | .mgtclkLoss => Sys2Proof.Machine.execMgtclkLoss s
  | .ethclkLoss => Sys2Proof.Machine.execEthclkLoss s
  | .bypass => Sys2Proof.Machine.execBypass s
  | .idcode => Sys2Proof.Machine.execIdcode s
  | .samplePreload => Sys2Proof.Machine.execSamplePreload s
  | .extest => Sys2Proof.Machine.execExtest s
  | .extestPulse => Sys2Proof.Machine.execExtestPulse s
  | .extestTrain => Sys2Proof.Machine.execExtestTrain s
  | .uartRxByte byte => Sys2Proof.Machine.execUartRxByte byte s
  | .rawPwrbrkNEdge low => Sys2Proof.Machine.execRawPwrbrkNEdge low s
  | .heldResetNRelease => Sys2Proof.Machine.execHeldResetNRelease s
  | .minimumOffTimeElapsed => Sys2Proof.Machine.execMinimumOffTimeElapsed s
  | .inputSwitchClosure => Sys2Proof.Machine.execInputSwitchClosure s
  | .ethclkReturn => Sys2Proof.Machine.execEthclkReturn s
  | .mgtclkReturn => Sys2Proof.Machine.execMgtclkReturn s
  | .refclkReturn => Sys2Proof.Machine.execRefclkReturn s
  | .pcsAlignmentLost port => Sys2Proof.Machine.execPcsAlignmentLost port s
  | .ackTimeout qp => Sys2Proof.Machine.execAckTimeout qp s
  | .pfcPauseExpiry port prio => Sys2Proof.Machine.execPfcPauseExpiry port prio s
  | .pldmSensorUpdate values crossed => Sys2Proof.Machine.execPldmSensorUpdate values crossed s
  | .dynamicAddressAssignment addr => Sys2Proof.Machine.execDynamicAddressAssignment addr s
  | .memorySymbolError addr sym flip => Sys2Proof.Machine.execMemorySymbolError addr sym flip s

end Sys2Proof.Machine
end

