-- ==== Sys2Proof/Machine/Step.lean ====
section
/-!
DEFINITION. A step takes the command at the front of the queue and runs it with the queue's rest; on an empty queue the
block idles (log 1, DESIGN CHOICE).
-/
namespace Sys2Proof.Machine

/-- The state without the front of its queue. -/
def State.rest (s : State) : State := { s with pending := s.pending.tail }

/-- One step. (log 1, DESIGN CHOICE) -/
def step (s : State) : Host.Outcome State Fault Refusal :=
  match s.pending with
  | [] => .next s
  | c :: _ => exec c s.rest

/-- The state with the command a word spells at the front of its queue; the table spells none. -/
def State.withFetchWord (s : State) (nbits w : Nat) : State :=
  match Sys2Proof.decodeTableWord nbits w with
  | some c => { s with pending := c :: s.pending }
  | none => s

end Sys2Proof.Machine
end

