-- ==== Sys2Proof/Machine/Symbols.lean ====
section
/-!
DEFINITION. The symbol code of protected memory (R259, R260): its field, its codewords, and what their syndromes say.
-/
namespace Sys2Proof.Machine

/-- The product of a field element and α = 0x02, modulo x⁸ + x⁴ + x³ + x² + 1 (R259). -/
def gfDouble (a : Byte) : Byte := (a <<< 1) ^^^ (if a.msb then 0x1D else 0)

/-- The product of a field element and the n-th power of α. -/
def gfShift (a : Byte) : Nat → Byte
  | 0 => a
  | n + 1 => gfDouble (gfShift a n)

/-- The product of two field elements. -/
def gfMul (a b : Byte) : Byte :=
  (List.range 8).foldl (fun r i => if b.getLsbD i then r ^^^ gfShift a i else r) 0

/-- g(x) = (x + α⁰)(x + α¹)(x + α²)(x + α³) without its leading term, highest power first (R259). -/
def codeGen : List Byte :=
  (((List.range 4).foldl (fun (g : List Byte) j =>
    List.zipWith (· ^^^ ·) (g ++ [0]) (0 :: g.map fun c => gfShift c j)) [1]).drop 1)

/-- One step of the division by g(x): the remainder so far, highest power first, with the next data byte. -/
def divStep (r : List Byte) (d : Byte) : List Byte :=
  let f := r.headD 0 ^^^ d
  List.zipWith (· ^^^ ·) (r.drop 1 ++ [0]) (codeGen.map (gfMul f))

/-- The four check bytes of 64 data bytes (R259): the remainder of d(x)·x⁴, where d(x) has byte i at x^(67−i), divided by g(x). (log 79, DEDUCED) -/
def checkBytes (data : List Byte) : List Byte := (data ++ List.replicate 4 0).foldl divStep (List.replicate 4 0)

/-- The 68 symbols of a codeword. (log 79, DEDUCED) -/
def codeword (data : List Byte) : List Byte := data ++ checkBytes data

/-- The power of x at a symbol of d(x)·x⁴ plus its remainder (R259): data byte i at x^(71−i), check byte 64 + j at x^(3−j). (log 79, DEDUCED) -/
def symPower (i : Nat) : Nat := if i < 64 then 71 - i else 67 - i

/-- The syndromes of 68 symbols: the word's polynomial at α⁰ to α³. (log 79, DEDUCED) -/
def syndromes (word : List Byte) : List Byte :=
  (List.range 4).map fun j => (word.take 64 ++ List.replicate 4 0 ++ word.drop 64).foldl (fun r c => gfShift r j ^^^ c) 0

/-- The one erroneous symbol, and the value to XOR into it, that syndromes identify (R260): none where they are all zero, or
where no single symbol explains them. -/
def oneSymbol (syn : List Byte) : Option (Nat × Byte) :=
  let v := syn.headD 0
  if v = 0 then none
  else ((List.range 68).find? fun i =>
    (List.range 4).all fun j => gfShift v (j * symPower i) == syn.getD j 0).map fun i => (i, v)

/-- The 68 symbols that a protected memory holds at a word: the codeword of its data with the erroneous symbols' values XORed in.
(log 79, DEDUCED) -/
def heldWord (sp : Space) (m : Mem) (e : Ecc) (w : Nat) : List Byte :=
  ((lookup e.errs (sp.off + w / 64)).getD []).foldl (fun bs p => bs.modify p.1 (· ^^^ p.2)) (codeword (m.read w 64))

end Sys2Proof.Machine
end

