-- ==== Sys2Proof/Safety.lean ====
section
/-!
DEFINITION. What a safe state of the block is, and the terms the claims use: an instruction that executes, and the state a
completed instruction leaves.
-/
namespace Sys2Proof.Machine

/-- Main memory keeps its canonical form. -/
def State.memWf (s : State) : Prop := s.core.mem.wf = true

/-- The core power of a module whose thermal trip is latched is off (R344, R411). -/
def State.tripSafe (s : State) : Prop := s.board.thermtrip = true → s.board.corePower = false

/-- The view of a strand for which an instruction word executes: the strand may issue (R107), its word is fetched (R117), class,
reserved bits and operand fields are in order (R121, R125), and its predicate condition holds (R122). None otherwise. -/
def running (s : State) (t : StrandId) (b : Body) (op : Nat) : Option X :=
  match viewOf (s.envOf t.ctx.val) s.core t.ctx.val t.idx.val op with
  | none => none
  | some x =>
    if x.ready = true then
      match fetchCheck x, encCheck op (insOf b) with
      | .ok y, .ok _ => if (y.p (insOf b).pred != (insOf b).psense) = true then some y else none
      | _, _ => none
    else none

/-- The same for an instruction whose predicate condition fails: it is skipped (R122). -/
def skipping (s : State) (t : StrandId) (b : Body) (op : Nat) : Option X :=
  match viewOf (s.envOf t.ctx.val) s.core t.ctx.val t.idx.val op with
  | none => none
  | some x =>
    if x.ready = true then
      match fetchCheck x, encCheck op (insOf b) with
      | .ok y, .ok _ => if (y.p (insOf b).pred != (insOf b).psense) = true then none else some y
      | _, _ => none
    else none

/-- The checks 1 to 3 of an instruction beyond its encoding, by opcode (R111): those of its descriptors and formats. The others have
none. -/
def checkOf (op : Nat) (x : X) (i : Ins) : Res Unit :=
  match op with
  | 0x30 => (vldChk x i).map fun _ => ()
  | 0x31 => (vstChk x i).map fun _ => ()
  | 0x40 | 0x41 => dAddrChk x i
  | 0x44 => (tldChk x i).map fun _ => ()
  | 0x45 => (tstChk x i).map fun _ => ()
  | 0x51 | 0x52 => mmaFormats i
  | 0x60 | 0x63 => (gemmChk x i).map fun _ => ()
  | 0x61 => (convChk x i).map fun _ => ()
  | 0x62 => (attnChk x i).map fun _ => ()
  | 0x68 => (rapplyChk x i).map fun _ => ()
  | 0x71 => (kvputChk x i).map fun _ => ()
  | 0x72 => (msumChk x i).map fun _ => ()
  | 0x73 => (bsortChk x i).map fun _ => ()
  | 0x7B => (tfillChk x i).map fun _ => ()
  | 0x7C => (sampleChk x i).map fun _ => ()
  | 0x80 => (pressChk x i).map fun _ => ()
  | 0x81 => (phistChk x i).map fun _ => ()
  | 0x88 => (collChk x i).map fun _ => ()
  | 0x8A => (rputChk x i).map fun _ => ()
  | 0x8B => (xdispChk x i).map fun _ => ()
  | 0x8C => (xcombChk x i).map fun _ => ()
  | _ => .ok ()

/-- No NaN trap is taken (R58): NANTRAP was 0 when the instruction issued, or it created no NaN. -/
def untrapped (y z : X) : Prop := y.trapOn = false ∨ z.nan = none

/-- The state that an instruction of a strand leaves when it completes with the view `z`. -/
def State.completed (s : State) (t : StrandId) (z : X) : State := ((s.onCore fun _ => z.finish.commit).onFault t.ctx.val).settle

/-- The state that an instruction leaves when it waits, having done `z`. -/
def State.waiting (s : State) (t : StrandId) (b : Body) (w : Wait) (z : X) : State :=
  ((s.onCore fun _ => z.hold w b).onFault t.ctx.val).settle

/-- The state that an instruction leaves that created the NaN `n` under the NaN trap, having computed the view `z` (R58). -/
def State.trapped (s : State) (t : StrandId) (b : Body) (y z : X) (n : NanInfo) : State :=
  ((s.onCore fun _ => takeTrap { y with c := { y.c with ecc := y.c.ecc.afterStop z.c.ecc } } b n).onFault t.ctx.val).settle

/-- Every stored word with errors has one to three wrong symbols, as many as the code tells apart (R260, Table 12.4). -/
def State.fewErrors (s : State) : Prop := ∀ p ∈ s.core.ecc.errs, 1 ≤ p.2.length ∧ p.2.length ≤ 3

/-- No stored word has errors, is in the bad-word table, or awaits a transfer that fails (R260, R264). -/
abbrev State.noErrors (s : State) : Prop := s.core.ecc.errs = [] ∧ s.core.ecc.bad = [] ∧ s.core.ecc.once = []

/-- The state that an instruction leaves that faults, having done nothing (R88, R124). -/
def State.faulting (s : State) (t : StrandId) (x : X) (f : FaultInfo) : State :=
  ((s.onCore fun _ => (x.commit.keepReads f).raise x.env.dev x.k x.i f).onFault t.ctx.val).settle

/-- The order of power and reset (R404 to R407): power good needs the rails, the input and PWR_EN; RESET_N is deasserted inside only
while power is good; boot, bivouac mode, a restart asked for and core power need RESET_N deasserted; a latched thermal trip
keeps core power off (R344). -/
def State.powerOrder (s : State) : Prop :=
  (s.board.pgood = true → s.board.on = true ∧ s.board.rails = true ∧ s.board.input = true ∧ s.board.overvolt = false) ∧
  (s.board.resetN = true → s.board.pgood = true) ∧
  (s.sec.stage ≠ 0 ∨ s.lan.bivActive = true ∨ s.sec.wantRestart.isSome = true ∨ s.board.corePower = true → s.board.resetN = true) ∧
  s.tripSafe

/-! ### Commands of hosts, and register writes -/

/-- A host command has started with the OPC of its row (R303, R305), comes to its turn, and its path's partition may give it (R305, R318,
R369): it is carried out. -/
abbrev State.admits (s : State) (h : HostCmd) (opc : Nat) (ctx : Option Nat) : Prop :=
  s.started.contains h = true ∧ h.opc = opc ∧ s.gate h.path opc = .run ∧ ctx.any (fun k => (lookup s.core.ctxs k).any fun cx => cx.moving != .none) = false ∧ s.allow h opc ctx = 0

/-- The state in which a host command is carried out: it waits no longer. -/
def State.turn (s : State) (h : HostCmd) : State := { s with started := s.started.erase h }

/-- A path's write reaches a register: Lantern serves it, it is open to the path (R296, R300, R301), and in bivouac mode the path is
kept (R398). -/
abbrev State.reaches (s : State) (p : Path) (r : Reg) : Prop :=
  s.regsUp = true ∧ s.opens p (some r) true = true ∧ (s.lan.bivActive = true → s.keeps p = true)

/-- A row's write reaches a register: a queue pair's through a window that covers it (R299), and its path reaches it. -/
abbrev State.rowReaches (s : State) (p : Path) (a : Nat) (r : Reg) : Prop :=
  s.through p (s.spellings a) 8 true = true ∧ s.reaches p r

/-- The state with a register write journalled, before it takes effect (R389). -/
def State.logged (s : State) (p : Path) (a : Nat) (r : Reg) (v : Nat) : State :=
  s.journal (s.srcOf p) { kind := 1, code := 0, addr := a, old := s.regRead r, new := v }

end Sys2Proof.Machine
end

