-- ==== Sys2Proof/Certificates/Slice0/Obligations.lean ====
section
/-!
DEFINITION. The statements for the provers. A statement about an instruction of a strand speaks of `y`, the strand's view once
the instruction is fetched and its encoding and predicate checks have passed (`running`), of the view `z` it completes with,
and of the state `s.completed t z` that this leaves.
-/
open Sys2Proof Sys2Proof.Machine

/-! ### The machine as a whole -/

/-- A step takes the command at the front of the queue and runs it with the rest of the queue; on an empty queue the block idles
(the model's choice, log 1, DESIGN CHOICE). -/
def Obligations.StepRunsTheFrontCommand : Prop :=
  (∀ (s : State) (c : Instr) (q : List Instr), s.pending = c :: q → step s = exec c { s with pending := q }) ∧
  (∀ s : State, s.pending = [] → step s = .next s)

/-- Every command answers a next state: nothing stops the machine; refused accesses, statuses and fault records are state
(R109, R304). -/
def Obligations.EveryCommandAnswersANextState : Prop := ∀ (c : Instr) (s : State), ∃ s', exec c s = .next s'

/-- No command touches the commands that wait behind it. -/
def Obligations.CommandsKeepTheQueue : Prop := ∀ (c : Instr) (s s' : State), exec c s = .next s' → s'.pending = s.pending

/-! ### Instructions of strands: scalar, control, vectors, descriptors -/

/-- R126 and R87, R114, R333: each scalar instruction completes with its result in its destination; branches move the pc, CALL also
writes its link register, END ends the strand and its launch. -/
def Obligations.ScalarAndControlInstructionsComplete : Prop :=
  (∀ (s : State) (t : StrandId) (b : Body) (y : X),
      (running s t b 0x00 = some y → exec (.nop t b) s = .next (s.completed t y)) ∧
      (running s t b 0x01 = some y → exec (.salu t b) s =
        .next (s.completed t (y.setS (insOf b).op1 (salu (insOf b).func (y.s (insOf b).op2) (y.s (insOf b).op3))))) ∧
      (running s t b 0x02 = some y → exec (.salui t b) s =
        .next (s.completed t (y.setS (insOf b).op1 (salu (insOf b).func (y.s (insOf b).op2) (insOf b).imm)))) ∧
      (running s t b 0x03 = some y → exec (.scmp t b) s =
        .next (s.completed t (y.setP (insOf b).op1 (scmp (insOf b).func (y.s (insOf b).op2) (y.s (insOf b).op3))))) ∧
      (running s t b 0x04 = some y → exec (.scmpi t b) s =
        .next (s.completed t (y.setP (insOf b).op1 (scmp (insOf b).func (y.s (insOf b).op2) (insOf b).imm)))) ∧
      (running s t b 0x05 = some y → exec (.plog t b) s =
        .next (s.completed t (y.setP (insOf b).op1 (plog (insOf b).func (y.p (insOf b).op2) (y.p (insOf b).op3))))) ∧
      (running s t b 0x06 = some y → exec (.smovi t b) s = .next (s.completed t (y.setS (insOf b).op1 (insOf b).imm))) ∧
      (running s t b 0xB0 = some y → exec (.ophint t b) s =
        .next (s.completed t { y with r := { y.r with prefer := (insOf b).imm } })) ∧
      (running s t b 0xC0 = some y → exec (.ccnt t b) s =
        .next (s.completed t (({ y with c := (y.c.readCclk y.die).2 } : X).setS (insOf b).op1 (y.c.readCclk y.die).1))) ∧
      (running s t b 0xC1 = some y → exec (.caprd t b) s = .next (s.completed t (y.setS (insOf b).op1 (capReg (insOf b).func)))) ∧
      (running s t b 0xC4 = some y → exec (.yield t b) s = .next (s.completed t y))) ∧
  (∀ (s : State) (t : StrandId) (b : Body) (y : X),
      (running s t b 0x10 = some y → exec (.br t b) s = .next (s.completed t { y with jump := some (branchTo y (insOf b).imm) })) ∧
      (running s t b 0x11 = some y → exec (.call t b) s =
        .next (s.completed t { y.setS (insOf b).op1 (y.r.pc.toNat + 16) with jump := some (branchTo y (insOf b).imm) })) ∧
      (running s t b 0x12 = some y → exec (.bri t b) s =
        .next (s.completed t { y with jump := some (y.s (insOf b).op2 / 16 * 16) })) ∧
      (running s t b 0x13 = some y → exec (.endStrand t b) s =
        .next ((((s.onCore fun _ => ({ y with ended := true } : X).finish.commit).onFault t.ctx.val).endOf t.ctx.val).settle)))

/-- R127, R128, R131: scalar loads and stores, loads and stores of descriptors whose access is permitted; words of descriptor
registers, broadcasts, and moves between vector and scalar registers. -/
def Obligations.MovesLoadsAndStoresComplete : Prop :=
  (∀ (s : State) (t : StrandId) (b : Body) (y z : X) (bs : List Byte),
      (running s t b 0x07 = some y →
        y.load ((y.s (insOf b).op2 + (insOf b).imm) % 2 ^ 64) (sldSize (insOf b).func) 2 = .ok (bs, z) →
        exec (.sld t b) s = .next (s.completed t (z.setS (insOf b).op1 (sldExtend (insOf b).func (ofLE bs))))) ∧
      (running s t b 0x08 = some y →
        y.store ((y.s (insOf b).op2 + (insOf b).imm) % 2 ^ 64) (leBytes (sstSize (insOf b).func) (y.s (insOf b).op3)) 2 = .ok z →
        exec (.sst t b) s = .next (s.completed t z)) ∧
      (running s t b 0x40 = some y → dAddr y (insOf b) % 64 = 0 → y.load (dAddr y (insOf b)) 64 2 = .ok (bs, z) →
        exec (.dld t b) s = .next (s.completed t (z.setD (insOf b).op1 (ofLE bs)))) ∧
      (running s t b 0x41 = some y → dAddr y (insOf b) % 64 = 0 →
        y.store (dAddr y (insOf b)) (leBytes 64 (y.d (insOf b).op3)) 2 = .ok z →
        exec (.dst t b) s = .next (s.completed t z))) ∧
  (∀ (s : State) (t : StrandId) (b : Body) (y : X),
      (running s t b 0x42 = some y → exec (.dset t b) s = .next (s.completed t
        (y.setD (insOf b).op1 (setBits (y.d (insOf b).op1) (64 * (insOf b).func) 64 (y.s (insOf b).op2))))) ∧
      (running s t b 0x43 = some y → exec (.dget t b) s = .next (s.completed t
        (y.setS (insOf b).op1 (bits (y.d (insOf b).op2) (64 * (insOf b).func) 64)))) ∧
      (running s t b 0x27 = some y → exec (.vmovs t b) s = .next (s.completed t
        (y.setS (insOf b).op1 ((y.v (insOf b).op2).getD (y.s (insOf b).op3 % 64) 0)))) ∧
      (running s t b 0x23 = some y → exec (.vsel t b) s = .next (s.completed t
        (y.setV (insOf b).op1 ((List.range 64).map fun k =>
          if (y.v (insOf b).op4).getD k 0 ≠ 0 then (y.v (insOf b).op2).getD k 0 else (y.v (insOf b).op3).getD k 0)))) ∧
      (running s t b 0x26 = some y → exec (.vbcast t b) s = .next (s.completed t
        (y.putLanes (insOf b).op1 (y.sel (insOf b)) (List.replicate 64 (y.s (insOf b).op2 % 2 ^ 32, Ev.none))))) ∧
      (running s t b 0x25 = some y → exec (.vperm t b) s = .next (s.completed t (y.putLanes (insOf b).op1 (y.sel (insOf b))
        ((y.v (insOf b).op3).map fun k => ((y.v (insOf b).op2).getD (k % 64) 0, Ev.none))))))

/-- R128, Table 5.12: VALU and VFMA on FP32, integer and FP64 elements; a NaN trap that is taken is another statement. -/
def Obligations.VectorArithmeticCompletes : Prop :=
  ∀ (s : State) (t : StrandId) (b : Body) (y z : X), untrapped y z →
    let i := insOf b
    (running s t b 0x20 = some y → i.func < 0x80 →
      z = y.putLanes i.op1 (y.sel i) (lanes2 (valu32 i.func) (y.v i.op2) (y.v i.op3)) →
      exec (.valu t b) s = .next (s.completed t z)) ∧
    (running s t b 0x20 = some y → 0x80 ≤ i.func → i.func ≤ 0x89 →
      z = y.putPairs i.op1 (y.sel i) (lanes2 (valu64 i.func) (y.pair i.op2) (y.pair i.op3)) →
      exec (.valu t b) s = .next (s.completed t z)) ∧
    (running s t b 0x20 = some y → i.func = 0x8C →
      z = y.putPairs i.op1 (y.sel i) ((y.v i.op2).map fun a => roundNum fp64 0 false 0 (d32 a)) →
      exec (.valu t b) s = .next (s.completed t z)) ∧
    (running s t b 0x20 = some y → i.func = 0x8D →
      z = y.putLanes i.op1 (y.sel i) ((y.pair i.op2).map fun a => roundNum fp32 0 false 0 (d64 a)) →
      exec (.valu t b) s = .next (s.completed t z)) ∧
    (running s t b 0x21 = some y → i.func = 0 →
      z = y.putLanes i.op1 (fun _ => true) (List.zipWith (fun p c => ffma p.1 p.2 c) ((y.v i.op2).zip (y.v i.op3)) (y.v i.op4)) →
      exec (.vfma t b) s = .next (s.completed t z)) ∧
    (running s t b 0x21 = some y → i.func = 0x80 →
      z = y.putPairs i.op1 (fun _ => true)
        (List.zipWith (fun p c => fmaC fp64 p.1 p.2 c) ((y.pair i.op2).zip (y.pair i.op3)) (y.pair i.op4)) →
      exec (.vfma t b) s = .next (s.completed t z))

/-- R128, R129, R184, R185, R188, R199: comparisons, reductions, exponentials, logarithms, tables and statistics. -/
def Obligations.RowFunctionsComplete : Prop :=
  ∀ (s : State) (t : StrandId) (b : Body) (y z : X), untrapped y z →
    let i := insOf b
    (running s t b 0x22 = some y → i.func < 0x10 →
      z = y.putLanes i.op1 (y.sel i) (lanes2 (fun a c => cmpLane i.func (d32 a) (d32 c)) (y.v i.op2) (y.v i.op3)) →
      exec (.vcmp t b) s = .next (s.completed t z)) ∧
    (running s t b 0x22 = some y → 0x10 ≤ i.func → i.func < 0x80 →
      z = y.putLanes i.op1 (y.sel i) (lanes2 (fun a c => (boolLane (icmp (i.func - 0x10) a c), Ev.none)) (y.v i.op2) (y.v i.op3)) →
      exec (.vcmp t b) s = .next (s.completed t z)) ∧
    (running s t b 0x22 = some y → 0x80 ≤ i.func →
      z = y.putLanes i.op1 (y.sel i) (lanes2 (fun a c => cmpLane (i.func - 0x80) (d64 a) (d64 c)) (y.pair i.op2) (y.pair i.op3)) →
      exec (.vcmp t b) s = .next (s.completed t z)) ∧
    (running s t b 0x24 = some y → i.func ≤ 3 →
      (∃ r, r = treeC ([addR fp32, fmax, fmin, valu32 0x10].getD i.func (addR fp32))
          ((List.range 64).map fun k => if y.sel i k then (y.v i.op2).getD k 0
            else [0x80000000, negInf32, 0x7F800000, 0].getD i.func 0) 0 ∧
        z = (y.note r.2 (laneLoc 0)).setV i.op1 [r.1]) →
      exec (.vred t b) s = .next (s.completed t z)) ∧
    (running s t b 0x24 = some y → i.func = 0x80 →
      (∃ r, r = treeC (addR fp64) ((List.range 64).map fun k => if y.sel i k then (y.pair i.op2).getD k 0 else 2 ^ 63) 0 ∧
        z = (y.note r.2 (laneLoc 0)).setPair i.op1 [r.1]) →
      exec (.vred t b) s = .next (s.completed t z)) ∧
    (running s t b 0x28 = some y → z = y.putLanes i.op1 (y.sel i) ((y.v i.op2).map vexp2) →
      exec (.vexp2 t b) s = .next (s.completed t z)) ∧
    (running s t b 0x29 = some y → z = y.putLanes i.op1 (y.sel i) ((y.v i.op2).map vlog2) →
      exec (.vlog2 t b) s = .next (s.completed t z)) ∧
    (running s t b 0x2A = some y → z = y.putLanes i.op1 (y.sel i) ((y.v i.op2).map (vtab (y.table i.func))) →
      exec (.vtab t b) s = .next (s.completed t z)) ∧
    (running s t b 0x2B = some y →
      (∃ r, r = vstat (y.v i.op1) ((List.range 64).map fun k => if y.sel i k then some ((y.v i.op2).getD k 0) else none) ∧
        z = ((((r.1 ++ r.2).foldl (fun (w : X) e => w.note e.2 (laneLoc 0)) y).setV i.op1 (r.1.map Prod.fst)).setV
          (i.op1 + 1) (r.2.map Prod.fst))) →
      exec (.vstat t b) s = .next (s.completed t z))

/-- R130, R423: vector loads and stores through a descriptor, and moves between vector registers and ACM slots. -/
def Obligations.VectorMemoryCompletes : Prop :=
  ∀ (s : State) (t : StrandId) (b : Body) (y w z : X) (d : Td) (cs : List Nat) (vs : List Val), untrapped y z →
    let i := insOf b
    (running s t b 0x30 = some y → y.dreg i.op2 (vmemUse i false) = .ok d → d.fmt = 0 →
      y.rowCodes d (y.s i.op3) (y.s i.op4) 64 = .ok (cs, w) → z = w.putPairs i.op1 (fun _ => true) (cs.map fun c => (c, Ev.none)) →
      exec (.vld t b) s = .next (s.completed t z)) ∧
    (running s t b 0x30 = some y → y.dreg i.op2 (vmemUse i false) = .ok d → d.fmt = 1 →
      y.rowCodes d (y.s i.op3) (y.s i.op4) 64 = .ok (cs, w) → z = w.putLanes i.op1 (fun _ => true) (cs.map fun c => (c, Ev.none)) →
      exec (.vld t b) s = .next (s.completed t z)) ∧
    (running s t b 0x30 = some y → y.dreg i.op2 (vmemUse i false) = .ok d → 2 ≤ d.fmt →
      y.rowVals d .col (y.s i.op3) (y.s i.op4) 64 = .ok (vs, w) →
      z = w.putLanes i.op1 (fun _ => true) (vs.map fun v => match v with
        | .f n => roundNum fp32 0 false 0 n
        | .i n => (encInt 32 n, Ev.none)) →
      exec (.vld t b) s = .next (s.completed t z)) ∧
    (running s t b 0x31 = some y → y.dreg i.op2 (vmemUse i true) = .ok d → (d.scaled = false ∨ y.s i.op4 % 32 = 0) → d.fmt ≤ 1 →
      y.s i.op3 < d.rows → y.s i.op4 < d.e0 →
      y.putCodes d (y.s i.op3) (y.s i.op4) ((if d.fmt = 0 then y.pair i.op1 else y.v i.op1).take (d.e0 - y.s i.op4)) = .ok z →
      exec (.vst t b) s = .next (s.completed t z)) ∧
    (running s t b 0x31 = some y → y.dreg i.op2 (vmemUse i true) = .ok d → (d.scaled = false ∨ y.s i.op4 % 32 = 0) → 2 ≤ d.fmt →
      (∃ els, y.putRow d (y.s i.op3) (y.s i.op4) (vstVals d (y.v i.op1))
        (fun k => { cause := 0, row := y.s i.op3 % 2 ^ 32, col := (y.s i.op4 + k) % 2 ^ 32 }) = .ok (els, z)) →
      exec (.vst t b) s = .next (s.completed t z)) ∧
    (running s t b 0x32 = some y → i.op2 < y.r.acmAlloc → y.slotWords i.op2 = .ok (cs, w) →
      z = w.setV i.op1 ((cs.drop (64 * (y.s i.op3 % 16))).take 64) →
      exec (.vtrd t b) s = .next (s.completed t z)) ∧
    (running s t b 0x33 = some y → i.op2 < y.r.acmAlloc → (y.accAt i.op2).all (fun a => a.2.finished) = true →
      y.slotWords i.op2 = .ok (cs, w) →
      (∃ u, u = w.tileWrite true (4096 * i.op2 + 4 * (64 * (y.s i.op3 % 16))) (((List.range 64).map fun k =>
          if y.sel i k then (y.v i.op1).getD k 0 else cs.getD (64 * (y.s i.op3 % 16) + k) 0).flatMap (leBytes 4)) ∧
        z = { u with tm := { u.tm with accs := match y.accAt i.op2 with
          | some a => eraseKey a.1 u.tm.accs
          | none => u.tm.accs } }) →
      exec (.vtwr t b) s = .next (s.completed t z))

/-- R132 to R136, R74, R75: tile loads and stores, and accumulations opened, advanced, finished, exported, imported and reduced,
whose checks pass and whose accesses are permitted. -/
def Obligations.TilesAndAccumulationsComplete : Prop :=
  (∀ (s : State) (t : StrandId) (b : Body) (y z : X), untrapped y z →
      (∀ d : Td, running s t b 0x44 = some y → tldChk y (insOf b) = .ok d → tldRun y (insOf b) d = .ok z →
        exec (.tld t b) s = .next (s.completed t z)) ∧
      (∀ d : Td, running s t b 0x45 = some y → tstChk y (insOf b) = .ok d → tstRun y (insOf b) d = .ok z →
        exec (.tst t b) s = .next (s.completed t z))) ∧
  (∀ (s : State) (t : StrandId) (b : Body) (y z : X), untrapped y z →
      let i := insOf b
      (∀ k, running s t b 0x50 = some y → aopenRule y.r.acmAlloc i = .ok k →
        z = y.openAt i.op1 k (bit i.imm 59) (bit i.imm 60) (bits i.imm 54 5) (bits i.imm 32 22) (bits i.imm 0 32)
          (y.s i.op2 % 2 ^ 32) (y.s i.op3 % 2 ^ 32) →
        exec (.aopen t b) s = .next (s.completed t z)) ∧
      (running s t b 0x51 = some y → mmaFormats i = .ok () → mmaRun y i () = .ok z → exec (.mma t b) s = .next (s.completed t z)) ∧
      (running s t b 0x52 = some y → mmaFormats i = .ok () → mconvRun y i () = .ok z →
        exec (.mconv t b) s = .next (s.completed t z)) ∧
      (∀ a, running s t b 0x53 = some y → afinChk y i = .ok a → y.finished i.op1 a a.place = .ok z →
        exec (.afin t b) s = .next (s.completed t z)) ∧
      (running s t b 0x54 = some y → aexpRun y i () = .ok z → exec (.aexp t b) s = .next (s.completed t z)) ∧
      (running s t b 0x55 = some y → aimpRun y i () = .ok z → exec (.aimp t b) s = .next (s.completed t z)) ∧
      (running s t b 0x56 = some y → gredRun y i () = .ok z → exec (.gred t b) s = .next (s.completed t z)))

/-- R148, R155, R161, R205: the Ladle macros, RAPPLY and ATTN, whose blocks, descriptors and recipes pass their checks. -/
def Obligations.MacrosComplete : Prop :=
  ∀ (s : State) (t : StrandId) (b : Body) (y w z : X), untrapped y z →
    let i := insOf b
    (∀ ts q v, running s t b 0x60 = some y → gemmChk y i = .ok ts → y.gemmPlan i 1 .gemm ts = .ok (q, v) →
      v.inTeam q.mp.teamBase q.mp.team = .ok () →
      v.points 0 (q.p.points q.mp q.rc v.r.rank (ceilDiv q.p.mb q.mp.bm) 0 0).1 = .ok w → z = w.closeMacro q.mp →
      exec (.gemm t b) s = .next (s.completed t z)) ∧
    (∀ ts q v, running s t b 0x61 = some y → convChk y i = .ok ts → y.convPlan i ts = .ok (q, v) →
      v.inTeam q.mp.teamBase q.mp.team = .ok () →
      v.points 0 (q.p.points q.mp q.rc v.r.rank (ceilDiv q.p.mb q.mp.bm) 0 0).1 = .ok w → z = w.closeMacro q.mp →
      exec (.convolve t b) s = .next (s.completed t z)) ∧
    (∀ ts, running s t b 0x63 = some y → gemmChk y i = .ok ts → bgemmRun y i ts = .ok z →
      exec (.bgemm t b) s = .next (s.completed t z)) ∧
    (∀ q, running s t b 0x68 = some y → rapplyChk y i = .ok q → rapplyRun y i q = .ok z →
      exec (.rapply t b) s = .next (s.completed t z)) ∧
    (∀ q, running s t b 0x62 = some y → attnChk y i = .ok q → attnRun y i q = .ok z →
      exec (.attn t b) s = .next (s.completed t z))

/-- R210, R214, R216, R217: page tables published, key and value rows written, masks summarised, lengths sorted. -/
def Obligations.PageInstructionsComplete : Prop :=
  ∀ (s : State) (t : StrandId) (b : Body) (y z : X), untrapped y z →
    let i := insOf b
    (running s t b 0x70 = some y → ptpubRun y i () = .ok z → exec (.ptpub t b) s = .next (s.completed t z)) ∧
    (∀ q, running s t b 0x71 = some y → kvputChk y i = .ok q → kvputRun y i q = .ok z →
      exec (.kvput t b) s = .next (s.completed t z)) ∧
    (∀ q, running s t b 0x72 = some y → msumChk y i = .ok q → msumRun y i q = .ok z →
      exec (.msum t b) s = .next (s.completed t z)) ∧
    (∀ q, running s t b 0x73 = some y → bsortChk y i = .ok q → bsortRun y i q = .ok z →
      exec (.bsort t b) s = .next (s.completed t z))

/-- R226, R227, R229: Tinder words, uniform and normal values into a vector register; filled tensors; draws. -/
def Obligations.DrawInstructionsComplete : Prop :=
  ∀ (s : State) (t : StrandId) (b : Body) (y z : X), untrapped y z →
    let i := insOf b
    (running s t b 0x78 = some y → z = y.setV i.op1 (tndWords y i) → exec (.tndw t b) s = .next (s.completed t z)) ∧
    (running s t b 0x79 = some y → z = y.setV i.op1 ((tndWords y i).map uniform32) →
      exec (.tndu t b) s = .next (s.completed t z)) ∧
    (running s t b 0x7A = some y → z = y.putLanes i.op1 (fun _ => true) ((tndWords y i).map normal32) →
      exec (.tndn t b) s = .next (s.completed t z)) ∧
    (∀ d, running s t b 0x7B = some y → tfillChk y i = .ok d → tfillRun y i d = .ok z →
      exec (.tfill t b) s = .next (s.completed t z)) ∧
    (∀ q, running s t b 0x7C = some y → sampleChk y i = .ok q → sampleRun y i q = .ok z →
      exec (.sample t b) s = .next (s.completed t z))

/-- R241, R243, R244: histograms counted, tensors pressed, and table slots given a new generation. TGEN waits for requests of its partition by
choice (log 94, DESIGN CHOICE). -/
def Obligations.CompressionInstructionsComplete : Prop :=
  ∀ (s : State) (t : StrandId) (b : Body) (y z : X), untrapped y z →
    let i := insOf b
    (∀ q, running s t b 0x80 = some y → pressChk y i = .ok q → pressRun y i q = .ok z →
      exec (.press t b) s = .next (s.completed t z)) ∧
    (∀ q, running s t b 0x81 = some y → phistChk y i = .ok q → phistRun y i q = .ok z →
      exec (.phist t b) s = .next (s.completed t z)) ∧
    (running s t b 0x82 = some y → (y.c.tslot i.func).usable y.cx.part = true →
      (((y.c.tslot i.func).prev.map Gen.refs).getD 0) = 0 → y.c.decodeWaits y.cx.part = false →
      z = ({ y with c := y.c.setTslot i.func (y.c.tslot i.func).rotate.2 } : X).setS i.op1 (y.c.tslot i.func).rotate.1 →
      exec (.tgen t b) s = .next (s.completed t z))

/-- R102, R104, R105, R279 to R284, R290 to R292: flags of this module, fences, member lists, and barriers, collectives and
expert operations whose members are done. -/
def Obligations.SynchronisationCompletes : Prop :=
  ∀ (s : State) (t : StrandId) (b : Body) (y w z : X) (bs : List Byte), untrapped y z →
    let i := insOf b
    let a := y.s i.op2
    (running s t b 0xA0 = some y → y.flagChk a true = .ok () → y.released (bit i.func 0) = .ok () → y.here a = true →
      y.store a (leBytes 8 (y.s i.op3)) 2 = .ok z → exec (.fset t b) s = .next (s.completed t z)) ∧
    (running s t b 0xA0 = some y → y.flagChk a true = .ok () → y.released (bit i.func 0) = .ok () → y.here a = false →
      z = y.post a [y.flagPacket a 6 (y.s i.op3) 0] → exec (.fset t b) s = .next (s.completed t z)) ∧
    (∀ old, running s t b 0xA2 = some y → y.flagChk a true = .ok () → y.released (bit i.func 0) = .ok () → y.here a = false →
      y.remoteFlagOp a 5 (y.s i.op3) (y.s i.op4) = .ok old → z = y.setS i.op1 old →
      exec (.fcas t b) s = .next (s.completed t z)) ∧
    (∀ old, running s t b 0xA3 = some y → y.flagChk a false = .ok () → y.here a = false →
      y.remoteFlagOp a (bits i.func 2 2) (y.s i.op3) 0 = .ok old → z = y → exec (.fwait t b) s = .next (s.completed t z)) ∧
    (running s t b 0xA1 = some y → y.flagChk a true = .ok () → y.released (bit i.func 0) = .ok () → y.here a = true →
      y.load a 8 2 = .ok (bs, w) → (∃ v, w.store a (leBytes 8 (ofLE bs + y.s i.op3)) 2 = .ok v ∧ z = v.setS i.op1 (ofLE bs)) →
      exec (.fadd t b) s = .next (s.completed t z)) ∧
    (running s t b 0xA2 = some y → y.flagChk a true = .ok () → y.released (bit i.func 0) = .ok () → y.here a = true →
      y.load a 8 2 = .ok (bs, w) → ofLE bs = y.s i.op3 →
      (∃ v, w.store a (leBytes 8 (y.s i.op4)) 2 = .ok v ∧ z = v.setS i.op1 (ofLE bs)) →
      exec (.fcas t b) s = .next (s.completed t z)) ∧
    (running s t b 0xA2 = some y → y.flagChk a true = .ok () → y.released (bit i.func 0) = .ok () → y.here a = true →
      y.load a 8 2 = .ok (bs, w) → ofLE bs ≠ y.s i.op3 → z = w.setS i.op1 (ofLE bs) →
      exec (.fcas t b) s = .next (s.completed t z)) ∧
    (running s t b 0xA3 = some y → y.flagChk a false = .ok () → y.here a = true → y.load a 8 2 = .ok (bs, z) →
      flagCmp (bits i.func 2 2) (ofLE bs) (y.s i.op3) = true → exec (.fwait t b) s = .next (s.completed t z)) ∧
    (running s t b 0xA5 = some y → y.r.acks = 0 → z = y → exec (.fence t b) s = .next (s.completed t z)) ∧
    (∀ h v, running s t b 0x89 = some y → a % 64 = 0 → y.load a 64 2 = .ok (h, w) → 1 ≤ fld h 0 4 → fld h 0 4 ≤ 65536 →
      zeroAt h 4 60 = true → w.load (a + 64) (8 * fld h 0 4) 2 = .ok (bs, v) →
      ((List.range (fld h 0 4)).all fun j => zeroAt bs (8 * j + 4) 4) = true →
      ((membersOf bs (fld h 0 4)).filter (· == (y.env.dev, y.k))).length = 1 → (membersOf bs (fld h 0 4)).Nodup →
      y.s i.op3 < 2 ^ 32 → v.cx.coll.ops = [] → v.cx.bars.any (fun q => q.scope == 3 && q.fin.isNone) = false →
      z = { v with cx := { v.cx with coll := { v.cx.coll with
        members := membersOf bs (fld h 0 4), gen := y.s i.op3, listed := true, aborted := false, nextSeq := 1 } } } →
      exec (.memb t b) s = .next (s.completed t z)) ∧
    (∀ q, running s t b 0xA4 = some y →
      y.cx.bars.find? (fun q => q.names y.r (bits i.imm 0 2) (bits i.imm 4 4) && q.arrived.contains y.r.rank) = some q →
      q.fin = some 0 → z = { y with cx := { y.cx with bars := leaveBar y.cx.bars y.r (bits i.imm 0 2) (bits i.imm 4 4) } } →
      exec (.bar t b) s = .next (s.completed t z)) ∧
    (∀ q d src st, running s t b 0x88 = some y → y.collOp = some q → q.fin = some st → collChk y i = .ok (d, src) →
      y.load (y.s i.op4) 64 4 = .ok (bs, w) → w.collEnd q st (fld bs 8 8) d (collWrite d src i.func (fld bs 2 1) q) = .ok z →
      exec (.coll t b) s = .next (s.completed t z)) ∧
    (∀ q d src idx st, running s t b 0x8B = some y → y.collOp = some q → q.fin = some st → xdispChk y i = .ok (d, src, idx) →
      y.load (y.s i.op4) 128 4 = .ok (bs, w) →
      w.collEnd q st (expertOf bs).status d (xdispWrite d src idx (expertOf bs) q) = .ok z →
      exec (.xdisp t b) s = .next (s.completed t z)) ∧
    (∀ q d src wt st, running s t b 0x8C = some y → y.collOp = some q → q.fin = some st → xcombChk y i = .ok (d, src, wt) →
      y.load (y.s i.op4) 128 4 = .ok (bs, w) →
      w.collEnd q st (expertOf bs).status d (xcombWrite d src wt (fld bs 0x40 64) (expertOf bs) q) = .ok z →
      exec (.xcomb t b) s = .next (s.completed t z)) ∧
    (∀ q, running s t b 0x8A = some y → rputChk y i = .ok q → rputRun y i q = .ok z → exec (.rput t b) s = .next (s.completed t z))

/-- R63, R114, R141: a strand reads its own slot's registers, the narrowing counters, and table slots its partition owns; it
writes its own slot's registers, and the write is journalled (R388). -/
def Obligations.StrandRegisterAccessCompletes : Prop :=
  ∀ (s : State) (t : StrandId) (b : Body) (y : X),
    let i := insOf b
    let a := y.s i.op2
    (∀ g, running s t b 0xC2 = some y → a % 8 = 0 → y.strandReg a = some (.own g) →
      exec (.rgrd t b) s = .next (s.completed t (y.setS i.op1 (y.num.read g)))) ∧
    (∀ n g, running s t b 0xC2 = some y → a % 8 = 0 → y.strandReg a = some (.slot n g) →
      exec (.rgrd t b) s = .next (s.completed t (y.setS i.op1 ((y.slotRegs n).read g)))) ∧
    (∀ j, running s t b 0xC2 = some y → a % 8 = 0 → y.strandReg a = some (.table j) →
      exec (.rgrd t b) s = .next (s.completed t (y.setS i.op1 (y.c.tslot j).stat))) ∧
    (∀ g num, running s t b 0xC3 = some y → a % 8 = 0 → y.strandReg a = some (.own g) → y.num.write g (y.s i.op3) = some num →
      exec (.rgwr t b) s = .next (s.completed t { y with
        num := num
        c := y.c.journal (Src.strand y.k y.cx.part) { kind := 1, code := 0, addr := a, old := y.num.read g, new := y.s i.op3 } }))

/-- R102, R104, R244, R280, R281, R290, R291, R292: what an instruction leaves when it waits: its effect so far, and what it
waits for. BAR arrives at its barrier, COLL, XDISP and XCOMB begin their operation; the others have done nothing. -/
def Obligations.WaitingInstructionsWait : Prop :=
  ∀ (s : State) (t : StrandId) (b : Body) (y w : X) (bs : List Byte),
    let i := insOf b
    let a := y.s i.op2
    (running s t b 0xA3 = some y → y.flagChk a false = .ok () → y.here a = true → y.load a 8 2 = .ok (bs, w) →
      flagCmp (bits i.func 2 2) (ofLE bs) (y.s i.op3) = false →
      exec (.fwait t b) s = .next (s.waiting t b (.flag a (bits i.func 2 2) (y.s i.op3)) w)) ∧
    (running s t b 0xA4 = some y → (bits i.imm 0 2 ≠ 3 ∨ (y.cx.coll.listed = true ∧ y.cx.coll.aborted = false)) → y.r.acks = 0 →
      y.cx.bars.any (fun q => q.names y.r (bits i.imm 0 2) (bits i.imm 4 4) && q.arrived.contains y.r.rank) = false →
      ({ y with cx := { y.cx with bars := arriveAt y.cx.bars y.r (bits i.imm 0 2) (bits i.imm 4 4) } } : X).tellBars = .ok w →
      exec (.bar t b) s = .next (s.waiting t b (.barrier (bits i.imm 0 2) (bits i.imm 4 4)) w)) ∧
    (∀ d src codes u v, running s t b 0x88 = some y → y.collOp = none → collChk y i = .ok (d, src) →
      y.load (y.s i.op4) 64 4 = .ok (bs, w) → fld bs 0 2 = 1 → fld bs 2 1 ≤ 2 → (fld bs 2 1 = 0 ∨ i.func = 0 ∨ i.func = 2) →
      zeroAt bs 3 1 = true → zeroAt bs 0x10 48 = true → y.statusOk (fld bs 8 8) = true →
      y.cx.coll.listed = true → y.cx.coll.aborted = false → fld bs 4 4 = y.cx.coll.nextSeq →
      (i.func = 0 ∨ i.func = 2 ∨ d.fmt = src.fmt) → d.size = collSize i.func src.size y.size y.rank →
      w.allCodes src = .ok (codes, u) →
      u.collStart [i.func, fld bs 2 1, fld bs 4 4, y.cx.coll.gen, src.fmt, src.e0, src.e1, src.e2, src.e3]
        (fun r => packRow src.fmt (collPart i.func y.size y.rank r codes)) = .error (.hold .coll (some v)) →
      exec (.coll t b) s = .next (s.waiting t b .coll v)) ∧
    (∀ q v, running s t b 0x8B = some y → y.collOp = none → xdispChk y i = .ok q →
      xdispRun y i q = .error (.hold .coll (some v)) → exec (.xdisp t b) s = .next (s.waiting t b .coll v)) ∧
    (∀ q v, running s t b 0x8C = some y → y.collOp = none → xcombChk y i = .ok q →
      xcombRun y i q = .error (.hold .coll (some v)) → exec (.xcomb t b) s = .next (s.waiting t b .coll v)) ∧
    (∀ q v, running s t b 0x8A = some y → rputChk y i = .ok q → rputRun y i q = .error (.hold .acks (some v)) →
      exec (.rput t b) s = .next (s.waiting t b .acks v))

/-- R122: an instruction whose predicate condition fails performs its checks and leaves everything as it was but its pc. END is
followed by the scheduler's work, which another statement names. -/
def Obligations.SkippedInstructionsOnlyAdvance : Prop :=
  ∀ (s : State) (t : StrandId) (b : Body) (op : BitVec 8) (c : Instr) (y : X), insParts c = some (t, op, b) → op ≠ 0x13 →
    skipping s t b op.toNat = some y → checkOf op.toNat y (insOf b) = .ok () → exec c s = .next (s.completed t y)

/-- R88, R109, R124: an instruction whose fetch, encoding or checks fault leaves nothing of its own: its context is held, and
its record is posted. -/
def Obligations.FaultsHoldTheContext : Prop :=
  ∀ (s : State) (t : StrandId) (b : Body) (op : BitVec 8) (c : Instr) (x y : X) (f : FaultInfo),
    insParts c = some (t, op, b) → op ≠ 0x13 →
    viewOf (s.envOf t.ctx.val) s.core t.ctx.val t.idx.val op.toNat = some x → x.ready = true →
    (fetchCheck x = .error (.fault f none) → exec c s = .next (s.faulting t x f)) ∧
    (fetchCheck x = .ok y → encCheck op.toNat (insOf b) = .error (.fault f none) → exec c s = .next (s.faulting t y f)) ∧
    (fetchCheck x = .ok y → encCheck op.toNat (insOf b) = .ok () → checkOf op.toNat y (insOf b) = .error (.fault f none) →
      exec c s = .next (s.faulting t y f))

/-- R58, R124: under the NaN trap an instruction that creates a NaN writes nothing: its context is held with the trap, and memory
and the strand's registers stay as they were. One that has pre-emption points inside keeps the work before the last of them. -/
def Obligations.NanTrapHoldsTheContext : Prop :=
  (∀ (s : State) (t : StrandId) (b : Body) (op : BitVec 8) (c : Instr) (y : X) (n : NanInfo) (kept : Option X),
    insParts c = some (t, op, b) → op ≠ 0x13 → running s t b op.toNat = some y → opFn op.toNat b y = .error (.trap n kept) →
    exec c s = .next ((s.onCore fun _ => takeTrap (kept.getD y) b n).onFault t.ctx.val).settle) ∧
  (∀ (s s' : State) (t : StrandId) (b : Body) (op : BitVec 8) (c : Instr) (y z : X) (n : NanInfo),
    insParts c = some (t, op, b) → op ≠ 0x13 → running s t b op.toNat = some y → opFn op.toNat b y = .ok z →
    y.trapOn = true → z.nan = some n → exec c s = .next s' →
    s' = s.trapped t b y z n ∧ s'.core.mem = y.c.mem ∧
    (∃ cx, lookup s'.core.ctxs t.ctx.val = some cx ∧ cx.trap = some (trapOf y b n
      (match y.r.me with | some m => (y.c.readCclk (m / 16)).1 | none => y.c.readWclk.1))) ∧
    s'.core.strand t.ctx.val t.idx.val = some { y.r with held := none, arrived := [], prg := 0, list := {} })

/-- R88, R107: no strand of a context that is not live issues: one that is faulted, held by a NaN trap, being stopped, or not
resident. The command does nothing (log 13, DESIGN CHOICE). -/
def Obligations.HeldContextsDoNotIssue : Prop :=
  ∀ (s : State) (t : StrandId) (b : Body) (op : BitVec 8) (c : Instr), insParts c = some (t, op, b) → op ≠ 0x13 →
    (∀ cx, lookup s.core.ctxs t.ctx.val = some cx → cx.live = false) → exec c s = .next (s.onFault t.ctx.val).settle

/-- What a completed instruction leaves: the strand's registers as its view has them with the pc advanced, memory as its view
has it, and every unit beside the compute side, Lantern, Nymhel, the Ethernet side and the video engines as it was. -/
def Obligations.CompletedStateHoldsTheView : Prop :=
  ∀ (s : State) (t : StrandId) (b : Body) (op : Nat) (y z : X), running s t b op = some y → z.k = y.k → z.i = y.i →
    z.cx.faulted = false → z.ended = false →
    (s.completed t z).core.mem = z.c.mem ∧
    (s.completed t z).core.strand t.ctx.val t.idx.val = some { z.r with
      pc := BitVec.ofNat 64 (z.jump.getD (z.r.pc.toNat + 16)), held := none, arrived := [], prg := 0, list := {} } ∧
    (∀ k i, k ≠ t.ctx.val → z.c.ctxs = s.core.ctxs → (s.completed t z).core.strand k i = s.core.strand k i) ∧
    (∀ i, i ≠ t.idx.val → z.cx = y.cx → (s.completed t z).core.strand t.ctx.val i = s.core.strand t.ctx.val i) ∧
    (s.completed t z).pending = s.pending ∧ (s.completed t z).dmp = s.dmp ∧ (s.completed t z).board = s.board ∧
    (s.completed t z).sec = s.sec ∧ (s.completed t z).bg = s.bg ∧ (s.completed t z).started = s.started ∧
    (s.completed t z).rebinds = s.rebinds

/-! ### Frames -/

/-- No instruction of a strand changes the Damper, boot state, flash, board, background work or the commands of hosts. -/
def Obligations.StrandsTouchNoOtherUnit : Prop :=
  ∀ (s s' : State) (t : StrandId) (b : Body) (op : BitVec 8) (c : Instr), insParts c = some (t, op, b) → exec c s = .next s' →
    s'.pending = s.pending ∧ s'.dmp = s.dmp ∧ s'.board = s.board ∧ s'.sec = s.sec ∧ s'.flash = s.flash ∧ s'.silicon = s.silicon ∧
    s'.bg = s.bg ∧ s'.started = s.started ∧ s'.rebinds = s.rebinds

/-- The scalar instructions that write no memory: memory, descriptors, vectors, every other scalar and predicate register, tile
memory and the slot registers stay; SCMP, SCMPI and PLOG write a predicate register only, the others no predicate register. -/
def Obligations.ScalarInstructionsFrame : Prop :=
  ∀ (s s' : State) (t : StrandId) (b : Body) (op : BitVec 8) (c : Instr) (y : X), insParts c = some (t, op, b) →
    op ∈ [0x00, 0x01, 0x02, 0x03, 0x04, 0x05, 0x06, 0x10, 0x11, 0x12, 0x27, 0x43, 0xB0, 0xC0, 0xC1, 0xC4] →
    running s t b op.toNat = some y → exec c s = .next s' → s.fewErrors →
    (∀ a, s'.core.mem.get a = s.core.mem.get a) ∧
    ∃ cx cx' r r', lookup s.core.ctxs t.ctx.val = some cx ∧ lookup s'.core.ctxs t.ctx.val = some cx' ∧
      lookup cx.strands t.idx.val = some r ∧ lookup cx'.strands t.idx.val = some r' ∧
      cx'.num = cx.num ∧ lookup cx'.tiles t.idx.val = some ((lookup cx.tiles t.idx.val).getD {}) ∧ cx'.coll = cx.coll ∧ cx'.bars = cx.bars ∧
      r'.d = r.d ∧ r'.v = r.v ∧ r'.acks = r.acks ∧ r'.rank = r.rank ∧ (op ≠ 0xB0 → r'.prefer = r.prefer) ∧
      (∀ n, n ≠ (insOf b).op1 → r'.s.toList[n]? = r.s.toList[n]? ∧ r'.p.toList[n]? = r.p.toList[n]?) ∧
      (op ∈ [0x03, 0x04, 0x05, 0x00, 0x10, 0x12, 0xB0, 0xC4] → r'.s = r.s) ∧ (op ∉ [0x03, 0x04, 0x05] → r'.p = r.p)

/-- The vector instructions that write no memory: memory, scalar, predicate and descriptor registers, and every vector register
but the destination and, for pairs, the one after it stay, whether or not a NaN trap is taken. -/
def Obligations.VectorInstructionsFrame : Prop :=
  ∀ (s s' : State) (t : StrandId) (b : Body) (op : BitVec 8) (c : Instr) (y : X), insParts c = some (t, op, b) →
    op ∈ [0x20, 0x21, 0x22, 0x23, 0x24, 0x25, 0x26, 0x28, 0x29, 0x2A, 0x2B, 0x78, 0x79, 0x7A] →
    running s t b op.toNat = some y → exec c s = .next s' → s.fewErrors →
    (∀ a, s'.core.mem.get a = s.core.mem.get a) ∧
    ∃ cx cx' r r', lookup s.core.ctxs t.ctx.val = some cx ∧ lookup s'.core.ctxs t.ctx.val = some cx' ∧
      lookup cx.strands t.idx.val = some r ∧ lookup cx'.strands t.idx.val = some r' ∧
      cx'.num = { cx.num with fpflags := cx'.num.fpflags } ∧ cx'.coll = cx.coll ∧ cx'.bars = cx.bars ∧
      lookup cx'.tiles t.idx.val = some ((lookup cx.tiles t.idx.val).getD {}) ∧ r'.s = r.s ∧ r'.p = r.p ∧ r'.d = r.d ∧ r'.acks = r.acks ∧
      (∀ n, n ≠ (insOf b).op1 → n ≠ (insOf b).op1 + 1 → r'.v.toList[n]? = r.v.toList[n]?)

/-- SST, DST and FSET to this module: every byte outside the stored ones reads as before, and where no stored word has errors
the bytes read back as stored; the strand's registers but its pc stay. -/
def Obligations.StoresChangeOnlyTheirBytes : Prop :=
  ∀ (s s' : State) (t : StrandId) (b : Body) (y z : X) (c : Instr) (a : Nat) (bs : List Byte),
    ((c = .sst t b ∧ running s t b 0x08 = some y ∧ a = (y.s (insOf b).op2 + (insOf b).imm) % 2 ^ 64 ∧
        bs = leBytes (sstSize (insOf b).func) (y.s (insOf b).op3)) ∨
      (c = .dst t b ∧ running s t b 0x41 = some y ∧ a = dAddr y (insOf b) ∧ a % 64 = 0 ∧ bs = leBytes 64 (y.d (insOf b).op3)) ∨
      (c = .fset t b ∧ running s t b 0xA0 = some y ∧ a = y.s (insOf b).op2 ∧ y.flagChk a true = .ok () ∧
        y.released (bit (insOf b).func 0) = .ok () ∧ bs = leBytes 8 (y.s (insOf b).op3))) →
    y.here a = true → y.store a bs 2 = .ok z → exec c s = .next s' → s.fewErrors →
    (∀ x, x < localOf a ∨ localOf a + bs.length ≤ x → s'.core.mem.get x = s.core.mem.get x) ∧
    (s.noErrors → s'.core.mem.read (localOf a) bs.length = bs) ∧
    ∃ r r', s.core.strand t.ctx.val t.idx.val = some r ∧ s'.core.strand t.ctx.val t.idx.val = some r' ∧
      r'.s = r.s ∧ r'.p = r.p ∧ r'.d = r.d ∧ r'.v = r.v ∧ r'.acks = r.acks

/-! ### Ends of waits, NaN traps, samplers, decode requests -/

/-- R102, R148, R150, R154, R181, R213, R244, R280: an event whose wait a strand is in takes its instruction up again;
PANEL_ARRIVAL first gives it its bytes. -/
def Obligations.WaitEndsTakeTheInstructionUp : Prop :=
  ∀ (s : State) (t : StrandId),
    (∀ a n data, s.core.waitOf t.ctx.val t.idx.val = some (.panels a n) → data.length = n →
      exec (.panelArrival t data) s = .next (((s.onCore fun c =>
        { c.modStrand t.ctx.val t.idx.val fun r => { r with arrived := addArrived r.arrived a data, stalled := false } with
          reqs := c.reqs.filter fun q => !q.serves t.ctx.val t.idx.val (.panels a n) }).resumeStrand t.ctx.val t.idx.val).settle)) ∧
    (∀ a v, s.core.waitOf t.ctx.val t.idx.val = some (.splitK a v) →
      exec (.splitKFlagReady t) s = .next (s.resumeStrand t.ctx.val t.idx.val).settle) ∧
    (∀ a v, s.core.waitOf t.ctx.val t.idx.val = some (.arrive a v) →
      exec (.arriveFlagReady t) s = .next (s.resumeStrand t.ctx.val t.idx.val).settle) ∧
    (∀ a m v, s.core.waitOf t.ctx.val t.idx.val = some (.flag a m v) →
      exec (.fwaitSatisfied t) s = .next (s.resumeStrand t.ctx.val t.idx.val).settle) ∧
    (∀ obj : W64, s.core.waitOf t.ctx.val t.idx.val = some (.walk obj.toNat) →
      exec (.walkBegin t obj) s = .next (s.resumeStrand t.ctx.val t.idx.val).settle) ∧
    (s.core.waitOf t.ctx.val t.idx.val = some .memb →
      exec (.membWaitComplete t) s = .next (s.resumeStrand t.ctx.val t.idx.val).settle) ∧
    (∀ j, s.core.waitOf t.ctx.val t.idx.val = some (.tgen j) →
      exec (.tgenDrainComplete t) s = .next (s.resumeStrand t.ctx.val t.idx.val).settle)

/-- R107, R124: a waiting instruction taken up again runs as it would have run, and completes when its effect does. -/
def Obligations.ResumedInstructionsComplete : Prop :=
  ∀ (s : State) (k i : Nat) (cx : Context) (r : Strand) (h : Held) (z : X),
    lookup s.core.ctxs k = some cx → lookup cx.strands i = some r → r.held = some h → cx.live = true → r.me.isSome = true →
    opFn h.op h.body {
      c := s.core, env := s.envOf k, k := k, i := i, cx := cx, r := { r with held := none }
      tm := (lookup cx.tiles i).getD {}, num := cx.num, op := h.op, trapOn := h.trapOn } = .ok z →
    (h.trapOn = false ∨ z.nan = none) →
    s.resumeStrand k i = ((s.onCore fun _ => z.finish.commit).onFault k).samplerTests

/-- R58 to R60, R104, R281, R285: a barrier at which every participant present has arrived releases all of them; the operation in
flight of a strand ends with what the other members brought; the record of a NaN trap is written, and fault 0x0101 raised. -/
def Obligations.BarrierAndCollectiveEndsComplete : Prop :=
  (∀ (s : State) (t : StrandId) (cx : Context) (r : Strand) (scope num : Nat),
      lookup s.core.ctxs t.ctx.val = some cx → s.core.strand t.ctx.val t.idx.val = some r →
      s.core.waitOf t.ctx.val t.idx.val = some (.barrier scope num) →
      exec (.barrierComplete t) s =
        .next ((s.onCore fun c => c.setCtx t.ctx.val (cx.releaseBar r scope num)).wakeCtx t.ctx.val).settle ∧
      (∀ (n : Nat) (q : Bar), cx.bars[n]? = some q → ∃ q', (cx.releaseBar r scope num).bars[n]? = some q' ∧
        (q.names r scope num = true → r.rank ∈ q.arrived → cx.full q = true → q'.fin = some 0) ∧
        (cx.full q = false → q' = q) ∧ q'.arrived = q.arrived)) ∧
  (∀ (s : State) (t : StrandId) (peers : List Peer) (cx : Context), lookup s.core.ctxs t.ctx.val = some cx → cx.live = true →
      othersOnce cx.coll.members.length ((cx.coll.members.findIdx? (· == (s.nym.devnum, t.ctx.val))).getD 0) peers = true →
      cx.coll.ops.any (fun q => q.strand == t.idx.val && q.fin.isNone) = true →
      exec (.collectiveComplete t peers) s = .next ((s.onCore fun c => c.setCtx t.ctx.val { cx with coll := { cx.coll with
        ops := cx.coll.ops.map fun q => if q.strand = t.idx.val ∧ q.fin.isNone then
          { q with peers := peers, fin := some 0, stalled := false } else q } }).wakeCtx t.ctx.val).settle) ∧
  (∀ (s : State) (k : Fin 1024) (cx : Context) (tr : Trap), lookup s.core.ctxs k.val = some cx → cx.trap = some tr →
      let ok := s.core.writable s.nym.devnum cx cx.num.nanrec 256
      exec (.nanTrapRecord k) s = .next (((s.onCore fun c =>
        ((if ok then c.store (localOf cx.num.nanrec) (trapRecord k.val tr) else c).setCtx k.val { cx with trap := none }).raise
          s.nym.devnum k.val tr.strand { code := 0x0101, detail := if ok then [] else [1] }).onFault k.val).settle))

/-- R230, R232, R244, R245, R249, R251: sampler faults and the ends of self-tests; block decode requests accepted, with a reference
where the block is coded, and delivered, with the reference released; a start of a die's instances is timing only. -/
def Obligations.SamplerAndDecodeEventsComplete : Prop :=
  (∀ (s : State) (d : Fin 8) (pass : Bool),
      ((s.core.samplers.toList.getD d.val {}).state = 0 → ∃ s', exec (.samplerFaultDetected d none) s = .next s' ∧
        s'.core.samplers = (s.core.toGumbel d.val).samplers.setIfInBounds d.val
          (samplerFault ((s.core.toGumbel d.val).samplers.toList.getD d.val {})) ∧
        s'.core.mem = s.core.mem) ∧
      (∀ t b, (s.core.samplers.toList.getD d.val {}).state = 0 →
        exec (.samplerFaultDetected d (some (t, b))) s = .next (((s.onCore fun c => c.toGumbel d.val).sampler d.val samplerFault).issue t b 0x7C sampleFn).settle) ∧
      (2 ≤ (s.core.samplers.toList.getD d.val {}).state → ∃ s', exec (.samplerSelftestComplete d pass) s = .next s' ∧
        s'.core.samplers = s.core.samplers.setIfInBounds d.val (selftestEnd pass (s.core.samplers.toList.getD d.val {})) ∧
        s'.core.mem = s.core.mem) ∧
      ((s.core.samplers.toList.getD d.val {}).state = 1 → ∃ s', exec (.powerOnSelftestComplete d pass) s = .next s' ∧
        s'.core.samplers = s.core.samplers.setIfInBounds d.val (selftestEnd pass (s.core.samplers.toList.getD d.val {})) ∧
        s'.core.mem = s.core.mem)) ∧
  (∀ (s : State) (t : StrandId) (d : Fin 16) (n : Nat) (x y : X) (td : Td) (p : Comp) (m : List Byte) (q : DecodeReq),
      (viewOf (s.envOf t.ctx.val) s.core t.ctx.val t.idx.val 0x44 = some x → x.cx.live = true → x.r.me.isSome = true →
        x.dreg d.val { comp := true } = .ok td → td.comp = some p → n < p.nblk →
        let c := { s.core with
          decodes := s.core.decodes ++ [{ num := s.core.nextTag, ctx := t.ctx.val, strand := t.idx.val, pair := p, index := n }]
          nextTag := s.core.tagAt 1 }
        exec (.decodeRequestAccept t d n) s = .next ((s.onCore fun _ => decodesTry s.envOf c).onFaults).settle) ∧
      (∀ gen, s.core.busySieves (s.core.dieOf q.ctx q.strand) < 8 → q.view (s.envOf q.ctx) s.core = some x → x.cx.live = true →
        decodeCheck x q.pair q.index = .ok (m, gen, y) →
        let c := y.c.modDecode q.num fun r => { r with entry := some m }
        decodeTry (s.envOf q.ctx) s.core q = match gen with
          | some (g : Gen) => c.setTslot (fld m 3 1) ((c.tslot (fld m 3 1)).refer g.num (· + 1))
          | none => c) ∧
      (∀ rest bs, s.core.decodes = q :: rest → q.entry = some m → q.view (s.envOf q.ctx) s.core = some x → x.cx.live = true →
        decodeBody x q.pair q.index m (q.slot.bind fun e => (s.core.tslot e.1).named e.2) = .ok (bs, y) →
        exec .blockDelivered s = .next ((s.onCore fun _ => decodesTry s.envOf (y.c.dropDecode q)).onFaults).settle) ∧
      (∀ die, exec (.startAdmission die) s = .next s.settle))

/-! ### Nymhel -/

/-- R99, R102, R108, R278, R422: the oldest request for this module is served; a permitted write or FSET is stored and acknowledged, a
permitted read is answered, FADD returns the old value, an FWAIT that does not hold yet is parked, and a refused access changes
nothing but the answer. The oldest response returns its bytes or acknowledgement to its strand, and a parked FWAIT whose
comparison holds is answered. -/
def Obligations.RemoteAccessesAreServed : Prop :=
  (∀ (s : State) (p : Packet) (rest : List Packet), takePacket Packet.request s.nym.mine = some (p, rest) →
      let s0 := s.onNym fun n => { n with mine := rest }
      (p.opc = 2 → s0.remoteCheck p p.data.length true = 0 →
        exec .remoteAccessReceived s = .next ((s0.onCore fun c => c.store p.addr p.data).respond p 3 0 []).settle) ∧
      (p.opc = 2 → s0.remoteCheck p p.data.length true ≠ 0 →
        exec .remoteAccessReceived s = .next (s0.refusePacket p (s0.remoteCheck p p.data.length true)).settle) ∧
      (p.opc = 1 → s0.remoteCheck p (fld p.data 0 4) false = 0 → fld p.data 0 4 ≤ 4096 → 0 < fld p.data 0 4 → s.noErrors →
        exec .remoteAccessReceived s = .next (s0.respond p 4 0 (slice (s.core.mem.read p.addr (fld p.data 0 4)) 0 (fld p.data 0 4)) p.addr).settle) ∧
      (p.opc = 5 → flagAddr p.addr = true → fld p.data 0 8 = 6 → s0.remoteCheck p 8 true = 0 →
        exec .remoteAccessReceived s = .next ((s0.onCore fun c => c.store p.addr (leBytes 8 p.arg)).respond p 3 0 []).settle) ∧
      (p.opc = 5 → flagAddr p.addr = true → fld p.data 0 8 = 4 → s0.remoteCheck p 8 true = 0 → s.noErrors →
        exec .remoteAccessReceived s = .next ((s0.onCore fun c => c.store p.addr
          (leBytes 8 (ofLE (s.core.mem.read p.addr 8) + p.arg))).respond p 6 (ofLE (s.core.mem.read p.addr 8)) []).settle) ∧
      (p.opc = 5 → flagAddr p.addr = true → fld p.data 0 8 < 4 → s0.remoteCheck p 8 false = 0 → s.noErrors →
        flagCmp (fld p.data 0 8) (ofLE (s.core.mem.read p.addr 8)) p.arg = false →
        exec .remoteAccessReceived s = .next (s0.onNym fun n => { n with parked := n.parked ++ [p] }).settle)) ∧
  (∀ (s : State) (p : Packet) (rest : List Packet) (r : Strand) (q : Req) (k i : Nat),
      (takePacket (fun q => !q.request) s.nym.mine = some (p, rest) →
        let s0 := s.onNym fun n => { n with mine := rest }
        (s.core.reqs.find? (fun q => q.tag == p.tag && q.dest == p.src) = none → exec .remoteResponseReceived s = .next s0.settle) ∧
        (s.core.reqs.find? (fun q => q.tag == p.tag && q.dest == p.src) = some q → q.who = .strand k i r.launch r.rank →
          s.core.strand k i = some r →
          let upd := fun (f : Strand → Strand) => ((((s0.onCore fun c => c.answer q p).onCore fun c =>
            c.spend k p.spart 3 p.data.length).onCore fun c => c.modStrand k i fun q => { f q with stalled := false }).wakeCtx k).settle
          (p.opc = 3 → exec .remoteResponseReceived s = .next (upd fun q => { q with acks := q.acks - 1 })) ∧
          (p.opc = 4 → exec .remoteResponseReceived s =
            .next (upd fun q => { q with arrived := addArrived q.arrived (p.src * 2 ^ 48 + p.addr) p.data })) ∧
          (p.opc = 6 → exec .remoteResponseReceived s =
            .next (upd fun q => { q with arrived := addArrived q.arrived (p.src * 2 ^ 48 + p.addr) (leBytes 8 p.arg) })))) ∧
      (∀ n, s.nym.parked[n]? = some p → s.noErrors →
        flagCmp (fld p.data 0 8) (ofLE (s.core.mem.read p.addr 8)) p.arg = true →
        exec (.remoteFwaitAnswer n) s = .next ((s.onNym fun m => { m with parked := m.parked.eraseIdx n }).respond p 6
          (ofLE (s.core.mem.read p.addr 8)) []).settle))

/-- R268 to R272: training, flits in order and out of order, retries and the escape channel. A flit that is bad asks for a
resend and is not taken; one out of order changes nothing; one in order is acknowledged, taken in, and advances the number
expected. -/
def Obligations.LinkEventsComplete : Prop :=
  ∀ (s : State) (link : Fin 24),
    let l := link.val
    let k := s.nym.link l
    (∀ dev level peer, k.state = 1 → dev = s.nym.devnum → exec (.linkTrained link dev level peer) s = .next (((s.onNym fun n =>
      n.modLink l fun k => { k with peerDev := dev % 65536, peerLevel := level % 256, peerLink := peer.link % 32, tries := 0
                                    peerEpochs := peer.epochs.map (· % 65536), dir := 0 }).linkState l 3).settle)) ∧
    (∀ dev level peer, k.state = 1 → dev ≠ s.nym.devnum → ∃ s', exec (.linkTrained link dev level peer) s = .next s' ∧
      (s'.nym.link l).state = 2 ∧ (s'.nym.link l).peerDev = dev % 65536 ∧ (s'.nym.link l).peerLevel = level % 256 ∧
      (s'.nym.link l).peerLink = peer.link % 32 ∧ (s'.nym.link l).peerEpochs = peer.epochs.map (· % 65536) ∧ s'.core.mem = s.core.mem ∧
      (s'.nym.link l).dir = if level < s.nym.level ∨ (level = s.nym.level ∧ dev < s.nym.devnum) then 1 else 2) ∧
    (∀ f, k.state = 2 → exec (.flitReceived link f true) s = .next (s.askRetry l).settle) ∧
    (∀ f, k.state = 2 → f.length = 256 → crc32 (slice f 0 252) = fld f 252 4 → fld f 0 1 ≤ 4 → fld f 1 1 = 1 ∨ fld f 1 1 = 2 →
      fld f 2 2 ≠ (k.rxSeq + 1) % 65536 → exec (.flitReceived link f false) s = .next s.settle) ∧
    (∀ f, k.state = 2 → f.length = 256 → crc32 (slice f 0 252) = fld f 252 4 → fld f 0 1 ≤ 4 → fld f 1 1 = 1 ∨ fld f 1 1 = 2 →
      fld f 2 2 = (k.rxSeq + 1) % 65536 →
      let s1 := (s.onNym fun n => n.modLink l fun k =>
        { (k.acked f).take (fld f 0 1) (fld f 1 1) (slice f 8 240) with rxSeq := fld f 2 2 }).gather l
      exec (.flitReceived link f false) s = .next ((s1.send (.flit l (flitBytes 0 0 (s1.nym.link l).txSeq (s1.nym.link l).rxSeq 0xFF 0
        []))).drain l).settle) ∧
    (∀ seq, k.state = 2 → exec (.retryRequestReceived link seq) s = .next (s.resend l (seq % 65536)).settle) ∧
    (k.state = 2 → 16 ≤ k.tries → exec (.linkRetrain link) s = .next (s.train l).settle) ∧
    (∀ i, k.waiting.findIdx? (fun w => w.vc < 3 && k.credits.getD w.vc 0 == 0) = some i →
      exec (.escapeMove link) s = .next ((s.onNym fun n => n.modLink l fun k =>
        { k with waiting := k.waiting.modify i fun w => { w with vc := 4 } }).drain l).settle)

/-- R273 to R276: a malformed packet is counted and its buffers freed; a packet whose bank and way are known moves on; one whose
epoch no bank holds is kept. A vector of a link in service is kept; the check of the loaded bank passes, or fails at its first
failing entry, at once or when a vector does not come. -/
def Obligations.PacketsAndRoutingChecksComplete : Prop :=
  (∀ (s : State) (l : Nat) (vcs : List Nat) (b : List Byte) (rest : List (Nat × List Nat × List Byte)),
      s.nym.heldPkts.find? (fun h => (s.wayOf h).isSome) = none → s.nym.inbox = (l, vcs, b) :: rest →
      let s1 := s.onNym fun n => { n with inbox := rest }
      (packetOpc (packetOf b).opc = false ∨ fld b 0xE 2 ≠ 0 ∨ 4096 < fld b 0xC 2 →
        let s2 := (s1.onNym fun n => n.modLink l fun k => { k with proterr := satInc k.proterr 0xFF }).creditAll l vcs
        exec .packetReceived s = .next (if (packetOf b).request then s2.refusePacket (packetOf b) 0x0704 else s2).settle) ∧
      (∀ w, packetOpc (packetOf b).opc = true → fld b 0xE 2 = 0 → fld b 0xC 2 ≤ 4096 → (packetOf b).opc ≠ 0x22 →
        s1.wayByBank (packetOf b) = some w → exec .packetReceived s = .next (s1.moveOn (packetOf b) l vcs w).settle) ∧
      (packetOpc (packetOf b).opc = true → fld b 0xE 2 = 0 → fld b 0xC 2 ≤ 4096 → (packetOf b).opc ≠ 0x22 →
        s1.wayByBank (packetOf b) = none → exec .packetReceived s = .next (s1.onNym fun n =>
          { n with heldPkts := n.heldPkts ++ [{ pkt := packetOf b, link := l, vcs := vcs, stalled := false }] }).settle)) ∧
  (∀ (s : State) (link : Fin 24) (v : TableVec) (b : Bank),
      ((s.nym.link link.val).state = 2 →
        let s1 := s.onNym fun n => { n with vectors := insertKey link.val v n.vectors }
        (v.reply = true ∨ s.nym.bankOf v.epoch = none → exec (.tableVectorReceived link v) s = .next s1.settle) ∧
        (v.reply = false → s.nym.bankOf v.epoch = some b →
          exec (.tableVectorReceived link v) s = .next (s1.sendVector link.val b true).settle)) ∧
      (s.nym.pstate = 1 → s.nym.pendingBank = some b →
        (b.linksOf.any fun l => (s.nym.link l).state == 2 && (s.nym.vectorOf l b.epoch).isNone) = false →
        (b.entries.all fun e => s.nym.entryOk b.epoch e) = true →
        exec .routingCheckComplete s = .next (s.onNym fun n => { n with pstate := 2 }).settle) ∧
      (∀ e, s.nym.pstate = 1 → s.nym.pendingBank = some b →
        (b.linksOf.any fun l => (s.nym.link l).state == 2 && (s.nym.vectorOf l b.epoch).isNone) = false →
        b.entries.find? (fun e => !s.nym.entryOk b.epoch e) = some e →
        exec .routingCheckComplete s = .next (s.onNym fun n => { n with pstate := 3, failDest := e.1 }).settle) ∧
      (∀ e, s.nym.pstate = 1 → s.nym.pendingBank = some b → b.entries.find? (fun e => e.2.1 == link.val) = some e →
        s.nym.vectorOf link.val b.epoch = none →
        exec (.routingVectorTimeout link) s = .next (s.onNym fun n => { n with pstate := 3, failDest := e.1 }).settle))

/-- R285, R288, Table 13.7: keepalives while an operation is in flight, a lost member or an abort ends the operations of a
context, and a transfer without progress is marked and reported once. -/
def Obligations.MemberEventsComplete : Prop :=
  ∀ (s : State) (k : Fin 1024) (cx : Context), lookup s.core.ctxs k.val = some cx →
    (cx.inFlight = true → exec (.keepalive k) s = .next (cx.coll.members.foldl (fun (a : State) m =>
      if m.1 = s.nym.devnum then a else
      match s.routeAny m.1 with
      | some l => a.send (.packet l {
          dest := m.1, src := s.nym.devnum, epoch := (s.nym.active.map Bank.epoch).getD 0, opc := 0x20, spart := cx.part
          tag := k.val, addr := m.2, arg := 0, data := [] })
      | none => a) s).settle) ∧
    (∀ rank (code : Fin 6), cx.inFlight = true → rank < cx.coll.members.length → (code = 1 ∨ code = 5) →
      exec (.memberLost k rank code) s = .next (((s.abortAll k.val (statusWord code.val rank)).wakeAll)).settle) ∧
    (∀ rank, cx.inFlight = true → rank < cx.coll.members.length →
      exec (.memberLost k rank 2) s = .next (((s.abortAll k.val (statusWord 2 noRank)).wakeAll)).settle) ∧
    (∀ status : W64, status.toNat % 2 ^ 16 ≠ 0 → cx.inFlight = true →
      exec (.abortReceived k status) s = .next (((s.onCore fun c => c.abortCtx k.val status.toNat).wakeAll)).settle) ∧
    (∀ (i : Fin 128) r d, s.core.strand k.val i.val = some r → r.stalled = false →
      cx.coll.ops.any (fun q => q.strand == i.val && q.fin.isNone) = false → s.transferOf r = some d →
      exec (.transferStalled ⟨k, i⟩) s = .next ((s.onCore fun c => c.modStrand k.val i.val fun r =>
        { r with stalled := true }).reportStall d).settle)

/-! ### Commands of hosts -/

/-- R10, R11, R143, R304, R325, Table 14.12: NOP, reads and writes of registers, partition modes and rations, as commands that come
to their turn: the completion that is queued, and what else changes. -/
def Obligations.HostRegisterCommandsComplete : Prop :=
  ∀ (s : State) (h : HostCmd),
    let s0 := s.turn h
    let a := h.arg 0 8
    (s.admits h 0x01 none → h.zero 0 48 = true → exec (.nopCommand h) s = .next (s0.complete h 0x01 0 0).settle) ∧
    (∀ r, s.admits h 0x02 none → h.zero 8 40 = true → a < 2 ^ 48 → regAt a = some r → s0.accessCheck h.path a 8 false = 0 →
      exec (.regrd h) s = .next (s0.complete h 0x02 0 (s0.regRead r)).settle) ∧
    (∀ r, s.admits h 0x03 none → h.zero 16 32 = true → a < 2 ^ 48 → regAt a = some r →
      s0.accessCheck h.path a 8 true = 0 → s0.regCheck r (h.arg 8 8) = 0 →
      exec (.regwr h) s = .next (((s0.logged h.path a r (h.arg 8 8)).regApply r (h.arg 8 8)).complete h 0x03 0 0).settle) ∧
    (∀ r code, s.admits h 0x03 none → h.zero 16 32 = true → a < 2 ^ 48 → regAt a = some r →
      s0.accessCheck h.path a 8 true = 0 → s0.regCheck r (h.arg 8 8) = code → code ≠ 0 →
      exec (.regwr h) s = .next ((s0.journal (s0.srcOf h.path)
        { kind := 1, code := code, addr := a, old := s0.regRead r, new := h.arg 8 8 }).complete h 0x03 code 0).settle) ∧
    (s.admits h 0x03 none → h.zero 16 32 = true → 2 ^ 48 ≤ a → exec (.regwr h) s = .next (s0.complete h 0x03 0x0201 0).settle) ∧
    (s.admits h 0x02 none → h.zero 8 40 = true → 2 ^ 48 ≤ a → exec (.regrd h) s = .next (s0.complete h 0x02 0x0201 0).settle) ∧
    (s.admits h 0x22 none → h.arg 0 1 ≤ 7 → h.arg 1 1 ≤ 1 → h.zero 2 46 = true →
      exec (.partitionMode h) s =
        .next ((s0.onCore fun c => { c with pmode := setBits c.pmode (h.arg 0 1) 1 (h.arg 1 1) }).complete h 0x22 0 0).settle) ∧
    (∀ s1 img, s.admits h 0x21 none → h.zero 8 40 = true → s0.fetch 0xFF a 128 = (s1, .ok img) → s1.rationFault img = 0 →
      exec (.rationSet h) s = .next ((s1.onCore fun c => { c with nextRation := some img }).complete h 0x21 0 0).settle) ∧
    (∀ s1 img, s.admits h 0x21 none → h.zero 8 40 = true → s0.fetch 0xFF a 128 = (s1, .ok img) → s1.rationFault img ≠ 0 →
      exec (.rationSet h) s = .next (s1.complete h 0x21 (s1.rationFault img) 0).settle)

/-- R85, R88, R115, R144, R317, R318, R322, R323: packs loaded, contexts created, discarded, resumed, saved and restored, launches
accepted and started. -/
def Obligations.PackAndContextCommandsComplete : Prop :=
  ∀ (s : State) (h : HostCmd),
    let s0 := s.turn h
    let k := h.ctxArg
    (∀ (f : PackFacts) p num s1 bs, s.admits h 0x10 none → h.zero 13 3 = true → h.zero 24 24 = true → h.arg 8 4 ≠ 0 →
      s0.partArg h (h.arg 12 1) = .ok p → freeKey s0.core.packs 256 = some num →
      s0.fetch p (h.arg 0 8) (h.arg 8 4) true = (s1, .ok bs) → versionFault f.major f.minor f.vlen f.grainLog2 f.caps = 0 →
      f.placed (h.arg 0 8) (h.arg 8 4) = true →
      let at' : Loading := { view := s1.loadView p (bit s1.core.pmode p) f.acmMax, addr := h.arg 0 8, img := bs, facts := f }
      let pack : Pack := {
        part := p, addr := localOf (h.arg 0 8), len := h.arg 8 4, codeBase := localOf (h.arg 0 8) + f.codeOff, codeLen := f.codeLen
        entries := f.entries.map fun e => { addr := (h.arg 0 8 + e.1) % 2 ^ 64, acmAlloc := e.2.1, tables := e.2.2 }
        tables := f.tables.map fun o => slice bs o tableLen, digest := sha3 bs, caps := f.caps, ladle := bit s1.core.pmode p }
      packFault at' = none →
      (h.arg 16 8 = 0 → exec (.packLoad h f) s =
        .next ((s1.onCore fun c => { c with packs := insertKey num pack c.packs }).complete h 0x10 0 num).settle) ∧
      (∀ l, h.arg 16 8 ≠ 0 → s1.local? (h.arg 16 8) = some l → s1.core.access p [] l (loadReport at').length true = 0 →
        s1.core.storeRefused l (loadReport at').length = false → exec (.packLoad h f) s = .next ((s1.onCore fun c =>
          { c.store l (loadReport at') with packs := insertKey num pack (c.store l (loadReport at')).packs }).complete h 0x10 0
            num).settle)) ∧
    (∀ p a n, s.admits h 0x11 none → lookup s0.core.packs (h.arg 0 1) = some p → s0.local? (h.arg 8 8) = some a →
      (s0.core.pathPart h.path = none ∨ s0.core.pathPart h.path = some p.part) → h.arg 1 1 ≤ 7 → h.zero 3 1 = true →
      h.zero 24 24 = true → h.arg 4 2 ≤ 1023 → h.arg 4 2 + h.arg 6 2 ≤ 1024 → a % 4096 = 0 → freeKey s0.core.ctxs 1024 = some n →
      s0.core.quota p.part ≠ 0 → s0.core.access p.part [] a (h.arg 16 8) true = 0 →
      imageSize p.acmMax (maskDies (h.arg 2 1)).length (h.arg 6 2) ≤ h.arg 16 8 →
      exec (.contextCreate h) s = .next ((s0.onCore fun c => c.setCtx n {
        part := p.part, pack := h.arg 0 1, prio := h.arg 1 1, mask := h.arg 2 1, poff := h.arg 4 2, plen := h.arg 6 2, imgAddr := a
        imgLen := h.arg 16 8, ladle := p.ladle }).complete h 0x11 0 n).settle) ∧
    (∀ cx, s.admits h 0x12 (some k) → h.zero 2 46 = true → lookup s0.core.ctxs k = some cx →
      exec (.discard h) s = .next (((s0.discardCtx k).schedule).complete h 0x12 0 0 3 [] k).settle) ∧
    (∀ cx, s.admits h 0x13 (some k) → h.zero 5 3 = true → h.zero 16 32 = true → 0 < h.arg 4 1 → h.arg 4 1 ≤ 128 →
      lookup s0.core.ctxs k = some cx → cx.state ≠ .faulted →
      ((lookup s0.core.packs cx.pack).bind fun p => p.entries[h.arg 2 2]?).isSome = true →
      exec (.launch h) s = .next ((s0.onCore fun c => c.setCtx k { cx with nextLaunch := cx.nextLaunch + 1, launches := cx.launches ++
        [{ num := cx.nextLaunch, entry := h.arg 2 2, count := h.arg 4 1, arg := h.arg 8 8, base := none, cmd := some h.ref }] }).schedule).settle) ∧
    (∀ (j : Fin 1024) cx p l e b, lookup s.core.ctxs j.val = some cx → lookup s.core.packs cx.pack = some p → cx.live = true →
      cx.launches.find? (fun l => l.base.isNone) = some l → p.entries[l.entry]? = some e → cx.freeBase l.count = some b →
      cx.launches.any (fun o => o.base.isSome && (p.entries[o.entry]?).any fun oe => e.conflicts oe) = false →
      exec (.launchStart j) s = .next (((s.onCore fun c => (c.setCtx j.val { cx with
        launches := cx.launches.map fun o => if o.num = l.num then { o with base := some b } else o
        strands := (List.range l.count).foldl (fun m r => insertKey (b + r) (newStrand l e b r) m) cx.strands }).place cx.part)).wakeCtx
          j.val).settle) ∧
    (∀ cx, s.admits h 0x14 (some k) → h.zero 2 46 = true → lookup s0.core.ctxs k = some cx → cx.state = .faulted →
      cx.slot.isSome = true → exec (.resume h) s = .next (((s0.onCore fun c =>
        { c.setCtx k { cx with faulted := false, trap := none } with walks := c.walks.filter fun w => w.ctx != k }).schedule).complete h
          0x14 0 0 3 [] k).settle) ∧
    (∀ cx, s.admits h 0x14 (some k) → h.zero 2 46 = true → lookup s0.core.ctxs k = some cx → cx.state = .faulted → cx.slot = none →
      exec (.resume h) s = .next ((s0.onCore fun c =>
        { c.setCtx k { cx with faulted := false, lateFault := false, trap := none, woken := true, resumeCmd := some h.ref } with
          walks := c.walks.filter fun w => w.ctx != k }).schedule).settle) ∧
    (∀ cx, s.admits h 0x15 (some k) → h.zero 2 46 = true → lookup s0.core.ctxs k = some cx → cx.slot.isSome = true →
      exec (.saveContext h) s =
        .next (s0.onCore fun c => c.setCtx k { cx with moving := .stopping, saveCmds := cx.saveCmds ++ [h.ref] }).settle) ∧
    (∀ cx, s.admits h 0x15 (some k) → h.zero 2 46 = true → lookup s0.core.ctxs k = some cx → cx.slot = none → cx.savedLen ≠ 0 →
      exec (.saveContext h) s = .next (s0.complete h 0x15 0 cx.savedLen 3 [] k).settle) ∧
    (∀ cx p bs c1, s.admits h 0x15 (some k) → h.zero 2 46 = true → lookup s0.core.ctxs k = some cx → cx.slot = none → cx.savedLen = 0 →
      lookup s0.core.packs cx.pack = some p → s0.core.image k cx p = (bs, c1) → exec (.saveContext h) s =
        .next ((s0.onCore fun _ => ((c1.store cx.imgAddr bs).setCtx k { cx with
          savedLen := bs.length, acct := cx.acct.saved bs.length }).account s.nym.devnum k).complete h 0x15 0 bs.length 3 [] k).settle) ∧
    (∀ cx p a c1 img ss w, s.admits h 0x16 (some k) → h.zero 2 6 = true → h.zero 16 32 = true → lookup s0.core.ctxs k = some cx →
      cx.slot = none → cx.state = .idle → s0.local? (h.arg 8 8) = some a → lookup s0.core.packs cx.pack = some p →
      s0.core.access cx.part [] a 128 false = 0 → s0.core.readImage s0.nym.devnum cx a = (c1, .ok img) →
      s0.core.access cx.part [] a img.length false = 0 → imageFault cx p (!bit c1.pmode cx.part) img = 0 →
      imageParts img = some (ss, w) →
      let cx1 := cx.fromImage img ss
      exec (.restoreContext h) s = .next (((s0.onCore fun _ => (c1.store cx.imgAddr img).setCtx k { cx1 with
        strands := cx1.strands.map fun r => (r.1, r.2.parked), num := {}, tiles := [], bars := barsOf (imageBars img)
        late := { ringAddr := cx1.num.ringAddr, ringLog := cx1.num.ringLog, head := cx1.num.head, tail := cx1.num.tail }
        lateRecs := 0, lateFault := false, acct := cx.acct.switched (2 * img.length), savedLen := img.length
        woken := true }).schedule).complete h 0x16 0 0 3 [] k).settle)

/-- R25, R27, R315: a binding command whose list is in order waits for its units to drain, and then changes them; collectives in
flight on a link it rebinds end with status 2 once their time is over. -/
def Obligations.BindingCommandsComplete : Prop :=
  ∀ (s : State) (h : HostCmd) (r : Rebind),
    let s0 := s.turn h
    (∀ s1 bs us, s.admits h 0x20 none → h.zero 12 36 = true → h.arg 0 8 % 8 = 0 → 0 < h.arg 8 4 → h.arg 8 4 ≤ 512 →
      s0.fetch 0xFF (h.arg 0 8) (8 * h.arg 8 4) = (s1, .ok bs) → listUnits (wordsOf 8 (h.arg 8 4) bs) = some us →
      s.rebinds.any (fun r => r.units.any fun u => us.any fun v => v.1 == u.1 && v.2.1 == u.2.1) = false → s1.bindFault us = 0 →
      exec (.binding h) s = .next ({ s1 with rebinds := s1.rebinds ++
        [{ cmd := h.ref, units := us, linkWait := us.any fun u => u.1 == 4, args := slice h.args 0 32 }] } : State).settle) ∧
    (∀ s1 bs us, s.admits h 0x20 none → h.zero 12 36 = true → h.arg 0 8 % 8 = 0 → 0 < h.arg 8 4 → h.arg 8 4 ≤ 512 →
      s0.fetch 0xFF (h.arg 0 8) (8 * h.arg 8 4) = (s1, .ok bs) → listUnits (wordsOf 8 (h.arg 8 4) bs) = some us →
      s.rebinds.any (fun r => r.units.any fun u => us.any fun v => v.1 == u.1 && v.2.1 == u.2.1) = false → s1.bindFault us ≠ 0 →
      exec (.binding h) s = .next (s1.complete h 0x20 (s1.bindFault us) 0).settle) ∧
    (s.rebinds.find? (fun r => (!r.linkWait || (s.onRebound r).isEmpty) && s.drained r) = some r →
      exec .bindingComplete s = .next (({ s with rebinds := s.rebinds.erase r } : State).bindDone r).settle) ∧
    (∀ u, r.units = [u] → u.1 = 4 ∨ u.1 = 7 → s.core.owner u.1 u.2.1 ≠ u.2.2 →
      s.rebinds.find? (fun r => (!r.linkWait || (s.onRebound r).isEmpty) && s.drained r) = some r →
      exec .bindingComplete s = .next ((((({ s with rebinds := s.rebinds.erase r } : State).journal (s.srcOf r.cmd.path)
        { kind := 2, code := 0x20, new := 0, detail := r.args }).onCore fun c => { c with owners := setOwner c.owners u.1 u.2.1 u.2.2 }).onCore
          fun c => { c with dones := c.dones ++ [{ cmd := r.cmd, status := 0, result := 0 }] }).schedule).settle) ∧
    (s.rebinds.find? (fun r => r.linkWait) = some r →
      let s1 := ((s.onRebound r).foldl (fun (a : State) k => a.abortAll k (statusWord 2 noRank)) s).wakeAll
      exec .linkRebindAbort s =
        .next ({ s1 with rebinds := s1.rebinds.map fun q => if q = r then { q with linkWait := false } else q } : State).settle)

/-- R58, R318 to R321, R323, R325: ration periods, pre-emption points, and the ends of saves and restores. -/
def Obligations.SchedulingEventsComplete : Prop :=
  ∀ (s : State) (k : Fin 1024) (cx : Context) (p : Pack),
    (s.dmp.pwrbrk = false → exec .rationPeriodBoundary s =
      .next (s.onCore fun c => c.boundary s.nym.devnum).wakeAll.settle) ∧
    (s.core.boundary s.nym.devnum).ration = s.core.nextRation.getD s.core.ration ∧
    (s.core.boundary s.nym.devnum).nextRation = none ∧
    (lookup s.core.ctxs k.val = some cx → cx.trap = none → cx.moving = .stopping → exec (.preemptionPointReached k) s =
      .next ((s.onCore fun c => c.setCtx k.val { cx with moving := .saving }).wakeCtx k.val).settle) ∧
    (lookup s.core.ctxs k.val = some cx → cx.trap = none → cx.moving = .none → cx.live = true → exec (.preemptionPointReached k) s =
      .next ((s.onCore fun c => c.rotate cx.part).wakeCtx k.val).settle) ∧
    (∀ bs c1, lookup s.core.ctxs k.val = some cx → cx.moving = .saving → lookup s.core.packs cx.pack = some p →
      s.core.image k.val cx p = (bs, c1) →
      exec (.contextSaveComplete k) s = .next ((s.onCore fun _ =>
        ((((((c1.store cx.imgAddr bs).dropDecodes k.val).dropLoads k.val).clearChip k.val cx fun i => (lookup cx.strands i).isSome).setCtx
          k.val { cx with
          slot := none, moving := .none, savedLen := bs.length, woken := false, num := {}, saveCmds := []
          tiles := cx.tiles.filter fun t => !(lookup cx.strands t.1).isSome
          acct := { cx.acct with saves := (cx.acct.saves + 1) % 2 ^ 64, switch := (cx.acct.switch + bs.length) % 2 ^ 64 }
          late := { ringAddr := cx.num.ringAddr, ringLog := cx.num.ringLog, head := cx.num.head, tail := cx.num.tail }
          lateRecs := 0, lateFault := false
          strands := cx.strands.map fun r => (r.1, r.2.parked) }).account s.nym.devnum k.val).finishCmds cx.saveCmds k.val cx.part 0
            bs.length).schedule).settle) ∧
    (∀ c1 img c2 cy, lookup s.core.ctxs k.val = some cx → cx.moving = .restoring → lookup s.core.packs cx.pack = some p →
      s.core.readImage s.nym.devnum cx cx.imgAddr = (c1, .ok img) → imageFault cx p (!bit c1.pmode cx.part) img = 0 → c1.load k.val cx img = (c2, cy) →
      exec (.contextRestoreComplete k) s = .next ((s.onCore fun _ => (c2.setCtx k.val { cy with
        moving := .none, resumeCmd := none, faulted := (cy.faulted && cx.resumeCmd.isNone) || cx.lateFault
        num := cy.num.after cx.late.dropped cx.lateRecs, late := {}, lateRecs := 0, lateFault := false
        acct := { cx.acct with switch := (cx.acct.switch + img.length) % 2 ^ 64 } }).finishCmds cx.resumeCmd.toList k.val cx.part 0
          0).schedule).settle)

/-- R352 to R361: streams opened and closed, submits taken, frames started and ended, their bytes, rows and results. What a codec makes of
its samples and units is free (log 26, DESIGN CHOICE). -/
def Obligations.VideoCommandsComplete : Prop :=
  ∀ (s : State) (h : HostCmd) (e : Fin 4),
    let s0 := s.turn h
    let put := fun (a : State) (i : Nat) (t : Stream) => a.modEngine e.val fun g => { g with streams := insertKey i t g.streams }
    let taken := fun (a : State) (i : Nat) (t : Stream) => put a i { t with subs := t.subs.drop 1 }
    let sub : Submit := {
      cmd := h.ref, stream := h.arg 0 2 % 256, frame := h.arg 8 8, buf := localOf (h.arg 16 8), len := h.arg 24 4
      ready := h.arg 32 8, readyVal := h.arg 40 8, age := none }
    (∀ p s1 b s2 pool i, s.admits h 0x30 none → h.arg 0 1 = 0 → h.arg 1 1 = e.val → h.zero 2 2 = true → h.zero 4 4 = true →
      h.zero 16 32 = true → s0.core.pathPart h.path = some p → s0.core.owner 6 e.val = p → s0.fetch p (h.arg 8 8) 128 = (s1, .ok b) →
      s1.blockOk p b = true → s1.poolOf p b = (s2, .ok pool) → freeKey (s1.engine e.val).streams 256 = some i →
      exec (.videoStreamOpen h) s = .next ((put s2 i {
        part := p, block := b, pool := pool.map Prod.fst, held := [], refs := [], frames := 0, outseq := 0, lastPic := none, subs := []
        recs := pool.map Prod.snd }).complete h 0x30 0 (e.val * 256 + i)).settle) ∧
    (∀ p t, s.admits h 0x30 none → h.arg 0 1 = 1 → h.arg 1 1 = e.val → h.zero 4 4 = true → h.zero 8 8 = true → h.zero 16 32 = true →
      s0.core.pathPart h.path = some p → h.arg 2 2 / 256 = e.val → lookup (s0.engine e.val).streams (h.arg 2 2 % 256) = some t → t.part = p →
      exec (.videoStreamClose h) s = .next ((s0.closeStream e.val (h.arg 2 2 % 256) t).complete h 0x30 0 0).settle) ∧
    (∀ t, s.admits h 0x31 none → h.zero 2 6 = true → h.arg 0 2 / 256 = e.val → lookup (s0.engine e.val).streams (h.arg 0 2 % 256) = some t →
      t.dec = true → s0.core.pathPart h.path = some t.part → s0.submitOk h t = true →
      exec (.submit h) s = .next (put s0 (h.arg 0 2 % 256) { t with
        held := t.held.filter fun i => !bit (h.arg 28 4) i, subs := t.subs ++ [sub] }).settle) ∧
    (∀ t s1 b, s.admits h 0x31 none → h.zero 2 6 = true → h.arg 0 2 / 256 = e.val →
      lookup (s0.engine e.val).streams (h.arg 0 2 % 256) = some t → t.dec = false → s0.core.pathPart h.path = some t.part →
      s0.submitOk h t = true → s0.frameAt t.part false (h.arg 8 8) = (s1, .ok b) → fld b 4 2 ≤ fld t.block 8 2 → fld b 6 2 ≤ fld t.block 0xA 2 →
      fld b 2 1 ≤ fld t.block 7 1 → fld b 3 1 = fld t.block 0xC 1 →
      exec (.submit h) s = .next (put s1 (h.arg 0 2 % 256) { t with
        held := t.held.filter fun i => !bit (h.arg 28 4) i, subs := t.subs ++ [sub] }).settle) ∧
    ((s.engine e.val).run = none → s.lan.bivActive = false →
      (∀ i t b s1 d, s.spoilt (s.engine e.val) = some (i, t, b) → s.acquire b = (s1, .error d) → exec (.frameStart e) s =
        .next ((taken s1 i t).subDone t.part b 0x0210 0 d).settle) ∧
      (∀ i t b, s.spoilt (s.engine e.val) = none → (s.engine e.val).next = some (i, t, b) →
        let s1 := taken (s.acquire b).1 i t
        (t.dec = true → t.freeEntry = none → exec (.frameStart e) s = .next (s1.subDone t.part b 0 (0x40 * 2 ^ 32)).settle) ∧
        (∀ s2, (t.dec = true → t.freeEntry.isSome = true) →
          ((s.engine e.val).loaded = none ∨ (s.engine e.val).loaded = some i) ∧ s2 = s1 ∨
            (∃ j u, (s.engine e.val).loaded = some j ∧ j ≠ i ∧ lookup (s.engine e.val).streams j = some u ∧ s2 = s1.saveStream u) →
          (∀ s3 data height clamped, s2.unitData t b = (s3, .ok (data, height, clamped)) → exec (.frameStart e) s =
            .next (s3.modEngine e.val fun g => { g with
              run := some { sub := b, entry := if t.dec then t.freeEntry else none, progress := 0, data := data, height := height
                            clamped := clamped }
              loaded := some i, cur := i }).settle) ∧
          (∀ s3 code d, s2.unitData t b = (s3, .error (code, d)) →
            exec (.frameStart e) s = .next (s3.subDone t.part b code 0 d).settle)))) ∧
    (∀ r t, s.running e.val = some (r, t) → t.dec = false → r.full = false → r.denied = 0 → r.slices < t.slices r.height →
      let bytes := Config.vidCode t.block (t.fed ++ [r.data]) r.slices
      let n := r.progress + bytes.length
      (r.sub.len < 64 + n → exec (.sliceComplete e r.slices) s = .next (s.setRun e.val { r with full := true }).settle) ∧
      (64 + n ≤ r.sub.len → s.vidCheck t.part r.sub.buf (64 + n) ≠ 0 →
        exec (.sliceComplete e r.slices) s = .next (s.setRun e.val { r with denied := s.vidCheck t.part r.sub.buf (64 + n) }).settle) ∧
      (64 + n ≤ r.sub.len → s.vidCheck t.part r.sub.buf (64 + n) = 0 →
        let s1 := ((s.vidStore t.part (r.sub.buf + 64 + r.progress) bytes).vidStore t.part r.sub.buf (leBytes 8 n)).setRun e.val { r with
          progress := n, slices := r.slices + 1 }
        (bit (fld t.block 0x23 1) 0 = false → exec (.sliceComplete e r.slices) s = .next s1.settle) ∧
        (∀ qp, bit (fld t.block 0x23 1) 0 = true → r.sub.cmd.path = .roce qp → exec (.sliceComplete e r.slices) s =
          .next (s1.unsolicited qp 0xFFFD 0 ((e.val * 256 + r.sub.stream) * 2 ^ 32 + t.frames) n).settle))) ∧
    (∀ r t n rows, s.running e.val = some (r, t) → r.entry = some n → r.progress < rows → rows ≤ r.height →
      rows % (t.picture r.data r.height).side = 0 ∨ rows = r.height → r.data ≠ [] → t.exceeds r.data = false → r.denied = 0 →
      s.planesCheck t n = 0 →
      let prog := fld (t.recs.getD n []) 8 8
      let s1 := (s.decodeRows t n r.data (t.picture r.data r.height) r.progress rows).setRun e.val { r with progress := rows }
      (prog = 0 → exec (.decodeRowComplete e rows) s = .next s1.settle) ∧
      (prog ≠ 0 → s.vidCheck t.part (localOf prog) 8 = 0 →
        exec (.decodeRowComplete e rows) s = .next (s1.vidStore t.part (localOf prog) (leBytes 8 rows)).settle)) ∧
    (∀ r t (i : Fin 256), s.running e.val = some (r, t) → r.sub.stream = i.val → r.entry = none → r.denied = 0 → r.full = false →
      t.slices r.height ≤ r.slices → exec (.frameComplete e i) s = .next ((s.endFrame e.val r { t with frames := t.frames + 1, fed := t.fed ++ [r.data] }).subDone t.part
        r.sub 0 (r.progress + t.frames % 65536 * 2 ^ 32 +
          flag (!decide (t.frames = 0 ∨ (fld t.block 0x2C 2 ≠ 0 ∧ t.frames % fld t.block 0x2C 2 = 0))) 48 + flag r.clamped 49)).settle) ∧
    (∀ r t (i : Fin 256), s.running e.val = some (r, t) → r.sub.stream = i.val → r.entry = none → r.denied = 0 → r.full = true → 8 ≤ r.sub.len →
      exec (.frameComplete e i) s = .next (((s.vidStore t.part r.sub.buf (List.replicate 8 255)).endFrame e.val r t).subDone t.part r.sub 0x0A07 0).settle) ∧
    (∀ r t (i : Fin 256), s.running e.val = some (r, t) → r.sub.stream = i.val → r.entry = none → r.denied ≠ 0 →
      exec (.frameComplete e i) s = .next ((s.endFrame e.val r t).subDone t.part r.sub r.denied 0).settle) ∧
    (∀ r t n (i : Fin 256), s.running e.val = some (r, t) → r.sub.stream = i.val → r.entry = some n →
      exec (.frameComplete e i) s = .next (s.decodeDone e.val n r t false).settle ∧
      exec (.videoWatchdog e i) s = .next ((s.decodeDone e.val n r t true).modEngine e.val fun g =>
        { g with wdog := satInc g.wdog 0xFFFF }).settle ∧
      (r.data = [] → s.decodeDone e.val n r t false = (s.endFrame e.val r t).subDone t.part r.sub 0 (0x20 * 2 ^ 32)) ∧
      (r.data ≠ [] → t.exceeds r.data = true → s.decodeDone e.val n r t false =
        (s.endFrame e.val r { t with fed := t.fed ++ [r.data] }).subDone t.part r.sub 0 (4 * 2 ^ 32)))

/-- R365 to R377, R399: images and rollback records staged, slots activated, restarts of Lantern, reports, the exit from bivouac
mode. -/
def Obligations.FirmwareCommandsComplete : Prop :=
  ∀ (s : State) (h : HostCmd),
    let s0 := s.turn h
    (∀ s1 bs n, s.admits h 0x40 none → h.arg 12 1 = 0 → h.zero 13 35 = true → s0.fetch 0xFF (h.arg 0 8) (h.arg 8 4) = (s1, .ok bs) →
      s1.stageFault true bs = 0 → s1.stageSlot = some n →
      exec (.firmwareStage h true true) s = .next ((s1.program false (.slot n) (some bs)).complete h 0x40 0 n).settle ∧
      exec (.firmwareStage h true false) s = .next ((s1.program false (.slot n) none).complete h 0x40 0x0B08 0).settle ∧
      ∀ w, exec (.firmwareStage h false w) s = .next (s1.complete h 0x40 0x0B08 0).settle) ∧
    (∀ s1 bs, s.admits h 0x40 none → h.arg 12 1 = 1 → h.zero 13 35 = true → s0.fetch 0xFF (h.arg 0 8) (h.arg 8 4) = (s1, .ok bs) →
      s1.stageFault false bs = 0 →
      exec (.firmwareStage h true true) s = .next ((s1.program false .staged (some bs)).complete h 0x40 0 2).settle ∧
      exec (.firmwareStage h true false) s = .next ((s1.program false .staged none).complete h 0x40 0x0B08 0).settle ∧
      ∀ w, exec (.firmwareStage h false w) s = .next (s1.complete h 0x40 0x0B08 0).settle) ∧
    (∀ s1 bs img ok w, s.admits h 0x40 none → h.arg 12 1 = (if img then 0 else 1) → h.zero 13 35 = true →
      s0.fetch 0xFF (h.arg 0 8) (h.arg 8 4) = (s1, .ok bs) → s1.stageFault img bs ≠ 0 →
      exec (.firmwareStage h ok w) s = .next (s1.complete h 0x40 (s1.stageFault img bs) 0).settle) ∧
    (∀ r o, r ≠ Region.rollback → r ≠ Region.carrier → (s.program false r o).flash = s.flash.put r o ∧
      (s.program false r o).sec = s.sec ∧ (s.program false r o).core = s.core) ∧
    (∀ o, (s.program false .rollback o) = s ∧ s.program false .carrier o = s) ∧
    (∀ m, s.admits h 0x41 none → h.arg 0 1 ≤ 1 → h.arg 1 1 = 1 → h.arg 2 1 = 0 → h.zero 3 45 = true → s0.minsecNow = some m →
      s0.slotCheck (h.arg 0 1) m = 0 → s0.sec.stage ≠ 6 → s0.sec.wantRestart = none → exec (.firmwareActivate h) s =
        .next ((s0.writeDir false (h.arg 0 1) 0xFF).complete h 0x41 0 0).settle) ∧
    (∀ m, s.admits h 0x41 none → h.arg 0 1 ≤ 1 → h.arg 1 1 = 0 → h.arg 2 1 = 1 → h.zero 3 45 = true → s0.minsecNow = some m →
      s0.slotCheck (h.arg 0 1) m = 0 → s0.sec.stage ≠ 6 → exec (.firmwareActivate h) s = .next (
        let s1 := s0.writeDir false ((s0.flash.dir.map fun d => d.2.dflt).getD (h.arg 0 1)) (h.arg 0 1)
        ({ s1 with sec := { s1.sec with wantRestart := some h.ref } } : State).complete h 0x41 0 0).settle) ∧
    (∀ q, s.sec.wantRestart = some q → s.eth.recs.any (fun r => Path.roce r.qp == q.path && r.cmdid == q.id && !r.unsol) = false →
      (s.sec.stage = 6 → exec .lanternRestart s = .next ({ s.remakeRollback with
        sec := { s.remakeRollback.sec with stage := 1, wantRestart := none } } : State).settle) ∧
      (s.sec.stage ≠ 6 → (s.startImage s.sec.minsec).sec.stage = 2 → exec .lanternRestart s =
        .next ({ s.startImage s.sec.minsec with
          sec := { (s.startImage s.sec.minsec).sec with
            restart := s.sec.restart || decide (5 ≤ s.sec.stage), wantRestart := none } } : State).settle)) ∧
    (s.admits h 0x42 none → h.arg 40 1 ≤ 1 → h.zero 41 7 = true → s0.sec.idok = true →
      let w := s0.core.readWclk
      let s1 : State := { s0 with core := w.2, sec := { s0.sec with rseq := s0.sec.rseq + 1 } }
      let head := s1.reportHead w.1 (s0.sec.rseq + 1) (slice h.args 0 32)
      let rep := head ++ slice (mlSign (mlKeyGen (s0.sec.seed.getD [])).2 head) 0 2420
      let chain := if h.arg 40 1 = 1 then s0.flash.chain.take 16384 else []
      let res := (s0.sec.rseq + 1) % 2 ^ 48 + chain.length * 2 ^ 48
      (∀ qp, h.path = .roce qp →
        let s2 := s1.request qp (.hostWrite qp (h.arg 32 8) (s1.eth.queue qp).rkey rep) rep
        (chain = [] → exec (.attestationReport h) s = .next (s2.complete h 0x42 0 res).settle) ∧
        (chain ≠ [] → exec (.attestationReport h) s = .next ((s2.request qp
          (.hostWrite qp (h.arg 32 8 + 5184) (s1.eth.queue qp).rkey chain) chain).complete h 0x42 0 res).settle)) ∧
      ((∀ qp, h.path ≠ .roce qp) → h.arg 32 8 = 0 → exec (.attestationReport h) s =
        .next (s1.complete h 0x42 0 res 3 [] h.ctx (rep ++ chain)).settle)) ∧
    (∀ cause, s.admits h 0x50 none → h.zero 0 48 = true → s0.lan.bivActive = false →
      exec (.bivouacExit h cause) s = .next (s0.complete h 0x50 0 2).settle) ∧
    (s.admits h 0x50 none → h.zero 0 48 = true → s0.lan.bivActive = true → s0.board.refclk = true → s0.board.thermtrip = false →
      exec (.bivouacExit h none) s = .next (((s0.bringUp).complete h 0x50 0 0).journal Src.lantern { kind := 6 }).settle) ∧
    (∀ cause c, s.admits h 0x50 none → h.zero 0 48 = true → s0.lan.bivActive = true →
      c = (if s0.board.refclk = true ∧ s0.board.thermtrip = false then (cause.map fun x : Fin 8 => x.val + 1).getD 0 else 4) → c ≠ 0 →
      exec (.bivouacExit h cause) s = .next (((s0.bringUp).complete h 0x50 0 (1 + c * 2 ^ 8)).bivouac c).settle)

/-! ### Queues, RDMA, ports, mailboxes, management -/

/-- R302 to R306: doorbells taken or refused, entries read, records written to completion rings, rings configured. A queue pair writes a ring's
registers through a window (log 88, DEDUCED). -/
def Obligations.QueuesComplete : Prop :=
  ∀ (s : State) (n : Fin 4096) (v : W64),
    let q := s.eth.queue n.val
    let page := pageBase + n.val * 4096
    (∀ qp : Fin 4096, s.mayRing qp.val n.val = true →
      (s.through (.roce qp.val) (s.spellings page) 8 true = true →
        (v.toNat < 65536 → (v.toNat + 65536 - q.chead) % 65536 ≤ 2 ^ q.log2d →
          (q.ctail + 65536 - q.chead) % 65536 ≤ (v.toNat + 65536 - q.chead) % 65536 →
          exec (.doorbellCmdtail qp n v) s = .next (s.onEth fun e => e.setQueue n.val { q with ctail := v.toNat }).settle) ∧
        (2 ^ q.log2d < (v.toNat + 65536 - q.chead) % 65536 → exec (.doorbellCmdtail qp n v) s =
          .next (s.unsolicited qp.val 0xFFFF 0x0803 0 page).settle)) ∧
      (s.through (.roce qp.val) (s.spellings (page + 8)) 8 true = true →
        v.toNat < 65536 → (q.cpltail + 65536 - v.toNat) % 65536 ≤ (q.cpltail + 65536 - q.cplhead) % 65536 →
        exec (.doorbellCplhead qp n v) s = .next (s.onEth fun e => e.setQueue n.val { q with cplhead := v.toNat }).settle)) ∧
    (∀ b, q.addr ≠ 0 → q.stopped = false → q.chead ≠ q.ctail → s.sec.stage = 5 → s.sec.restart = false →
      let a := localOf q.addr + q.chead % 2 ^ q.log2d * 64
      let o := s.core.qpOwner n.val
      s.core.access o (s.core.partPantry o) a 64 false = 0 → s.noErrors → s.core.mem.read a 64 = b →
      let h := entryCmd (.roce n.val) b
      (bit h.flags 0 = (q.chead / 2 ^ q.log2d % 2 == 0) →
        (bit h.flags 2 = false ∨ (q.running = 0 ∧ s.eth.recs.any (fun r => r.qp == n.val && !r.unsol) = false)) → entryBad b h = false →
        s.gate (.roce n.val) h.opc ≠ .deny → s.allow h h.opc none = 0 →
        (firmwareOpc h.opc = false ∨ s.started.any (fun x => firmwareOpc x.opc) = false) →
        let s1 : State := { s.onEth fun e => e.setQueue n.val { q with
          chead := (q.chead + 1) % 65536, running := q.running + 1, stale := false } with started := s.started ++ [h] }
        (q.stale = false → exec (.commandEntryRead n) s = .next s1.settle) ∧
        (q.stale = true → exec (.staleEntryReread n) s = .next s1.settle)) ∧
      (bit h.flags 0 ≠ (q.chead / 2 ^ q.log2d % 2 == 0) → q.stale = false → exec (.commandEntryRead n) s =
        .next (s.onEth fun e => e.setQueue n.val { q with stale := true }).settle)) ∧
    (∀ r rest, takeRec n.val s.eth.recs = some (r, rest) → q.addr ≠ 0 → q.stopped = false →
      (s.eth.qp n.val).state = .ready ∨ (s.eth.qp n.val).state = .error →
      s.serves n.val = true → (q.cpltail + 65536 - q.cplhead) % 65536 < 2 ^ q.clog2d →
      let w := s.core.readWclk
      let b := recBytes r.cmdid r.status (1 - q.cpltail / 2 ^ q.clog2d % 2 + flag r.unsol 1) r.result r.info w.1
      let s1 : State := { s with core := w.2, eth := { s.eth with recs := rest } }
      let s2 := s1.onEth fun e => e.setQueue n.val { q with cpltail := (q.cpltail + 1) % 65536 }
      let s3 := match r.frec with
        | some f => s2.request n.val (.hostWrite n.val f.1 q.rkey f.2) f.2
        | none => s2
      let s4 := s3.request n.val (.hostWrite n.val (q.haddr + q.cpltail % 2 ^ q.clog2d * 32) q.rkey b) b
      exec (.completionRecordWrite n) s = .next (if r.event then s4.request n.val (.hostSend n.val b) b else s4).settle) ∧
    (∀ p, let a := blockOff 0x08 + 0x10000 + n.val * 0x20
      (s.rowReaches p a (.cmdq n.val) → s.regCheck (.cmdq n.val) v.toNat = 0 → exec (.queueConfigWrite p n 0 v) s =
        .next ((s.logged p a (.cmdq n.val) v.toNat).onEth fun e => e.setQueue n.val { q with
          addr := v.toNat / 4096 * 4096, log2d := v.toNat % 16, chead := 0, ctail := 0, cpltail := 0, cplhead := 0
          stale := false, stopped := false }).settle) ∧
      (s.rowReaches p (a + 8) (.cplq n.val) → s.regCheck (.cplq n.val) v.toNat = 0 → exec (.queueConfigWrite p n 1 v) s =
        .next ((s.logged p (a + 8) (.cplq n.val) v.toNat).onEth fun e => e.setQueue n.val { q with haddr := v.toNat }).settle) ∧
      (s.rowReaches p (a + 16) (.cplkey n.val) → s.regCheck (.cplkey n.val) v.toNat = 0 → exec (.queueConfigWrite p n 2 v) s =
        .next ((s.logged p (a + 16) (.cplkey n.val) v.toNat).onEth fun e => e.setQueue n.val { q with
          rkey := v.toNat / 2 ^ 32, clog2d := v.toNat % 16 }).settle))

/-- R297 to R299, R306: RDMA reaches memory through an enabled window only; connections and the timers of queue pairs. What a REQ brings is
inferred (log 88, DEDUCED). -/
def Obligations.QueuePairsComplete : Prop :=
  ∀ (s : State) (qp : Fin 4096),
    let q := s.eth.qp qp.val
    (∀ (va : W64) rkey data l, s.carries qp.val = true → data.length ≤ 2 ^ 31 →
      s.inWindow qp.val va.toNat rkey.toNat data.length true = true → data ≠ [] →
      s.local? va.toNat = some l → (areaOf l).1 = .hbm → s.qpMem qp.val l data.length true = 0 →
      exec (.rdmaWriteReceived qp va rkey data) s = .next (s.onCore fun c => c.store l data).settle) ∧
    (∀ (va : W64) rkey data, s.carries qp.val = true → data.length ≤ 2 ^ 31 →
      s.inWindow qp.val va.toNat rkey.toNat data.length true = false →
      exec (.rdmaWriteReceived qp va rkey data) s = .next ((s.wireQp qp.val (.roce qp.val "NAK remote access error" [])).qpError
        (.roce qp.val)).settle) ∧
    (∀ (va : W64) rkey len l, s.carries qp.val = true → len ≤ 2 ^ 31 → s.core.readsOf qp.val < 16 →
      s.inWindow qp.val va.toNat rkey.toNat len false = true → 0 < len →
      s.local? va.toNat = some l → (areaOf l).1 = .hbm → s.qpMem qp.val l len false = 0 → s.noErrors →
      exec (.rdmaReadReceived qp va rkey len) s =
        .next (s.wireQp qp.val (.roce qp.val "read response" (s.core.mem.read l len))).settle) ∧
    (let w := s.core.readWclk;
      q.state = .ready → bit (s.eth.port q.port).ctl 16 = true → spaced q.halvedAt w.1 = true → exec (.cnpReceived qp) s =
        .next (({ s with core := w.2 } : State).onEth fun e =>
          e.setQp qp.val { q with rate := max 1 (q.rate / 2), halvedAt := some w.1 }).settle) ∧
    (q.state = .ready → exec (.rateIncrease qp) s =
      .next (s.onEth fun e => e.setQp qp.val { q with rate := min 200 (q.rate + 10) }).settle) ∧
    (∀ (port : Fin 4) (service : W64) remote mtu (peer : Caller) n, (s.eth.port port.val).up = true →
      s.serves (service.toNat % 64 * 64) = true →
      (span (service.toNat % 64 * 64) 64).find? (fun n => (s.eth.qp n).state == .idle) = some n → mtu ∈ [256, 512, 1024, 2048, 4096] →
      exec (.req port service remote mtu peer) s = .next ((s.free.2.onEth fun e => e.setQp n {
        state := .replied, port := port.val, remote := remote, mtu := mtu, retryCnt := peer.retry % 8, retries := peer.retry % 8
        prio := peer.tc.val, epsn := peer.psn % 2 ^ 24, npsn := s.free.1 % 2 ^ 24 }).wirePort port.val (.roce n "REP" [])).settle) ∧
    (∀ (port : Fin 4) (service : W64) remote mtu (peer : Caller), (s.eth.port port.val).up = true →
      s.serves (service.toNat % 64 * 64) = true →
      (span (service.toNat % 64 * 64) 64).find? (fun n => (s.eth.qp n).state == .idle) = none →
      exec (.req port service remote mtu peer) s = .next (s.wirePort port.val (.frame port.val "REJ no resources" [])).settle) ∧
    (q.state = .replied → exec (.rtu qp) s = .next ((s.onEth fun e => e.setQp qp.val { q with state := .ready }).telFlush).settle) ∧
    (q.state ≠ .idle → exec (.dreq qp) s = .next ((s.onEth fun e => e.setQp qp.val {}).wirePort q.port (.roce qp.val "DREP" [])).settle) ∧
    (q.state = .replied → exec (.rej qp) s = .next (s.onEth fun e => e.setQp qp.val {}).settle) ∧
    (q.state = .ready → exec (.rdmaRetryExhausted qp) s = .next (s.onEth fun e =>
      (e.setQp qp.val { q with state := .error }).setQueue qp.val { e.queue qp.val with stopped := true }).settle) ∧
    (q.state = .ready → q.unacked ≠ [] → 0 < q.retries → exec (.ackTimeout qp) s =
      .next (q.unacked.foldl (fun (a : State) b => a.wireQp qp.val (.roce qp.val "retransmit" b.2))
        (s.onEth fun e => e.setQp qp.val { q with retries := q.retries - 1 })).settle) ∧
    (q.state = .ready → q.unacked ≠ [] → q.retries = 0 → exec (.ackTimeout qp) s = .next (s.onEth fun e =>
      (e.setQp qp.val { q with state := .error }).setQueue qp.val { e.queue qp.val with stopped := true }).settle)

/-- R295, R296, R297, R298, R306 to R309: frames, ports and their registers, pauses, and mailboxes. Rows of a queue pair come through a window
(log 88, DEDUCED); sequence numbers are those of log 51, DESIGN CHOICE. -/
def Obligations.PortsAndMailboxesComplete : Prop :=
  ∀ (s : State) (port : Fin 4),
    let n := port.val
    let p := s.eth.port n
    (p.up = true → exec (.frameReceived port .other) s =
      .next (s.onEth fun e => e.modPort n fun p => { p with dropnr := satInc p.dropnr 0xFFFF }).settle) ∧
    (p.up = true → p.ip4 ≠ 0 → exec (.frameReceived port (.arp p.ip4)) s =
      .next (s.wirePort n (.frame n "ARP reply" (leBytes 4 p.ip4))).settle) ∧
    (∀ qp psn, p.up = true → qp < 4096 → (s.eth.qp qp).state ≠ .idle → exec (.frameReceived port (.ack qp psn false)) s =
      .next (s.onEth fun e => e.setQp qp ((s.eth.qp qp).acked psn)).settle) ∧
    (∀ qp psn, p.up = true → qp < 4096 → (s.eth.qp qp).state = .ready ∨ (s.eth.qp qp).state = .replied → psn = (s.eth.qp qp).epsn →
      exec (.frameReceived port (.roce qp psn false)) s = .next ((s.onEth fun e => e.setQp qp { s.eth.qp qp with
        epsn := (psn + 1) % 2 ^ 24 }).wireQp qp (.roce qp "ACK" (leBytes 3 psn))).settle) ∧
    (∀ prios, p.up = true → exec (.frameReceived port (.pfc prios)) s = .next (s.onEth fun e => e.modPort n fun p => { p with
      paused := (List.range 8).filter fun i => p.paused.contains i || (prios.contains i && bit p.ctl (24 + i)) }).settle) ∧
    (p.up = false → ∀ f, exec (.frameReceived port f) s = .next s.settle) ∧
    (s.portMay n = true → p.up = false → exec (.portUp port) s = .next (((s.onEth fun e => e.modPort n fun p =>
      { p with andone := true }).onEth fun e => e.modPort n fun p => { p with up := true }).telEvent 6
        (leBytes 1 (0x80 + n) ++ leBytes 1 0 ++ leBytes 1 1)).settle) ∧
    (p.up = true → exec (.pcsAlignmentLost port) s = .next ((s.onEth fun e => e.modPort n fun p => { p with up := false }).telEvent 6
      (leBytes 1 (0x80 + n) ++ leBytes 1 1 ++ leBytes 1 0)).settle) ∧
    (∀ prio : Fin 8, let mine := fun (h : Nat × Nat × Out) => h.1 == n && h.2.1 == prio.val
      exec (.pfcPauseExpiry port prio) s = .next ((s.eth.held.filter mine).foldl (fun (a : State) h => a.wire n prio.val h.2.2)
        (s.onEth fun e => { e.modPort n fun p => { p with paused := p.paused.filter (· != prio.val) } with
          held := e.held.filter fun h => !mine h })).settle) ∧
    (∀ (w : Path) (v : W64), s.rowReaches w (blockOff 0x08 + n * 0x40) (.portCtl n) → s.regCheck (.portCtl n) v.toNat = 0 →
      let s1 := (s.logged w (blockOff 0x08 + n * 0x40) (.portCtl n) v.toNat).onEth fun e => e.modPort n fun p => { p with ctl := v.toNat }
      (bit v.toNat 0 = true ∨ p.up = false ∧ p.andone = false → exec (.portctlWrite w port v) s = .next s1.settle) ∧
      (bit v.toNat 0 = false → p.up = true → exec (.portctlWrite w port v) s = .next ((s1.onEth fun e => e.modPort n fun p =>
        { p with up := false, andone := false }).telEvent 6 (leBytes 1 (0x80 + n) ++ leBytes 1 1 ++ leBytes 1 0)).settle)) ∧
    (∀ (m : Fin 32) (w : Path) o bs, s.boxesUp = true → s.through w (s.spellings (boxBase + m.val * 4096 + o)) bs.length true = true →
      s.boxPath w = true → isSender w m.val = true → (s.lan.box m.val).full = false →
      (bs.length = 64 ∧ o = 0 ∨ (bs.length = 4 ∨ bs.length = 8) ∧ o % bs.length = 0 ∧ o + bs.length ≤ 64) →
      exec (.mailboxDataWrite w m o bs) s =
        .next (s.modBox m.val fun b => { b with data := putWords b.data o bs }).settle) ∧
    (∀ (m : Fin 32) (w : Path) (v : W32), let a := boxBase + m.val * 4096 + 0x40
      s.boxesUp = true → s.through w (s.spellings a) 4 true = true → s.boxPath w = true →
      (isSender w m.val = true → m.val < 16 ∨ (s.eth.queue 0).addr = 0 → (s.lan.box m.val).full = false → v = 1 →
        exec (.mailboxSend w m v) s = .next (s.modBox m.val fun b => { b with full := true }).settle) ∧
      (isSender w m.val = true → 16 ≤ m.val → (s.eth.queue 0).addr ≠ 0 → (s.lan.box m.val).full = false → v = 1 →
        exec (.mailboxSend w m v) s = .next ((s.modBox m.val fun b => { b with full := true }).unsolicited 0 0xFFFE 0 0 m.val).settle) ∧
      (isSender w m.val = true → (s.lan.box m.val).full = true → v.toNat ≤ 1 →
        exec (.mailboxSend w m v) s = .next ((s.modBox m.val Mailbox.refuse).refuseAccess w 0x0805 a).settle) ∧
      (isSender w m.val = false → v.toNat ≤ 1 → exec (.mailboxSend w m v) s = .next s.settle) ∧
      (1 < v.toNat → exec (.mailboxSend w m v) s = .next (s.refuseAccess w 0x0401 a).settle)) ∧
    (∀ (m : Fin 32) (w : Path), s.boxesUp = true → s.through w (s.spellings (boxBase + m.val * 4096 + 0x40)) 4 false = true →
      s.boxPath w = true → isSender w m.val = false → exec (.mailboxTake w m) s =
      .next ((s.modBox m.val fun b => { b with full := false }).send (.answer w 0 (flag (s.lan.box m.val).full 0))).settle)

/-- R310, R311, Tables 14.15 and 14.16: the MCTP endpoint, the PLDM terminus, and vendor messages. Values of DSP0236 and DSP0248 that the spec
does not state are free (log 10, DESIGN CHOICE); the command codes of GetPLDMCommands are presumed. So are the forms of the Damper's readings
(log 46, PRESUMED). -/
def Obligations.ManagementMessagesComplete : Prop :=
  ∀ (s : State) (i : Bool) (a : Nat),
    let ans := fun (s : State) (v : Nat) => s.send (.answer (.mctp i a) 0 v)
    let drawn := s.onCore fun c => { c with seq := c.seq + 1 }
    (1 ≤ s.sec.stage →
      (∀ e : Byte, exec (.setEndpointId i a e) s = .next (ans { s with lan := { s.lan with eid := e.toNat } } e.toNat).settle) ∧
      exec (.getEndpointId i a) s = .next (ans s s.lan.eid).settle ∧
      (∀ t, exec (.getMctpVersionSupport i a t) s = .next (ans drawn (Config.freeNat s.core.seq)).settle) ∧
      exec (.getMessageTypeSupport i a) s = .next (ans s 0x7F010003).settle ∧
      exec (.getEndpointUuid i a) s = .next (ans drawn (Config.freeNat s.core.seq)).settle ∧
      exec (.dynamicAddressAssignment a) s = .next ({ s with lan := { s.lan with i3cDyn := a } } : State).settle ∧
      (∀ vid e, vid.toNat = s.vendorId → e.length = 64 →
        let h := { entryCmd (.mctp i a) e with flags := (entryCmd (.mctp i a) e).flags / 2 * 2 }
        h.frec = 0 → entryBad e (entryCmd (.mctp i a) e) = false → s.gate (.mctp i a) h.opc ≠ .deny →
        (firmwareOpc h.opc = false ∨ s.started.any (fun x => firmwareOpc x.opc) = false) →
        exec (.mctpVendorMessage i a vid e) s = .next ({ s with started := s.started ++ [h] } : State).settle) ∧
      (∀ vid e, vid.toNat ≠ s.vendorId → s.journalUp = false → exec (.mctpVendorMessage i a vid e) s =
        .next (({ s with lan := { s.lan with badVendor := s.lan.badVendor + 1 } } : State).send (.answer (.mctp i a) 0x0807 0)).settle) ∧
      (∀ vid e, vid.toNat ≠ s.vendorId → s.journalUp = true → exec (.mctpVendorMessage i a vid e) s =
        .next ((({ s with lan := { s.lan with badVendor := s.lan.badVendor + 1 } } : State).journal (s.srcOf (.mctp i a))
          { kind := 3, code := 0x0807 }).send (.answer (.mctp i a) 0x0807 0)).settle)) ∧
    (2 ≤ s.sec.stage → s.sec.stage ≠ 6 →
      exec (.getTid i a) s = .next (ans s s.lan.tid).settle ∧
      (∀ t, exec (.getPldmVersion i a t) s = .next (ans drawn (Config.freeNat s.core.seq)).settle) ∧
      exec (.getPldmTypes i a) s = .next (ans s 0b101).settle ∧
      (∀ t : Byte, exec (.getPldmCommands i a t) s =
        .next (ans s (if t = 0 then 0x3C else if t = 2 then 2 ^ 4 + 2 ^ 16 + 2 ^ 17 + 2 ^ 33 + 2 ^ 80 + 2 ^ 81 else 0)).settle) ∧
      exec (.getPdrRepositoryInfo i a) s = .next (ans s 22).settle ∧
      (∀ hd, exec (.getPdr i a hd) s = .next (ans drawn (Config.freeNat s.core.seq)).settle) ∧
      (∀ n, n < 22 → n ∉ s.lan.sensorsOff → exec (.getSensorReading i a n) s = .next (ans s (s.sensorValue n)).settle) ∧
      (∀ n, 22 ≤ n ∨ n ∈ s.lan.sensorsOff → exec (.getSensorReading i a n) s = .next (s.send (.answer (.mctp i a) 1 0)).settle) ∧
      exec (.getStateSensorReadings i a 21) s = .next (ans s (if s.lan.bivActive then 1 else 0)).settle ∧
      (∀ n, exec (.setNumericSensorEnable i a n true) s =
        .next (ans { s with lan := { s.lan with sensorsOff := s.lan.sensorsOff.filter (· != n) } } 0).settle) ∧
      (∀ n, exec (.setNumericSensorEnable i a n false) s =
        .next (ans { s with lan := { s.lan with sensorsOff := n :: s.lan.sensorsOff.filter (· != n) } } 0).settle) ∧
      (∀ e : Byte, exec (.setEventReceiver i a e) s = .next (ans { s with lan := { s.lan with evReceiver := e.toNat } } 0).settle) ∧
      (∀ vs, exec (.pldmSensorUpdate vs []) s = .next (s.scanSensors vs).settle) ∧
      (∀ vs n v, s.dmp.measured n = some v → n < 20 → lookup (s.scanSensors vs).lan.sensors n = some v) ∧
      (∀ vs n v, s.dmp.measured n = none → lookup vs n = some v → n < 20 → lookup (s.scanSensors vs).lan.sensors n = some v) ∧
      (∀ vs n, n ∉ s.lan.sensorsOff → s.lan.evReceiver ≠ 0 → exec (.pldmSensorUpdate vs [n]) s =
        .next ((s.scanSensors vs).send (.event "PlatformEventMessage" 0 n)).settle))

/-! ### Register writes -/

/-- R9 to R11, R20, R299, R389: a write of a writable register of this module that its path reaches, by a queue pair through a window, is
journalled with the old value and takes effect; one whose value is refused is journalled with the fault and changes nothing else
but the answer; so is one whose size is not 8 bytes; an address that names another module is refused, or carried over Nymhel for a
queue pair. The hypotheses speak of the state and the operands alone. The window of a row is inferred (log 88, DEDUCED). -/
def Obligations.RegisterWriteTakesEffect : Prop :=
  ∀ (s : State) (p : Path) (a v : W64) (size : Nat),
    (s.names p a.toNat = false → (∀ q, p ≠ .roce q) → s.regsUp = true → exec (.registerWrite p a size v) s =
      .next (s.send (.answer p 0x0201 a.toNat)).settle) ∧
    (∀ q, p = .roce q → s.names p a.toNat = false → s.through p [a.toNat] size true = true → exec (.registerWrite p a size v) s =
      .next (s.qpRemote q a.toNat 2 ((leBytes 8 v.toNat).take size) 0).settle) ∧
    (∀ q, p = .roce q → s.carries q = true → s.through p [a.toNat] size true = false → exec (.registerWrite p a size v) s =
      .next ((s.wireQp q (.roce q "NAK remote access error" [])).qpError p).settle) ∧
    ∀ r, s.names p a.toNat = true → s.through p [a.toNat] size true = true → s.reaches p r → regAt (localOf a.toNat) = some r →
      localOf a.toNat % 8 = 0 →
      (size = 8 → s.regCheck r v.toNat = 0 → exec (.registerWrite p a size v) s =
        .next ((s.logged p (localOf a.toNat) r v.toNat).regApply r v.toNat).settle) ∧
      (size = 8 → s.regCheck r v.toNat ≠ 0 → exec (.registerWrite p a size v) s = .next ((s.journal (s.srcOf p)
        { kind := 1, code := s.regCheck r v.toNat, addr := localOf a.toNat, old := s.regRead r, new := v.toNat }).refuseAccess p
          (s.regCheck r v.toNat) a.toNat).settle) ∧
      (v.toNat &&& r.res0 ≠ 0 → s.regCheck r v.toNat = 0x0401) ∧
      (size ≠ 8 → exec (.registerWrite p a size v) s = .next ((s.journal (s.srcOf p)
        { kind := 1, code := 0x0402, addr := localOf a.toNat, old := s.regRead r, new := v.toNat }).refuseAccess p 0x0402 a.toNat).settle)

/-- R54, R57, R59, R61, R110, R153, R177, R233, R247, R255, R257, R265, R275, R276, R289, R299, R337, R412: the register writes that have
rows of their own: the registers of a context slot, and those of the units; and the save windows of MEs without a strand. The
hypotheses speak of the state and the operands alone. A queue pair's rows come through a window (log 88, DEDUCED). -/
def Obligations.SlotAndUnitRegisterWritesComplete : Prop :=
  (∀ (s : State) (p : Path) (n : Fin 16) (v : W64),
      let done := fun (a : Nat) (g : SlotReg) (f : NumRegs → NumRegs) =>
        ((s.logged p a (.slot n.val g) v.toNat).onCore fun c => c.setSlotNum n.val (f (s.core.slotNum n.val))).settle
      (let a := blockOff 0x0B + 0x20008 + n.val * 0x20;
        s.rowReaches p a (.slot n.val .fpflags) → v.toNat < 128 → exec (.fpflagsClear p n v) s =
          .next (done a .fpflags fun r => { r with fpflags := r.fpflags &&& ~~~(BitVec.ofNat 7 v.toNat) })) ∧
      (let a := blockOff 0x0B + 0x20000 + n.val * 0x20;
        s.rowReaches p a (.slot n.val .numctl) → v.toNat < 2 → exec (.numctlWrite p n v) s =
          .next (done a .numctl fun r => { r with nantrap := v.toNat = 1 })) ∧
      (∀ h : Fin 4, let a := blockOff 0x02 + 0x40000 + n.val * 0x1000 + h.val * 0x400
        s.rowReaches p a (.slot n.val (.histctl h.val)) → bits v.toNat 48 16 = 0 → bits v.toNat 2 30 = 0 →
        -1074 ≤ signed (bits v.toNat 32 16) 16 → signed (bits v.toNat 32 16) 16 ≤ 1023 → exec (.histctlClr p n h v) s =
          .next (done a (.histctl h.val) fun r => r.setHist h.val (if bit v.toNat 1 then
              { r.hist h.val with base := bits v.toNat 32 16, en := bit v.toNat 0, tiles := 0, bins := [] }
            else { r.hist h.val with base := bits v.toNat 32 16, en := bit v.toNat 0 }))) ∧
      (let a := blockOff 0x02 + 0x10000 + n.val * 8;
        s.rowReaches p a (.slot n.val .fitstat) → bits v.toNat 40 23 = 0 → bit v.toNat 63 = true → exec (.fitstatClr p n v) s =
          .next (done a .fitstat fun r => { r with fitCount := 0, fitLast := 0 })) ∧
      (let a := blockOff 0x02 + 0x10800 + n.val * 8;
        s.rowReaches p a (.slot n.val .rcpstat) → bits v.toNat 40 23 = 0 → bit v.toNat 63 = true → exec (.rcpstatClr p n v) s =
          .next (done a .rcpstat fun r => { r with rcpCount := 0, rcpLast := 0 })) ∧
      (let a := blockOff 0x0B + 0x30000 + n.val * 0x10;
        s.rowReaches p a (.slot n.val .fltring) → bits v.toNat 4 8 = 0 → 4 ≤ v.toNat % 16 → v.toNat % 16 ≤ 12 →
        exec (.fltringWrite p n v) s = .next (done a .fltring fun r =>
          { r with ringAddr := v.toNat / 4096 * 4096, ringLog := v.toNat % 16, head := 0, tail := 0, dropped := 0 })) ∧
      (let a := blockOff 0x0B + 0x30008 + n.val * 0x10;
        s.rowReaches p a (.slot n.val .fltstat) → bits v.toNat 48 16 = 0 →
        ((s.core.slotNum n.val).head + 65536 - bits v.toNat 16 16) % 65536 ≤ 2 ^ (s.core.slotNum n.val).ringLog →
        exec (.tailWrite p n v) s = .next (done a .fltstat fun r => { r with tail := bits v.toNat 16 16 }))) ∧
  (∀ (s : State) (p : Path) (v : W64),
      (∀ u : Fin 64, let a := blockOff 0x0D + 0x1000 + u.val * 0x10
        s.rowReaches p a (.eccCnt u.val) → v.toNat = 2 ^ 63 → exec (.ecccntClr p u v) s =
          .next ((s.logged p a (.eccCnt u.val) v.toNat).onCore fun c =>
            { c with ecc := c.ecc.modCount u.val fun k => { ueAddr := k.ueAddr } }).settle) ∧
      (let a := blockOff 0x00 + 0x128;
        s.rowReaches p a .alert → v.toNat < 8 →
        let s1 := s.logged p a .alert v.toNat
        exec (.lanAlertClear p v) s =
          .next ({ s1 with lan := { s1.lan with alert := s.lan.alert &&& ~~~(BitVec.ofNat 3 v.toNat) } } : State).settle) ∧
      (∀ d : Fin 8, let a := blockOff 0x05 + d.val * 0x10 + 8
        s.rowReaches p a (.smpCtl d.val) → v = 1 → exec (.samplerTest p d v) s =
          .next ((s.logged p a (.smpCtl d.val) 1).sampler d.val (samplerTest !(s.core.sampling d.val).isEmpty)).settle) ∧
      (let a := blockOff 0x0D;
        s.rowReaches p a .hbmmap → v.toNat < 2 ^ 48 → (s.core.mapChanges v.toNat).any s.core.setInUse = false →
        exec (.hbmmapWrite p v) s = .next ((s.logged p a .hbmmap v.toNat).onCore fun c => c.remap v.toNat).settle) ∧
      (let a := blockOff 0x03;
        s.rowReaches p a .slotPart → (∀ j, j < 16 → bits v.toNat (4 * j) 4 < 8 ∨ bits v.toNat (4 * j) 4 = 15) →
        exec (.slotpartWrite p v) s = .next ((s.logged p a .slotPart v.toNat).onCore fun c =>
          (List.range 16).foldl (fun (a : Core) j => a.setTslot j ((a.tslot j).assign (bits v.toNat (4 * j) 4))) c).settle) ∧
      (let a := blockOff 0x07;
        s.rowReaches p a .devnum → v.toNat < 2 ^ 24 → s.nym.tables = false →
        s.nym.links.toList.any (fun l => l.state == 1 || l.state == 2) = false →
        exec (.devnumWrite p v) s = .next ((s.logged p a .devnum v.toNat).onNym fun n =>
          { n with devnum := v.toNat % 65536, level := v.toNat / 65536 }).settle) ∧
      (let a := blockOff 0x07 + 8;
        s.rowReaches p a .rtCtl → v.toNat % 4096 = 0 →
        (s.nym.pstate ≠ 1 → s.nym.oldLive = false → exec (.routingLoad p v) s =
          .next (((s.logged p a .rtCtl (v.toNat + 2 ^ 11)).onNym fun n => { n with rtAddr := v.toNat }).loadRouting).settle) ∧
        (s.nym.pstate = 2 → exec (.routingActivate p v) s =
          .next (((s.logged p a .rtCtl (v.toNat + 2 ^ 10)).onNym fun n => ({ n with rtAddr := v.toNat } : Nym).activateBank)).settle) ∧
        (s.nym.oldLive = false → exec (.routingRetire p v) s =
          .next (((s.logged p a .rtCtl (v.toNat + 2 ^ 9)).onNym fun n => ({ n with rtAddr := v.toNat } : Nym).retireBank)).settle)) ∧
      (let a := blockOff 0x07 + 0x28;
        s.rowReaches p a .nymStall → v.toNat % 2 ^ 63 < 2 ^ 32 → exec (.stallAbort p v) s =
          .next (s.logged p a .nymStall (v.toNat % 2 ^ 63 + 2 ^ 63)).abortStalled.settle) ∧
      (let a := blockOff 0x01;
        s.rowReaches p a .cap → 600 ≤ v.toNat → v.toNat ≤ 2500 →
        let s1 := s.logged p a .cap v.toNat
        exec (.capWrite p v) s = .next ({ s1 with dmp := { s1.dmp with cap := v.toNat } } : State).settle)) ∧
  (∀ (s : State) (p : Path) (me o : Nat), s.regsUp = true → s.core.pathPart p = none → s.lan.bivActive = false → me < 128 →
      o % 64 = 0 → s.core.strandOn me = false →
      let a := winBase + me * 0x400000 + o
      (∀ bs len, bs.length % 64 = 0 → bs ≠ [] → o + bs.length ≤ 0x280000 →
        exec (.saveWindowAccess p (BitVec.ofNat 64 a) (some bs) len) s =
          .next ((s.onCore fun c => c.windowWrite me o bs).send (.answer p 0 a)).settle) ∧
      (∀ c bs len, len % 64 = 0 → 0 < len → o + len ≤ 0x280000 → s.core.windowRead me o len = (c, .ok bs) →
        exec (.saveWindowAccess p (BitVec.ofNat 64 a) none len) s =
          .next (({ s with core := c } : State).send (.record p bs)).settle) ∧
      (∀ c w len, len % 64 = 0 → 0 < len → o + len ≤ 0x280000 → s.core.windowRead me o len = (c, .error w) →
        exec (.saveWindowAccess p (BitVec.ofNat 64 a) none len) s = .next ((({ s with core := c } : State).reportFault p 0x0210
          (ueDetail s.nym.devnum w (0x28 + me / 16) false)).refuse p 0x0210 a).settle))

/-! ### Background work, the Damper, bivouac mode, the board -/

/-- R260, R261, R382 to R385, R391, R393: scrubbing, clearing, symbol errors, calibration, the journal's copy, periodic telemetry, hours. A
failed transfer is a form of MEMORY_SYMBOL_ERROR (log 84, DESIGN CHOICE); blocks of the wear-levelled region are written in turn (log 90, DESIGN
CHOICE). -/
def Obligations.BackgroundWorkCompletes : Prop :=
  ∀ (s : State),
    (∀ (addr : W64) p w, s.scrubs addr.toNat = true → s.wordAt addr.toNat = some (p, w) →
      (errWords (p.space s.core) s.core.ecc w 64 = [] → exec (.scrubRead addr) s = .next s.settle) ∧
      (errWords (p.space s.core) s.core.ecc w 64 ≠ [] → exec (.scrubRead addr) s = .next (s.onCore fun c =>
        ({ c with ecc := (scanWord (p.space c) (c.placeMem p) c.ecc w).2.1 } : Core).setPlaceMem p
          (scanWord (p.space c) (c.placeMem p) c.ecc w).1).settle)) ∧
    (∀ cls u o, s.bgRuns = true → s.clearingNow = some (cls, u, o) → ∃ s', exec .regionClearWrite s = .next s' ∧
      s'.core.mem = s.core.mem ∧ s'.core.ecc.errs = s.core.ecc.errs ∧
      s'.core.ecc.uncleared = cutRange ((regionBase cls u + o) / 64) ((regionBase cls u + o) / 64 + 1) s.core.ecc.uncleared ∧
      (0x40000000 ≤ o + 64 → s'.bg.clearing = s.bg.clearing.erase (cls, u, o)) ∧
      (o + 64 < 0x40000000 →
        s'.bg.clearing = s.bg.clearing.map fun x => if x = (cls, u, o) then (cls, u, o + 64) else x)) ∧
    (∀ cls u o rest, s.bg.clearing = (cls, u, o) :: rest → s.lan.bivActive = false ∨ cls = 3 → s.clearingNow = some (cls, u, o)) ∧
    (∀ (addr : W64) (sym : Fin 68) (flip : Byte) w, s.wordAt addr.toNat = some (.main, w) → flip ≠ 0 →
      s.core.ecc.uncleared.any (fun r => r.1 ≤ s.core.space.off + w / 64 && s.core.space.off + w / 64 < r.2) = false →
      lookup s.core.ecc.errs (s.core.space.off + w / 64) = none → exec (.memorySymbolError addr (some sym) flip) s =
        .next (s.onCore fun c => { c with ecc := { c.ecc with
          errs := insertKey (s.core.space.off + w / 64) [(sym.val, flip)] c.ecc.errs } }).settle) ∧
    (∀ (addr : W64) (flip : Byte) w, s.wordAt addr.toNat = some (.main, w) → (areaOf addr.toNat).1 = .hbm ∨ (areaOf addr.toNat).1 = .lp →
      exec (.memorySymbolError addr none flip) s = .next (s.onCore fun c => { c with ecc := { c.ecc with
        once := insertNat (s.core.space.off + w / 64) c.ecc.once } }).settle) ∧
    (∀ (u : Fin 64) (t : Int), s.trains u.val = true → lookup s.bg.trained u.val = none →
      exec (.memoryRetrain u t) s = .next ({ s with bg := { s.bg with trained := insertKey u.val t s.bg.trained } } : State).settle) ∧
    (∀ (u : Fin 64) (t old : Int), s.trains u.val = true → lookup s.bg.trained u.val = some old → -10 < t - old → t - old < 10 →
      exec (.memoryRetrain u t) s = .next s.settle) ∧
    (∀ (i : Fin 16) (d : Int), s.bgRuns = true → exec (.sensorTrim 8 i d) s =
      .next (s.onDmp fun m => { m with hub := modSensor m.hub i.val fun x => { x with trim := x.trim + max (-1) (min 1 d) } }).settle) ∧
    (∀ n, s.board.resetN = true → s.sec.journalled = true → s.core.jnl.ringLost = false → s.core.jnl.copyNext = some n →
      let r := scanRange s.core.space s.core.mem s.core.ecc (ringSlot n) 128
      (r.2.2 = none → exec .journalFlashCopy s = .next (s.onCore fun c => { c with mem := r.1, ecc := r.2.1, jnl := { c.jnl with
        copied := n, flash := keepFlash (c.jnl.flash ++ [(n, r.1.read (ringSlot n) 128)])
        wear := c.jnl.wear.write 128 } }).settle) ∧
      (r.2.2 ≠ none → exec .journalFlashCopy s = .next (s.onCore fun c => { c with mem := r.1, ecc := r.2.1, jnl := { c.jnl with
        copied := n, flash := keepFlash c.jnl.flash, wear := c.jnl.wear.write 0 } }).settle)) ∧
    (s.bgRuns = true → s.lan.telEn = true → exec .telemetryPeriodic s = .next s.telPeriod.settle) ∧
    (s.damperUp = true → 2 ≤ s.sec.stage → s.sec.stage ≠ 6 → ∃ s', exec .hoursTick s = .next s' ∧
      s'.dmp = { s.dmp with hours := (s.dmp.hours + 1) % 2 ^ 32 } ∧ s'.flash = { s.flash with hours := (s.dmp.hours + 1) % 2 ^ 32 })

/-- R286, R333 to R343: the two power loops, points and voltages, calibration, droop, temperatures and the follow-peer ceiling. The
estimate's inputs are free (log 8, DESIGN CHOICE). -/
def Obligations.DamperCompletes : Prop :=
  ∀ (s : State) (d : Fin 8),
    let x := s.dmp.die d.val
    let put := fun (f : Die → Die) => (s.onDmp fun m => m.modDie d.val f).settle
    (s.damperUp = true → ∃ s', exec .estimateLoopTick s = .next s' ∧ s'.dmp.cap = s.dmp.cap ∧ s'.board = s.board ∧
      (∀ e : Fin 8, (s.dmp.die e.val).powered = true →
        let y := (s.dmp.die e.val).retarget (s.core.preference e.val) (s.dmp.capCeil s.core.seq) s.nym.follow s.dmp.vtfall s.dmp.pwrbrk
        (s'.dmp.die e.val).target = y.target ∧ (s.dmp.pwrbrk = true → y.target = 0) ∧ y.target ≤ s.core.preference e.val ∧
        y.target ≤ s.dmp.capCeil s.core.seq ∧ y.target ≤ (s.dmp.die e.val).thceil ∧ y.target ≤ y.limceil ∧ y.target ≤ y.folceil ∧
        (y.target < (s.dmp.die e.val).op → (s'.dmp.die e.val).op = (s.dmp.die e.val).op - 1) ∧
        ((s.dmp.die e.val).op ≤ y.target → (s'.dmp.die e.val).op = (s.dmp.die e.val).op))) ∧
    (x.powered = true → x.rising = true → x.op < x.target → x.since = 10 → exec (.voltageSettled d) s =
      .next (put fun y => { y with op := y.op + 1, rising := false, margin := y.marginAt s.dmp.hours, since := 0 })) ∧
    (∀ mv ma, s.damperUp = true → ∃ s', exec (.measuredSample mv ma) s = .next s' ∧ s'.dmp.rawSum = 0 ∧ s'.dmp.rawCount = 0 ∧
      s'.dmp.window.head? = some (mv, ma, if s.dmp.rawCount = 0 then 0 else s.dmp.rawSum / s.dmp.rawCount) ∧
      s'.dmp.window.length = min 1000 (s.dmp.window.length + 1)) ∧
    (s.damperUp = true → s.dmp.window ≠ [] →
      let f := s.dmp.fit
      (f.1.1 * 10 < f.1.2 * 8 ∨ f.1.2 * 125 < f.1.1 * 100 ∨ 150 * f.2.2 < f.2.1 ∨ f.2.1 < -150 * f.2.2 → exec .calibrationFit s =
        .next (((s.onDmp fun d => { d with calhold := true }).noteFault 0x0902).telEvent 5 (leBytes 2 0x0902)).settle) ∧
      (¬ (f.1.1 * 10 < f.1.2 * 8 ∨ f.1.2 * 125 < f.1.1 * 100 ∨ 150 * f.2.2 < f.2.1 ∨ f.2.1 < -150 * f.2.2) →
        ∃ s', exec .calibrationFit s = .next s' ∧ s'.dmp.calhold = false ∧
          s'.dmp.gain = ((s.dmp.gain : Int) + freeRound s.core.seq (f.1.1 * 16384 - s.dmp.gain * f.1.2) (4 * f.1.2)).toNat ∧
          s'.dmp.offset = s.dmp.offset + freeRound (s.core.seq + 1) (f.2.1 - s.dmp.offset * f.2.2) (4 * f.2.2))) ∧
    (s.damperUp = true → s.dmp.excess = true → exec .powerExcessAlert s =
      .next (((s.noteFault 0x0904).telEvent 5 (leBytes 2 0x0904)).alert 1).settle) ∧
    (∀ n, x.powered = true → 1000 < n → exec (.droopDetected d n) s =
      .next (put fun y => { y with stretched := true, droops := satInc y.droops 0xFFFF, lim := some (y.op - 1) })) ∧
    (∀ n, x.powered = true → n ≤ 1000 → exec (.droopDetected d n) s =
      .next (put fun y => { y with stretched := true, droops := satInc y.droops 0xFFFF })) ∧
    exec (.droopRecovered d) s = .next (put fun y => { y with stretched := false }) ∧
    exec (.droopLimitExpiry d) s = .next (put fun y => { y with lim := none }) ∧
    (∀ rs hbm, s.damperUp = true → x.powered = true → 12 ≤ validCount (sampleAll x.sensors rs) →
      exec (.sensorSample ⟨d.val, Nat.lt_succ_of_lt d.isLt⟩ rs hbm) s = .next (put fun y => { y with
        sensors := sampleAll x.sensors rs, temp := hottest (sampleAll x.sensors rs) (some (2 * hbm)), hbm := hbm
        tj := encInt 8 (hottest (sampleAll x.sensors rs) (some (2 * hbm)) / 2), nsens := validCount (sampleAll x.sensors rs) })) ∧
    (x.powered = true → (190 ≤ x.temp ∨ 190 ≤ hottest s.dmp.hub none) → exec (.thermalCeilingStep d) s =
      .next (put fun y => { y with thceil := y.thceil - 1 })) ∧
    (x.powered = true → x.temp < 186 → hottest s.dmp.hub none < 190 → exec (.thermalCeilingStep d) s =
      .next (put fun y => { y with thceil := min 15 (y.thceil + 1) })) ∧
    (∀ op : Fin 16, s.nym.follow = true → s.core.waitsOnMembers = true → exec (.followCeiling op) s =
      .next (s.onDmp fun m => m.allDies fun y => { y with follow := some (min 15 (op.val + s.nym.fmargin)) }).settle) ∧
    exec .followRelease s = .next (s.onDmp fun m => m.allDies fun y => { y with follow := none }).settle

/-- R342, R344, R396, R397, R407: each cause of bivouac mode enters it with its number; the power-down that ends the entry; the
thermal trip, which takes core power until PWR_EN falls. -/
def Obligations.BivouacCausesComplete : Prop :=
  ∀ (s : State) (d : Fin 8), s.damperUp = true → 2 ≤ s.sec.stage → s.sec.stage ≠ 6 →
    ((s.dmp.die d.val).powered = true → (s.dmp.die d.val).thceil = 0 → 200 ≤ (s.dmp.die d.val).temp →
      exec (.thermalPersistent d) s = .next (s.bivouac 1).settle) ∧
    (s.dmp.excess = true → exec .powerExcessPersistent s = .next (s.bivouac 2).settle) ∧
    exec .inputRailOutOfRange s = .next (s.bivouac 3).settle ∧
    ((s.dmp.die d.val).powered = true → exec (.computeDieLost d) s = .next (s.bivouac 4).settle) ∧
    (∀ u : Fin 24, u.val < 8 → exec (.memoryTrainingFailed u) s = .next (s.bivouac 5).settle) ∧
    (∀ u : Fin 24, 8 ≤ u.val → exec (.memoryTrainingFailed u) s =
      .next ((s.onCore fun c => { c with jnl := { c.jnl with ringLost := true } }).bivouac 6).settle) ∧
    exec .hubUncorrectableError s = .next (s.bivouac 7).settle ∧
    exec (.lanternWatchdogRestart true) s = .next (s.bivouac 8).settle ∧
    ((s.startImage s.sec.minsec).sec.stage = 2 → exec (.lanternWatchdogRestart false) s = .next ({ s.startImage s.sec.minsec with
      sec := { (s.startImage s.sec.minsec).sec with
        restart := s.sec.restart || decide (5 ≤ s.sec.stage), wantRestart := none } } : State).settle) ∧
    (s.board.corePower = true → exec .refclkLoss s = .next ((s.onBoard fun b => { b with refclk := false }).bivouac 4).settle) ∧
    (s.lan.bivActive = false → ∀ c, (s.bivouac c).lan.bivActive = true ∧ (s.bivouac c).lan.bivCause = c ∧
      (s.bivouac c).lan.bivCount = satInc s.lan.bivCount 0xFF ∧ (s.bivouac c).lan.stopping = true ∧ (s.bivouac c).sec.stage = 7 ∧
      (s.bivouac c).core.ctxs = [] ∧ (s.bivouac c).core.packs = [] ∧ (s.bivouac c).rebinds = []) ∧
    (s.lan.stopping = true → ∃ s', exec .bivouacPowerDownComplete s = .next s' ∧ s'.lan.stopping = false ∧
      s'.board = { s.board with corePower := false, hbmPower := false } ∧ (∀ e : Fin 8, (s'.dmp.die e.val).powered = false)) ∧
    (∃ s', exec .thermtrip s = .next s' ∧ s'.board = { s.board with thermtrip := true, corePower := false } ∧ s'.core.ctxs = [] ∧
      (∀ e : Fin 8, (s'.dmp.die e.val).powered = false))

/-- R339, R365 to R369, R404 to R411, R413, R416, R417, R424: reset and boot, power, PWRBRK_N, clocks, the TAP and the UART. -/
def Obligations.BoardEventsComplete : Prop :=
  ∀ (s : State),
    let b := s.board
    let put := fun (f : Board → Board) => (s.onBoard f).settle
    (b.resetN = true → exec .resetNAssert s =
      .next (s.internalReset.onBoard fun b => { b with resetN := false, heldReset := false }).settle) ∧
    (b.resetN = false → b.pgood = true → b.settled = true → exec .resetNDeassert s = .next s.startBoot.settle) ∧
    (b.resetN = false → b.pgood = false → exec .resetNDeassert s = .next (put fun b => { b with heldReset := true })) ∧
    (b.pgood = true → b.heldReset = true → exec .heldResetNRelease s =
      .next (s.onBoard fun b => { b with settled := true }).startBoot.settle) ∧
    (b.pgood = true → b.heldReset = false → exec .heldResetNRelease s = .next (put fun b => { b with settled := true })) ∧
    (b.resetN = true → s.sec.restart = false →
      (s.sec.stage = 0 → exec .bootStageAdvance s = .next ({ s with sec := { s.sec with
        stage := 1, seed := some s.deviceSeed
        idok := (certKey s.flash.chain).map sha3 == some (sha3 (mlKeyGen s.deviceSeed).1) } } : State).settle) ∧
      (s.sec.stage = 1 → exec .bootStageAdvance s = .next (s.bootImage (!s.sec.locked)).settle) ∧
      (s.sec.stage = 2 → exec .bootStageAdvance s = .next (({ s with sec := { s.sec with stage := 3 } } : State).bootJournal
        (!s.lan.bivActive || !s.core.jnl.ringLost)).settle) ∧
      (s.sec.stage = 3 → s.lan.bivActive = false → b.refclk = true → b.thermtrip = false → exec .bootStageAdvance s =
        .next ({ s.powerUp with sec := { s.powerUp.sec with stage := 4 } } : State).settle) ∧
      (s.sec.stage = 3 → s.lan.bivActive = false → b.refclk = false → exec .bootStageAdvance s = .next (s.bivouac 4).settle) ∧
      (s.sec.stage = 3 → s.lan.bivActive = true → exec .bootStageAdvance s =
        .next ({ s with sec := { s.sec with stage := 7 } } : State).settle) ∧
      (s.sec.stage = 4 → exec .bootStageAdvance s = .next ({ s with sec := { s.sec with stage := 5 } } : State).settle)) ∧
    (s.sec.trial = true → 2 ≤ s.sec.stage → s.sec.stage < 5 → s.sec.restart = false → exec .trialWatchdog s =
      .next ({ s.startImage s.sec.minsec with sec := { (s.startImage s.sec.minsec).sec with restart := false } } : State).settle) ∧
    (b.on = false → b.island = true → b.offTime = false → exec .pwrEnAssert s =
      .next (put fun b => { b with pwrEn := true, on := true, wantOn := false })) ∧
    (b.on = true → exec .pwrEnDeassert s = .next (s.unpower.onBoard fun b =>
      { b with pwrEn := false, on := false, wantOn := false, offTime := true, thermtrip := false }).settle) ∧
    (b.wantOn = true → b.island = true → exec .minimumOffTimeElapsed s =
      .next (put fun b => { b with offTime := false, pwrEn := true, on := true, wantOn := false })) ∧
    (b.wantOn = false → exec .minimumOffTimeElapsed s = .next (put fun b => { b with offTime := false })) ∧
    (b.on = true → b.input = true → b.overvolt = false → b.refclk = true → b.mgtclk = true → b.ethclk = true → b.pgood = false →
      exec .railsGood s = .next (put fun b => { b with rails := true, pgood := true, settled := false })) ∧
    (b.wantOn = false → exec .standbyStart s = .next (put fun b => { b with input := true, island := true })) ∧
    exec .standbyStop s = .next (s.unpower.onBoard fun b => { b with
      input := false, island := false, wantOn := b.pwrEn || b.wantOn, pwrEn := false, on := false, offTime := false, brk := false }).settle ∧
    exec .inputOvervoltage s = .next (s.unpower.onBoard fun b => { b with overvolt := true }).settle ∧
    exec .inputSwitchClosure s = .next (put fun b => { b with overvolt := false }) ∧
    (∀ low, b.rawPwrbrk ≠ low → b.resetN = true → exec (.rawPwrbrkNEdge low) s =
      .next (put fun b => { b with rawPwrbrk := low, pbtrans := satInc b.pbtrans 0xFFFF })) ∧
    (b.island = true → b.rawPwrbrk = true → b.brk = false → s.damperUp = true → exec .pwrbrkAssert s =
      .next (((s.onBoard fun b => { b with brk := true, brkPeriods := 0 }).onDmp fun d => { d with pwrbrk := true }).telEvent 4
        (leBytes 8 0)).settle) ∧
    (b.rawPwrbrk = false → exec .pwrbrkRelease s =
      .next ((s.onBoard fun b => { b with brk := false }).onDmp fun d => { d with pwrbrk := false }).settle) ∧
    exec .refclkReturn s = .next (put fun b => { b with refclk := true }) ∧
    exec .mgtclkLoss s = .next (put fun b => { b with mgtclk := false, intOsc := b.pgood }) ∧
    exec .mgtclkReturn s = .next (put fun b => { b with mgtclk := true, intOsc := false }) ∧
    exec .ethclkReturn s = .next (put fun b => { b with ethclk := true }) ∧
    (∃ s', exec .ethclkLoss s = .next s' ∧ s'.board = { b with ethclk := false } ∧ (∀ p : Fin 4, (s'.eth.port p.val).up = false)) ∧
    (b.pgood = true →
      exec .bypass s = .next (put fun b => { b with tap := .bypass }) ∧
      exec .samplePreload s = .next (put fun b => { b with tap := .sample }) ∧
      exec .idcode s = .next ((s.onBoard fun b => { b with tap := .idcode }).send (.event "TDO IDCODE" 0x1A8CD0E3 0)).settle ∧
      exec .extest s = .next (put fun b => { b with tap := if b.resetN then .bypass else .extest }) ∧
      exec .extestPulse s = .next (put fun b => { b with tap := if b.resetN then .bypass else .extestPulse }) ∧
      exec .extestTrain s = .next (put fun b => { b with tap := if b.resetN then .bypass else .extestTrain })) ∧
    (∀ v, exec (.uartRxByte v) s = .next s.settle)


/-! ### Rules of the machine as a whole -/

/-- Tables 4.11, 4.12, 6.1, 10.5, 12.1, 13.8, 14.2, 15.6, 16.4, 19.1 and others: the values registers hold after a reset. -/
def Obligations.ResetHoldsItsValues : Prop :=
  State.reset.regRead .hbmmap = 0xFFFFFFFFFFFF ∧ (∀ p, p < 8 → State.reset.regRead (.pmode p) = 1) ∧
  State.reset.regRead .bivStat = 0 ∧ State.reset.regRead .telCtl % 2 = 0 ∧ State.reset.regRead .alert = 0 ∧
  State.reset.regRead .scrub = 0x3C1818 ∧ State.reset.regRead .capVersion = 0x400A0100 ∧ State.reset.regRead .rtStat = 0 ∧
  (∀ d, d < 8 → State.reset.regRead (.smpStat d) / 2 ^ 32 % 8 = 1) ∧ (∀ n, n < 16 → State.reset.regRead (.schSlot n) = 0) ∧
  fld State.reset.core.ration 4 4 = 250 ∧ State.reset.core.ctxs = [] ∧ State.reset.core.packs = [] ∧ State.reset.pending = [] ∧
  State.reset.sec.stage = 0 ∧ State.reset.board.resetN = false ∧ State.reset.board.corePower = false ∧ State.reset.memWf ∧
  State.reset.powerOrder

/-- R344, R368, R404 to R407, R411: power good needs the rails, the input and PWR_EN; RESET_N is deasserted inside only while power
is good; boot, bivouac mode and core power need RESET_N deasserted; and a latched thermal trip keeps core power off. Every
command keeps this, from any state. -/
def Obligations.PowerOrderIsKept : Prop :=
  ∀ (c : Instr) (s s' : State), s.powerOrder → exec c s = .next s' → s'.powerOrder

/-- R399: bivouac mode is left only by the exit command, or by a reset, of which a loss of power is one. -/
def Obligations.BivouacIsLeftOnlyByExitOrReset : Prop :=
  ∀ (c : Instr) (s s' : State), s.lan.bivActive = true → exec c s = .next s' → s'.lan.bivActive = false →
    (∃ h cause, c = .bivouacExit h cause) ∨ c ∈ [.resetNAssert, .pwrEnDeassert, .standbyStop, .inputOvervoltage]

/-- R118: the word of an instruction decodes to it, for every strand and body; and every word that decodes is the word of what it
decodes to. -/
def Obligations.DecodeOfEncode : Prop :=
  (∀ (i : Instr) (t : StrandId) (op : BitVec 8) (b : Body) (w : BitVec 128), insParts i = some (t, op, b) → encodeIns i = some w →
    decodeIns t w = some i) ∧
  (∀ (t : StrandId) (w : BitVec 128) (i : Instr), decodeIns t w = some i → encodeIns i = some w)

/-- R118 to R120, Tables 5.1 to 5.5 and 5.7 to 5.21: words written out from the encoding decode to the instruction they stand for, with
the fields in their places, and pass its encoding check; reserved opcodes decode to none. -/
def Obligations.WordsDecode : Prop :=
  ∀ t : StrandId,
    decodeIns t 0x00000000000000000000000000000000 = some (.nop t 0) ∧
    (∃ b, decodeIns t (0x0B * 2 ^ 48 + 3 * 2 ^ 31 + 2 * 2 ^ 24 + 1 * 2 ^ 17 + 0x01) = some (.salu t b) ∧ encCheck 0x01 (insOf b) = .ok () ∧
      (insOf b).func = 0x0B ∧ (insOf b).op1 = 1 ∧ (insOf b).op2 = 2 ∧ (insOf b).op3 = 3 ∧ (insOf b).pred = 0) ∧
    (∃ b, decodeIns t (0x1234 * 2 ^ 56 + 5 * 2 ^ 17 + 1 * 2 ^ 16 + 3 * 2 ^ 12 + 1 * 2 ^ 8 + 0x06) = some (.smovi t b) ∧
      encCheck 0x06 (insOf b) = .ok () ∧ (insOf b).imm = 0x1234 ∧ (insOf b).op1 = 5 ∧ (insOf b).pred = 3 ∧ (insOf b).psense = true) ∧
    (∃ b, decodeIns t (0xFFFFFFFFFFFFFFFF * 2 ^ 56 + 1 * 2 ^ 8 + 0x10) = some (.br t b) ∧ encCheck 0x10 (insOf b) = .ok () ∧
      (insOf b).imm = 2 ^ 64 - 1) ∧
    (∃ b, decodeIns t (1 * 2 ^ 47 + 7 * 2 ^ 38 + 6 * 2 ^ 31 + 5 * 2 ^ 24 + 4 * 2 ^ 17 + 0x20) = some (.valu t b) ∧
      encCheck 0x20 (insOf b) = .ok () ∧ (insOf b).mask = true ∧ (insOf b).op4 = 7 ∧ (insOf b).func = 0) ∧
    (∃ b, decodeIns t (15 * 2 ^ 24 + 9 * 2 ^ 17 + 1 * 2 ^ 8 + 0x40) = some (.dld t b) ∧ encCheck 0x40 (insOf b) = .ok () ∧
      (insOf b).op1 = 9 ∧ (insOf b).op2 = 15) ∧
    (∃ b, decodeIns t (5 * 2 ^ 107 + 4 * 2 ^ 103 + 31 * 2 ^ 98 + 0x80 * 2 ^ 77 + 0x40 * 2 ^ 56 + 2 * 2 ^ 17 + 2 * 2 ^ 8 + 0x51) =
      some (.mma t b) ∧ encCheck 0x51 (insOf b) = .ok () ∧ (insOf b).bfmt = 5 ∧ (insOf b).afmt = 4 ∧ (insOf b).n = 32 ∧
      (insOf b).ospa = 0x40 ∧ (insOf b).ospb = 0x80 ∧ (insOf b).op1 = 2) ∧
    (∃ b, decodeIns t (1 * 2 ^ 119 + 31 * 2 ^ 113 + 6 * 2 ^ 38 + 4 * 2 ^ 31 + 2 * 2 ^ 24 + 0 * 2 ^ 17 + 3 * 2 ^ 8 + 0x60) =
      some (.gemm t b) ∧ encCheck 0x60 (insOf b) = .ok () ∧ (insOf b).rcpen = true ∧ (insOf b).recipe = 31) ∧
    (∃ b, decodeIns t (3 * 2 ^ 60 + 2 * 2 ^ 56 + 1 * 2 ^ 8 + 0xA4) = some (.bar t b) ∧ bits (insOf b).imm 0 2 = 2 ∧ bits (insOf b).imm 4 4 = 3) ∧
    decodeIns t 0x09 = none ∧ decodeIns t 0x64 = none ∧ decodeIns t 0xFF = none

/-- R73, R78: a reduction of class 8I without group scales, SAT = 0, is the exact sum of its products modulo 2^32. -/
def Obligations.IntegerProductIsExact : Prop :=
  ∀ (rdnz : Bool) (ls : List (Int × Int)),
    (canonical .int false rdnz (ls.map fun p => (Val.i p.1, Val.i p.2))).1 = encInt 32 ((ls.map fun p => p.1 * p.2).sum)

/-- R73, R74: push_node over the grains of a reduction but the last, in ascending order, then finish, gives canonical_sum, element by
element, for every kind of accumulation. -/
def Obligations.TreeStackGivesCanonicalSum : Prop :=
  ∀ (k : AccKind) (sat rdnz : Bool) (n : Nat) (ps : List (List Nat)) (last : List Nat), last.length = n → (∀ p ∈ ps, p.length = n) →
    let st := (ps.zipIdx.foldl (fun (r : List Node × List (Nat × Ev)) p => pushNode k sat rdnz r.1 ⟨0, p.2, p.1⟩ r.2) ([], [])).1
    ∀ e, e < n → (finishNode k sat rdnz st last).1[e]? =
      treeFold (fun a b => (accAdd k sat rdnz a b).1) (ps.length + 1) ((ps ++ [last]).map fun p => p.getD e 0)

/-- R224: the uniform value of a word is exactly (2 · (w >> 9) + 1) · 2^-24, between 2^-24 and 1 - 2^-24, never 0 or 1; a word and its
complement give u and 1 - u; and TNDU, which writes such values, sets no flag. -/
def Obligations.UniformValuesAreExact : Prop :=
  (∀ w, w < 2 ^ 32 → (∃ j : Nat, fp32.decode (uniform32 w) = .fin false ((2 * (w / 2 ^ 9) + 1) * 2 ^ j) (-24 - j)) ∧
    1 ≤ 2 * (w / 2 ^ 9) + 1 ∧ 2 * (w / 2 ^ 9) + 1 ≤ 2 ^ 24 - 1 ∧ uniform32 w ≠ 0 ∧ uniform32 w ≠ 0x3F800000 ∧
    2 * ((2 ^ 32 - 1 - w) / 2 ^ 9) + 1 = 2 ^ 24 - (2 * (w / 2 ^ 9) + 1)) ∧
  (∀ (s : State) (t : StrandId) (b : Body) (y : X), running s t b 0x79 = some y →
    exec (.tndu t b) s = .next (s.completed t (y.setV (insOf b).op1 ((tndWords y (insOf b)).map uniform32))) ∧
    (y.setV (insOf b).op1 ((tndWords y (insOf b)).map uniform32)).num = y.num)

/-- R114: where the CAP block's registers lie, and what they hold in every state. -/
def Obligations.CapabilitiesReadAsStated : Prop :=
  regAt (blockOff 0x10) = some .capVersion ∧ regAt (blockOff 0x10 + 8) = some (.capMask 0) ∧ regAt (blockOff 0x10 + 16) = some (.capMask 1) ∧
  ∀ s : State, s.regRead .capVersion = 0x400A0100 ∧
    bits (s.regRead .capVersion) 32 32 = 0 ∧ bits (s.regRead .capVersion) 24 8 = 0x40 ∧ bits (s.regRead .capVersion) 16 8 = 0x0A ∧
    bits (s.regRead .capVersion) 8 8 = 1 ∧ bits (s.regRead .capVersion) 0 8 = 0 ∧
    (∀ i, i < 64 → bit (s.regRead (.capMask 0)) i = decide (i < 15)) ∧ s.regRead (.capMask 1) = 0

/-- R89 and Table 4.1: the registers of each strand that a launch starts; the tile memories of the context stay (R90). -/
def Obligations.LaunchSetsTheRegisters : Prop :=
  ∀ (s : State) (k : Fin 1024) (cx : Context) (p : Pack) (l : Launch) (e : Entry) (b i : Nat),
    lookup s.core.ctxs k.val = some cx → lookup s.core.packs cx.pack = some p → cx.live = true →
    cx.launches.find? (fun l => l.base.isNone) = some l → p.entries[l.entry]? = some e → cx.freeBase l.count = some b →
    cx.launches.any (fun o => o.base.isSome && (p.entries[o.entry]?).any fun oe => e.conflicts oe) = false → i < l.count →
    (cx.start p).tiles = cx.tiles ∧ ∃ r, lookup (cx.start p).strands (b + i) = some r ∧
      r.s.toList[0]? = some 0 ∧ r.s.toList[1]? = some (BitVec.ofNat 64 l.arg) ∧ r.s.toList[2]? = some (BitVec.ofNat 64 i) ∧
      r.s.toList[3]? = some (BitVec.ofNat 64 l.count) ∧ (∀ n, 4 ≤ n → n < 32 → r.s.toList[n]? = some 0) ∧
      r.d = Vector.replicate 16 0 ∧ r.p.toList[0]? = some true ∧ (∀ n, 1 ≤ n → n < 8 → r.p.toList[n]? = some false) ∧
      r.v = Vector.replicate 32 (Vector.replicate 64 0) ∧ r.pc = BitVec.ofNat 64 e.addr ∧ r.prg = 0 ∧ r.held = none

/-- The instructions that read memory, tile memory or registers and complete: memory, predicate registers and slot registers but
FPFLAGS stay; SLD and RGRD write one scalar register, DLD and DSET one descriptor, VLD and VTRD one vector register or pair. -/
def Obligations.LoadsFrame : Prop :=
  ∀ (s s' : State) (t : StrandId) (b : Body) (op : BitVec 8) (c : Instr) (y z : X), insParts c = some (t, op, b) →
    op ∈ [0x07, 0x30, 0x32, 0x40, 0x42, 0xA5, 0xC2] → running s t b op.toNat = some y → opFn op.toNat b y = .ok z → untrapped y z →
    exec c s = .next s' → s.fewErrors →
    (∀ a, s'.core.mem.get a = s.core.mem.get a) ∧
    ∃ cx cx' r r', lookup s.core.ctxs t.ctx.val = some cx ∧ lookup s'.core.ctxs t.ctx.val = some cx' ∧
      lookup cx.strands t.idx.val = some r ∧ lookup cx'.strands t.idx.val = some r' ∧
      cx'.num = { cx.num with fpflags := cx'.num.fpflags } ∧ cx'.coll = cx.coll ∧ cx'.bars = cx.bars ∧
      r'.p = r.p ∧ r'.acks = r.acks ∧ r'.rank = r.rank ∧
      (op ∉ [0x07, 0xC2] → r'.s = r.s) ∧ (∀ n, n ≠ (insOf b).op1 → r'.s.toList[n]? = r.s.toList[n]?) ∧
      (op ∉ [0x40, 0x42] → r'.d = r.d) ∧ (∀ n, n ≠ (insOf b).op1 → r'.d.toList[n]? = r.d.toList[n]?) ∧
      (op ∉ [0x30, 0x32] → r'.v = r.v) ∧
      (∀ n, n ≠ (insOf b).op1 → n ≠ (insOf b).op1 + 1 → r'.v.toList[n]? = r.v.toList[n]?)
end

