-- ==== Sys2Proof/Laws/Commands.lean ====
section
/-!
SUPPORT. What a command of a host does once it has its turn, and what a register write of a row does that is accepted.
-/
namespace Sys2Proof.Machine

/-- A command that has its turn and answers at once. -/
theorem State.command_now {s : State} {h : HostCmd} {opc : Nat} {ctx : Option Nat} {run : State → State × Fin'} {s1 : State}
    {st res src : Nat} {det ex : List Byte} (a : s.admits h opc ctx) (e : run (s.turn h) = (s1, .now st res src det ex)) :
    s.command h opc ctx run = s1.complete h opc st res src det (ctx.getD h.ctx) ex := by
  obtain ⟨b1, b2, a1, a2, a3⟩ := a
  unfold State.turn at e
  simp only [State.command, b1, b2, a1, a2, a3, e, not_true, ne_eq, or_self, if_false, Bool.false_eq_true]

/-- A command that has its turn and answers later. -/
theorem State.command_later {s : State} {h : HostCmd} {opc : Nat} {ctx : Option Nat} {run : State → State × Fin'} {s1 : State}
    (a : s.admits h opc ctx) (e : run (s.turn h) = (s1, .later)) : s.command h opc ctx run = s1 := by
  obtain ⟨b1, b2, a1, a2, a3⟩ := a
  unfold State.turn at e
  simp only [State.command, b1, b2, a1, a2, a3, e, not_true, ne_eq, or_self, if_false, Bool.false_eq_true]

/-- A command denied to its path's partition (R305). -/
theorem State.command_refused {s : State} {h : HostCmd} {opc : Nat} {ctx : Option Nat} {run : State → State × Fin'}
    (b1 : s.started.contains h = true) (b2 : h.opc = opc) (a1 : s.gate h.path opc = .run) (a2 : ctx.any (fun k => (lookup s.core.ctxs k).any fun cx => cx.moving != .none) = false)
    (a3 : s.allow h opc ctx ≠ 0) : s.command h opc ctx run = (s.turn h).complete h opc (s.allow h opc ctx) 0 3 [] (ctx.getD h.ctx) := by
  simp only [State.command, State.turn, b1, b2, a1, a2, a3, not_true, ne_eq, or_self, if_false, if_true, not_false_eq_true, Bool.false_eq_true]

/-- Slot registers lie in the management register space. -/
theorem slotRegOf_range {a : Nat} {q : Nat × SlotReg} (h : slotRegOf a = some q) : mgmtBase ≤ a ∧ a < mgmtEnd := by
  have e1 : blockOff 0x0B = mgmtBase + 0x0B000000 := by simp only [blockOff]
  have e2 : blockOff 0x02 = mgmtBase + 0x02000000 := by simp only [blockOff]
  have e3 : mgmtEnd = mgmtBase + 0x11000000 := by decide
  unfold slotRegOf at h
  rw [e1, e2] at h
  rw [e3]
  generalize mgmtBase = m at *
  repeat' split at h
  all_goals first | omega | simp at h

/-- Every register lies in the management register space (R97). -/
theorem regAt_mgmt {a : Nat} {r : Reg} (h : regAt a = some r) : (areaOf a).1 = .mgmt := by
  have h1 : mgmtBase ≤ a ∧ a < mgmtEnd := by
    unfold regAt at h
    split at h
    · exact slotRegOf_range (by assumption)
    · split at h
      · assumption
      · cases h
  have h2 : pantryEnd ≤ mgmtBase := by decide
  have h3 : winEnd ≤ mgmtBase := by decide
  have h4 : lpEnd ≤ mgmtBase := by decide
  have h5 : hbmEnd ≤ mgmtBase := by decide
  unfold areaOf
  rw [if_neg (by omega), if_neg (by omega), if_neg (by omega), if_neg (by omega), if_pos h1]

/-- A write at a register's address is a register write. -/
theorem State.writeAt_reg {s : State} {src : Src} {p : Path} {a n v d : Nat} {r : Reg} (h : regAt a = some r) :
    s.writeAt src p a n v d = s.regWrite src p a n v d := by
  simp [State.writeAt, regAt_mgmt h]

/-- A register write whose access and value are in order is journalled and takes effect. -/
theorem State.regWrite_ok {s : State} {p : Path} {a v d : Nat} {r : Reg} (h : regAt a = some r)
    (c : s.accessCheck p a 8 true d = 0) (k : s.regCheck r v = 0) :
    s.regWrite (s.srcOf p) p a 8 v d = (0, (s.logged p a r v).regApply r v) := by
  unfold State.regWrite State.logged
  simp only [h, c, k, ne_eq, not_true, if_true, if_false]

/-- The access check of a register that a path reaches. -/
theorem State.accessCheck_ok {s : State} {p : Path} {a d : Nat} {r : Reg} (h : regAt a = some r) (g : s.reaches p r) (m : a % 8 = 0) :
    s.accessCheck p a 8 true d = 0 := by
  obtain ⟨_, g2, g3⟩ := g
  unfold State.accessCheck
  have : ¬ (s.lan.bivActive = true ∧ ¬ s.keeps p = true) := fun q => q.2 (g3 q.1)
  rw [if_neg this]
  simp [h, g2, m]

/-- A register write that has come through, to a register that is reached, of a value that is accepted. -/
theorem State.regSent_ok {s : State} {p : Path} {a v : Nat} {r : Reg} (h : regAt a = some r) (g : s.reaches p r) (m : a % 8 = 0)
    (k : s.regCheck r v = 0) (b : Nat) : s.regSent p a 8 v b = (s.logged p a r v).regApply r v := by
  unfold State.regSent
  simp only [g.1, not_true, if_false]
  rw [State.writeAt_reg h, State.regWrite_ok h (State.accessCheck_ok h g m) k]
  simp

/-- A register row whose register is reached and whose value is accepted. -/
theorem State.regRow_ok {s : State} {p : Path} {a v : Nat} {r : Reg} (h : regAt a = some r) (g : s.rowReaches p a r) (m : a % 8 = 0)
    (k : s.regCheck r v = 0) : s.regRow p a v = (s.logged p a r v).regApply r v := by
  unfold State.regRow
  rw [if_pos g.1, State.regSent_ok h g.2 m k]

/-- A store of the M8 itself changes main memory and its error state. -/
theorem Core.store_ok (c : Core) (a : Nat) (bs : List Byte) : ∃ m x, c.store a bs = { c with mem := m, ecc := x } := ⟨_, _, rfl⟩
/-- A read of the WCLK counter advances it. -/
theorem Core.readWclk_ok (c : Core) : ∃ t w q, c.readWclk = (t, { c with wclk := w, seq := q }) := ⟨_, _, _, rfl⟩

/-- What the journal writes: its ring and state, the clock it read and what is sent. -/
theorem Core.journal_ok (c : Core) (src : Src) (e : JEntry) : ∃ m x w q j o,
    c.journal src e = { c with mem := m, ecc := x, wclk := w, seq := q, jnl := j, out := o } := by
  obtain ⟨t, w, q, e1⟩ := Core.readWclk_ok c
  unfold Core.journal
  simp only [e1]
  generalize jHead _ _ _ _ _ = hd
  generalize sha3 _ = h
  by_cases hr : c.jnl.ringLost = true
  · simp only [hr, if_true, Core.send]
    exact ⟨_, _, _, _, _, _, rfl⟩
  · obtain ⟨m, x, e2⟩ := Core.store_ok (Core.send { c with wclk := w, seq := q } (Out.event "UART_TXD journal entry" c.jnl.next e.kind)) (ringSlot c.jnl.next) (hd ++ h)
    simp only [hr, if_false, Bool.false_eq_true, e2]
    exact ⟨_, _, _, _, _, _, rfl⟩

/-- What a register write changes by being journalled. -/
theorem State.logged_ok (s : State) (p : Path) (a : Nat) (r : Reg) (v : Nat) : ∃ m x w q j o,
    s.logged p a r v = { s with core := { s.core with mem := m, ecc := x, wclk := w, seq := q, jnl := j, out := o } } := by
  unfold State.logged State.journal
  split
  · obtain ⟨m, x, w, q, j, o, e⟩ := Core.journal_ok s.core (s.srcOf p) { kind := 1, code := 0, addr := a, old := s.regRead r, new := v }
    exact ⟨m, x, w, q, j, o, by rw [e]⟩
  · exact ⟨_, _, _, _, _, _, rfl⟩

/-- A register row whose register is reached and whose value is accepted, as its instruction. -/
theorem exec_regRow {i : Instr} {s : State} {p : Path} {a v : Nat} {r : Reg} (e : exec i s = .next (s.regRow p a v).settle)
    (h : regAt a = some r ∧ a % 8 = 0) (g : s.rowReaches p a r) (k : s.regCheck r v = 0) :
    exec i s = .next ((s.logged p a r v).regApply r v).settle := by
  rw [e, State.regRow_ok h.1 g h.2 k]

/-- The registers of a slot stay when a register write is journalled. -/
theorem State.logged_slotNum (s : State) (p : Path) (a : Nat) (r : Reg) (v n : Nat) :
    (s.logged p a r v).core.slotNum n = s.core.slotNum n := by
  obtain ⟨m, x, w, q, j, o, e⟩ := s.logged_ok p a r v
  rw [e]
  rfl

/-- A row that writes a register of a slot. -/
theorem exec_slotRow {i : Instr} {s : State} {p : Path} {a v k : Nat} {g : SlotReg} {r : NumRegs}
    (e : exec i s = .next (s.regRow p a v).settle) (h : regAt a = some (.slot k g) ∧ a % 8 = 0)
    (q : s.rowReaches p a (.slot k g)) (w : (s.core.slotNum k).write g v = some r) :
    exec i s = .next ((s.logged p a (.slot k g) v).onCore fun c => c.setSlotNum k r).settle := by
  have c : s.regCheck (.slot k g) v = 0 := by
    unfold State.regCheck
    simp [Reg.res0, w]
  rw [exec_regRow e h q c]
  unfold State.regApply State.onCore
  simp only []
  rw [State.logged_slotNum, w]

end Sys2Proof.Machine
end

