-- ==== Sys2Proof/Laws/Memory.lean ====
section
/-!
SUPPORT. Memory keeps its canonical form under every operation on it, and what a byte reads as after a write.
-/
namespace Sys2Proof.Machine

/-! ### Rising lists -/

theorem risingFrom_mono {lo lo' : Nat} (h : lo ≤ lo') : ∀ {l : List Host.Cell}, risingFrom lo' l = true → risingFrom lo l = true
  | [], _ => rfl
  | c :: t, hr => by
    simp only [risingFrom, Bool.and_eq_true, decide_eq_true_eq] at hr ⊢
    exact ⟨Nat.le_trans h hr.1, hr.2⟩

theorem risingFrom_ge : ∀ {l : List Host.Cell} {lo : Nat}, risingFrom lo l = true → ∀ c ∈ l, lo ≤ c.1
  | d :: t, lo, h, c, hc => by
    simp only [risingFrom, Bool.and_eq_true, decide_eq_true_eq] at h
    rcases List.mem_cons.1 hc with rfl | hc
    · exact h.1
    · exact Nat.le_trans h.1 (Nat.le_of_succ_le (risingFrom_ge h.2 c hc))

theorem risingFrom_append : ∀ {a b : List Host.Cell} {lo mid : Nat}, risingFrom lo a = true → (∀ c ∈ a, c.1 < mid) → lo ≤ mid →
    risingFrom mid b = true → risingFrom lo (a ++ b) = true
  | [], _, _, _, _, _, hm, hb => risingFrom_mono hm hb
  | c :: t, b, lo, mid, ha, hc, _, hb => by
    simp only [risingFrom, Bool.and_eq_true, decide_eq_true_eq, List.cons_append] at ha ⊢
    exact ⟨ha.1, risingFrom_append ha.2 (fun d hd => hc d (List.mem_cons_of_mem _ hd)) (hc c (List.mem_cons_self ..)) hb⟩

theorem risingFrom_filter {p : Host.Cell → Bool} : ∀ {l : List Host.Cell} {lo : Nat}, risingFrom lo l = true →
    risingFrom lo (l.filter p) = true
  | [], _, _ => rfl
  | c :: t, lo, h => by
    simp only [risingFrom, Bool.and_eq_true, decide_eq_true_eq] at h
    by_cases hp : p c = true
    · simp only [List.filter_cons, hp, if_true, risingFrom, Bool.and_eq_true, decide_eq_true_eq]
      exact ⟨h.1, risingFrom_filter h.2⟩
    · simp only [List.filter_cons, hp]
      exact risingFrom_mono (Nat.le_succ_of_le h.1) (risingFrom_filter h.2)

theorem risingFrom_filter_ge {b : Nat} : ∀ {l : List Host.Cell} {lo : Nat}, risingFrom lo l = true →
    risingFrom b (l.filter (fun c => b ≤ c.1)) = true
  | [], _, _ => rfl
  | c :: t, lo, h => by
    simp only [risingFrom, Bool.and_eq_true, decide_eq_true_eq] at h
    by_cases hp : b ≤ c.1
    · simp only [List.filter_cons, hp, decide_true, if_true, risingFrom, Bool.true_and]
      exact risingFrom_filter h.2
    · simp only [List.filter_cons, hp, decide_false]
      exact risingFrom_filter_ge h.2

/-! ### Cells of a byte string -/

theorem cellsOf_bounds : ∀ {bs : List Byte} {a : Nat}, ∀ c ∈ cellsOf a bs, a ≤ c.1 ∧ c.1 < a + bs.length ∧ c.2 ≠ 0
  | b :: t, a, c, hc => by
    simp only [cellsOf] at hc
    split at hc
    · have := cellsOf_bounds c hc
      simp only [List.length_cons]
      exact ⟨by omega, by omega, this.2.2⟩
    · rcases List.mem_cons.1 hc with rfl | hc
      · simp_all
      · have := cellsOf_bounds c hc
        simp only [List.length_cons]
        exact ⟨by omega, by omega, this.2.2⟩

theorem cellsOf_rising : ∀ (bs : List Byte) (a : Nat), risingFrom a (cellsOf a bs) = true
  | [], _ => rfl
  | b :: t, a => by
    simp only [cellsOf]
    split
    · exact risingFrom_mono (Nat.le_succ a) (cellsOf_rising t (a + 1))
    · simp only [risingFrom, Bool.and_eq_true, decide_eq_true_eq]
      exact ⟨Nat.le_refl _, cellsOf_rising t (a + 1)⟩

/-! ### Undefined intervals -/

theorem junkAt_none {m : Mem} {a : Nat} : m.junkAt a = none ↔ ∀ j ∈ m.junk, ¬ (j.1 ≤ a ∧ a < j.1 + j.2.1) := by
  simp [Mem.junkAt, List.find?_eq_none]

theorem cutJunk_inside {l : List (Nat × Nat × Nat)} {a n x : Nat} {j : Nat × Nat × Nat} (h : j ∈ cutJunk l a n)
    (hx : j.1 ≤ x ∧ x < j.1 + j.2.1) : (x < a ∨ a + n ≤ x) ∧ ∃ k ∈ l, k.1 ≤ x ∧ x < k.1 + k.2.1 := by
  simp only [cutJunk, List.mem_flatten, List.mem_map] at h
  obtain ⟨_, ⟨k, hk, rfl⟩, hj⟩ := h
  have hj := (List.mem_filter.1 hj).1
  simp only [List.mem_cons, List.not_mem_nil, or_false] at hj
  rcases hj with rfl | rfl
  · simp only at hx
    exact ⟨by omega, k, hk, by omega⟩
  · simp only at hx
    exact ⟨by omega, k, hk, by omega⟩

/-! ### The canonical form is kept -/

theorem Mem.wf_iff {m : Mem} : m.wf = true ↔ risingFrom 0 m.cells = true ∧ ∀ c ∈ m.cells, c.2 ≠ 0 ∧ m.junkAt c.1 = none := by
  simp [Mem.wf, List.all_eq_true]

theorem Mem.write_wf {m : Mem} (h : m.wf = true) (a : Nat) (bs : List Byte) : (m.write a bs).wf = true := by
  rw [Mem.wf_iff] at h ⊢
  refine ⟨?_, fun c hc => ?_⟩
  · refine risingFrom_append (mid := a + bs.length) (risingFrom_append (mid := a) (risingFrom_filter h.1) ?_ (Nat.zero_le _)
      (cellsOf_rising bs a)) ?_ (Nat.zero_le _) (risingFrom_filter_ge h.1)
    · intro c hc; simpa using (List.mem_filter.1 hc).2
    · intro c hc
      rcases List.mem_append.1 hc with hc | hc
      · have : c.1 < a := by simpa using (List.mem_filter.1 hc).2
        omega
      · exact (cellsOf_bounds c hc).2.1
  · simp only [Mem.write, List.mem_append] at hc
    have old : c ∈ m.cells → c.2 ≠ 0 ∧ (m.write a bs).junkAt c.1 = none := fun hm => by
      refine ⟨(h.2 c hm).1, junkAt_none.2 fun j hj hx => ?_⟩
      obtain ⟨_, k, hk, hkx⟩ := cutJunk_inside hj hx
      exact junkAt_none.1 (h.2 c hm).2 k hk hkx
    rcases hc with (hc | hc) | hc
    · exact old (List.mem_filter.1 hc).1
    · have hb := cellsOf_bounds c hc
      refine ⟨hb.2.2, junkAt_none.2 fun j hj hx => ?_⟩
      have := (cutJunk_inside hj hx).1
      omega
    · exact old (List.mem_filter.1 hc).1

theorem Mem.clear_wf {m : Mem} (h : m.wf = true) (a n : Nat) : (m.clear a n).wf = true := by
  rw [Mem.wf_iff] at h ⊢
  refine ⟨risingFrom_append (mid := a + n) (risingFrom_filter h.1) ?_ (Nat.zero_le _) (risingFrom_filter_ge h.1), fun c hc => ?_⟩
  · intro c hc
    have : c.1 < a := by simpa using (List.mem_filter.1 hc).2
    omega
  · simp only [Mem.clear, List.mem_append] at hc
    have hm : c ∈ m.cells := by
      rcases hc with hc | hc
      · exact (List.mem_filter.1 hc).1
      · exact (List.mem_filter.1 hc).1
    refine ⟨(h.2 c hm).1, junkAt_none.2 fun j hj hx => ?_⟩
    obtain ⟨_, k, hk, hkx⟩ := cutJunk_inside hj hx
    exact junkAt_none.1 (h.2 c hm).2 k hk hkx

theorem Mem.spoil_wf {m : Mem} (h : m.wf = true) (a n tag : Nat) : (m.spoil a n tag).wf = true := by
  unfold Mem.spoil
  split
  · exact Mem.clear_wf h a n
  · have hc := Mem.wf_iff.1 (Mem.clear_wf h a n)
    refine Mem.wf_iff.2 ⟨hc.1, fun c hm => ⟨(hc.2 c hm).1, junkAt_none.2 fun j hj hx => ?_⟩⟩
    rcases List.mem_append.1 hj with hj | hj
    · exact junkAt_none.1 (hc.2 c hm).2 j hj hx
    · simp only [List.mem_singleton] at hj
      subst hj
      simp only [Mem.clear, List.mem_append] at hm
      rcases hm with hm | hm
      · have : c.1 < a := by simpa using (List.mem_filter.1 hm).2
        simp only at hx; omega
      · have : a + n ≤ c.1 := by simpa using (List.mem_filter.1 hm).2
        simp only at hx; omega

theorem Mem.undefined_wf (tag : Nat) : (Mem.undefined tag).wf = true := rfl

theorem State.reset_memWf : State.reset.memWf := rfl

/-! ### The symbol code keeps the form -/

theorem scanWord_wf {sp : Space} {m : Mem} {e : Ecc} (h : m.wf = true) (w : Nat) : (scanWord sp m e w).1.wf = true := by
  unfold scanWord
  split
  · exact h
  split
  · exact h
  split
  · exact h
  dsimp only
  split
  · exact Mem.write_wf h _ _
  · dsimp only
    split
    · exact h
    · exact Mem.write_wf h _ _
  · exact h

theorem foldl_keeps {α β : Type} {P : α → Prop} {f : α → β → α} (h : ∀ r x, P r → P (f r x)) :
    ∀ (l : List β) (r : α), P r → P (l.foldl f r)
  | [], _, hr => hr
  | x :: t, r, hr => foldl_keeps h t (f r x) (h r x hr)

theorem scanRange_wf {sp : Space} {m : Mem} {e : Ecc} (h : m.wf = true) (a n : Nat) : (scanRange sp m e a n).1.wf = true := by
  refine foldl_keeps (P := fun r : Mem × Ecc × Option Nat => r.1.wf = true) (fun r w hr => ?_) _ _ h
  obtain ⟨m', e', o⟩ := r
  cases o with
  | some v => exact hr
  | none => exact scanWord_wf hr w

theorem storeRange_wf {sp : Space} {m : Mem} {e : Ecc} (h : m.wf = true) (a : Nat) (bs : List Byte) :
    (storeRange sp m e a bs).1.wf = true := by
  unfold storeRange
  dsimp only
  split
  · exact Mem.write_wf h _ _
  · refine foldl_keeps (P := fun mm : Mem => mm.wf = true) (fun mm w hm => Mem.write_wf hm _ _) _ _ (Mem.write_wf ?_ _ _)
    refine foldl_keeps (P := fun r : Mem × Ecc × List Nat => r.1.wf = true) (fun r w hr => ?_) _ _ h
    split
    · exact hr
    · split
      · exact hr
      · split
        · exact hr
        · exact scanWord_wf hr w

theorem Core.store_wf {c : Core} (h : c.mem.wf = true) (a : Nat) (bs : List Byte) : (c.store a bs).mem.wf = true :=
  storeRange_wf h a bs

/-! ### Reading after writing -/

theorem find_filter {p q : Host.Cell → Bool} (h : ∀ c, q c = true → p c = true) :
    ∀ l : List Host.Cell, (l.filter p).find? q = l.find? q
  | [] => rfl
  | c :: t => by
    by_cases hp : p c = true
    · simp only [List.filter_cons, hp, if_true, List.find?_cons, find_filter h t]
    · have hq : q c = false := Bool.eq_false_iff.2 fun hq => hp (h c hq)
      simp [hp, hq, find_filter h t]

theorem find_filter_none {p q : Host.Cell → Bool} (h : ∀ c, q c = true → p c = false) (l : List Host.Cell) :
    (l.filter p).find? q = none := by
  rw [List.find?_eq_none]
  intro c hc hq
  have := (List.mem_filter.1 hc).2
  simp [h c hq] at this

theorem cutJunk_find (x a n : Nat) (hx : x < a ∨ a + n ≤ x) : ∀ l : List (Nat × Nat × Nat),
    ((cutJunk l a n).find? (fun j => j.1 ≤ x && x < j.1 + j.2.1)).map (fun j => j.2.2) =
      (l.find? (fun j => j.1 ≤ x && x < j.1 + j.2.1)).map (fun j => j.2.2)
  | [] => rfl
  | k :: t => by
    have ih := cutJunk_find x a n hx t
    have hc : cutJunk (k :: t) a n =
        [(k.1, min (k.1 + k.2.1) a - k.1, k.2.2),
          (max k.1 (a + n), k.1 + k.2.1 - max k.1 (a + n), k.2.2)].filter (fun y => 0 < y.2.1) ++ cutJunk t a n := rfl
    rw [hc, List.find?_append, List.find?_cons]
    by_cases hk : k.1 ≤ x ∧ x < k.1 + k.2.1
    · have hk' : (decide (k.1 ≤ x) && decide (x < k.1 + k.2.1)) = true := by simp [hk]
      simp only [hk']
      by_cases h1 : x < a
      · have p1 : 0 < min (k.1 + k.2.1) a - k.1 := by omega
        have q1 : x < k.1 + (min (k.1 + k.2.1) a - k.1) := by omega
        simp [List.filter_cons, p1, hk.1, q1]
      · have p2 : 0 < k.1 + k.2.1 - max k.1 (a + n) := by omega
        have q0 : ¬ (x < k.1 + (min (k.1 + k.2.1) a - k.1)) := by omega
        have q1 : max k.1 (a + n) ≤ x := by omega
        have q2 : x < max k.1 (a + n) + (k.1 + k.2.1 - max k.1 (a + n)) := by omega
        by_cases p1 : 0 < min (k.1 + k.2.1) a - k.1
        · simp only [List.filter_cons, List.filter_nil, p1, p2, decide_true, if_true, List.find?_cons, q0, q1, q2, decide_false,
            Bool.and_false, Bool.and_true, Option.some_or, Option.map_some]
        · simp only [List.filter_cons, List.filter_nil, p1, p2, decide_true, decide_false, if_true, List.find?_cons, q1, q2,
            Bool.and_true, Option.some_or, Option.map_some, Bool.false_eq_true, if_false]
    · have hk' : (decide (k.1 ≤ x) && decide (x < k.1 + k.2.1)) = false := by
        simpa using hk
      have none1 : ([(k.1, min (k.1 + k.2.1) a - k.1, k.2.2),
          (max k.1 (a + n), k.1 + k.2.1 - max k.1 (a + n), k.2.2)].filter (fun y => 0 < y.2.1)).find?
          (fun j => j.1 ≤ x && x < j.1 + j.2.1) = none := by
        rw [List.find?_eq_none]
        intro j hj
        have hj := (List.mem_filter.1 hj).1
        simp only [List.mem_cons, List.not_mem_nil, or_false] at hj
        rcases hj with rfl | rfl
        · simp only [Bool.and_eq_true, decide_eq_true_eq]; omega
        · simp only [Bool.and_eq_true, decide_eq_true_eq]; omega
      simp only [hk', none1, Option.none_or, ih]

theorem Mem.unlisted_eq (m : Mem) (x : Nat) : m.unlisted x =
    ((m.junk.find? (fun j => j.1 ≤ x && x < j.1 + j.2.1)).map (fun j => j.2.2)).elim 0 (fun t => Config.freeByte t x) := by
  unfold Mem.unlisted Mem.junkAt
  cases m.junk.find? (fun j => decide (j.1 ≤ x) && decide (x < j.1 + j.2.1)) <;> rfl

/-- A byte outside a stored range reads as before. -/
theorem Mem.get_write_outside {m : Mem} {a x : Nat} {bs : List Byte} (hx : x < a ∨ a + bs.length ≤ x) :
    (m.write a bs).get x = m.get x := by
  have hu : (m.write a bs).unlisted x = m.unlisted x := by
    rw [Mem.unlisted_eq, Mem.unlisted_eq]
    show (Option.map (fun j => j.2.2) ((cutJunk m.junk a bs.length).find? (fun j => j.1 ≤ x && x < j.1 + j.2.1))).elim 0
      (fun t => Config.freeByte t x) = _
    rw [cutJunk_find x a bs.length hx]
  have hf : (m.write a bs).cells.find? (fun c => c.1 == x) = m.cells.find? (fun c => c.1 == x) := by
    show ((m.cells.filter (fun c => c.1 < a) ++ cellsOf a bs) ++ m.cells.filter (fun c => a + bs.length ≤ c.1)).find? _ = _
    have mid : (cellsOf a bs).find? (fun c => c.1 == x) = none := by
      rw [List.find?_eq_none]
      intro c hc
      have := cellsOf_bounds c hc
      simp only [beq_iff_eq]; omega
    rw [List.find?_append, List.find?_append, mid]
    rcases hx with hx | hx
    · rw [find_filter (p := fun c => decide (c.1 < a)) (by intro c hc; simp only [beq_iff_eq] at hc; simp [hc, hx]),
        find_filter_none (p := fun c => decide (a + bs.length ≤ c.1)) (by
          intro c hc; simp only [beq_iff_eq] at hc; simp only [decide_eq_false_iff_not]; omega)]
      simp
    · rw [find_filter_none (p := fun c => decide (c.1 < a)) (by
          intro c hc; simp only [beq_iff_eq] at hc; simp only [decide_eq_false_iff_not]; omega),
        find_filter (p := fun c => decide (a + bs.length ≤ c.1)) (by intro c hc; simp only [beq_iff_eq] at hc; simp [hc, hx])]
      simp
  unfold Mem.get
  rw [hf]
  cases m.cells.find? (fun c => c.1 == x) with
  | some c => rfl
  | none => exact hu

theorem cellsOf_find : ∀ (bs : List Byte) (a i : Nat) (h : i < bs.length),
    (cellsOf a bs).find? (fun c => c.1 == a + i) = if bs[i] = 0 then none else some (a + i, bs[i])
  | b :: t, a, 0, _ => by
    have later : (cellsOf (a + 1) t).find? (fun c => c.1 == a) = none := by
      rw [List.find?_eq_none]
      intro c hc
      have := (cellsOf_bounds c hc).1
      simp only [beq_iff_eq]; omega
    by_cases hb : b = 0
    · subst hb
      simpa [cellsOf] using later
    · rw [cellsOf, if_neg hb]
      simp only [List.getElem_cons_zero, if_neg hb, List.find?_cons, Nat.add_zero, beq_self_eq_true]
  | b :: t, a, i + 1, h => by
    have ih := cellsOf_find t (a + 1) i (by simpa using h)
    have e : a + 1 + i = a + (i + 1) := by omega
    rw [e] at ih
    by_cases hb : b = 0
    · subst hb
      simpa [cellsOf] using ih
    · have ne : (a == a + (i + 1)) = false := by simp
      rw [cellsOf, if_neg hb, List.find?_cons, ne]
      simpa using ih

/-- A byte of a stored range reads as what was stored. -/
theorem Mem.get_write_inside (m : Mem) (a : Nat) (bs : List Byte) (i : Nat) (h : i < bs.length) : (m.write a bs).get (a + i) = bs[i] := by
  have pre : (m.cells.filter (fun c => c.1 < a)).find? (fun c => c.1 == a + i) = none :=
    find_filter_none (by intro c hc; simp only [beq_iff_eq] at hc; simp only [decide_eq_false_iff_not]; omega) _
  have post : (m.cells.filter (fun c => a + bs.length ≤ c.1)).find? (fun c => c.1 == a + i) = none :=
    find_filter_none (by intro c hc; simp only [beq_iff_eq] at hc; simp only [decide_eq_false_iff_not]; omega) _
  have hu : (m.write a bs).unlisted (a + i) = 0 := by
    have : (m.write a bs).junkAt (a + i) = none := by
      rw [junkAt_none]
      intro j hj
      simp only [Mem.write, cutJunk, List.mem_flatten, List.mem_map] at hj
      obtain ⟨l, ⟨k, _, rfl⟩, hj⟩ := hj
      have hj := (List.mem_filter.1 hj).1
      simp only [List.mem_cons, List.not_mem_nil, or_false] at hj
      rcases hj with rfl | rfl <;> dsimp only <;> omega
    simp only [Mem.unlisted, this]
  unfold Mem.get
  rw [show (m.write a bs).cells = (m.cells.filter (fun c => c.1 < a) ++ cellsOf a bs) ++ m.cells.filter (fun c => a + bs.length ≤ c.1) from rfl,
    List.find?_append, List.find?_append, pre, post, cellsOf_find bs a i h]
  by_cases hb : bs[i] = 0
  · simp only [hb, if_true, Option.none_or, hu]
  · simp only [hb, if_false, Option.none_or, Option.some_or]

/-- One pass along rising cells gives each address's byte. -/
theorem Mem.along_eq (m : Mem) : ∀ (n a : Nat) (l : List Host.Cell), risingFrom a l = true →
    m.along l (List.range' a n) = (List.range' a n).map ({ m with cells := l } : Mem).get
  | 0, _, _, _ => by simp [Mem.along]
  | n + 1, a, [], _ => by
    rw [List.range'_succ, Mem.along, Mem.along_eq m n (a + 1) [] rfl]
    rfl
  | n + 1, a, c :: t, h => by
    have hc : a ≤ c.1 ∧ risingFrom (c.1 + 1) t = true := by simpa [risingFrom] using h
    rw [List.range'_succ, Mem.along, List.map_cons]
    split
    · rename_i hx
      rw [Mem.along_eq m n (a + 1) t (hx ▸ hc.2)]
      congr 1
      · simp [Mem.get, hx]
      · refine List.map_congr_left fun x hr => ?_
        have : c.1 ≠ x := by have := (List.mem_range'_1.1 hr).1; omega
        simp [Mem.get, Mem.unlisted, Mem.junkAt, this]
    · rename_i hx
      rw [Mem.along_eq m n (a + 1) (c :: t) (by simp [risingFrom, hc.2]; omega)]
      congr 1
      have none' : (c :: t).find? (fun d => d.1 == a) = none := by
        rw [List.find?_eq_none]
        intro d hd
        have : a + 1 ≤ d.1 := risingFrom_ge (l := c :: t) (lo := a + 1) (by simp [risingFrom, hc.2]; omega) d hd
        simp only [beq_iff_eq]; omega
      simp only [Mem.get, none']
      rfl

/-- A read is its bytes, one by one. -/
theorem Mem.read_eq (m : Mem) (a n : Nat) : m.read a n = (span a n).map m.get := by
  have key : ∀ x ∈ span a n, ({ m with cells := m.cells.filter (fun c => a ≤ c.1 && c.1 < a + n) } : Mem).get x = m.get x := by
    intro x hx
    have hx : a ≤ x ∧ x < a + n := by
      simp only [span, List.mem_map, List.mem_range] at hx
      obtain ⟨k, hk, rfl⟩ := hx
      omega
    unfold Mem.get
    dsimp only
    rw [find_filter (p := fun c => decide (a ≤ c.1) && decide (c.1 < a + n))
      (by intro c hc; simp only [beq_iff_eq] at hc; simp only [hc, Bool.and_eq_true, decide_eq_true_eq]; exact hx)]
    rfl
  unfold Mem.read
  dsimp only
  split
  · rename_i h
    simp only [Bool.and_eq_true, List.isEmpty_iff] at h
    rw [show span a n = (List.range n).map (a + ·) from rfl] at key ⊢
    apply List.ext_getElem
    · simp
    · intro i h1 h2
      simp only [List.getElem_replicate, List.getElem_map, List.getElem_range]
      have hi : i < n := by simpa using h1
      rw [← key (a + i) (List.mem_map.2 ⟨i, by simpa using hi, rfl⟩)]
      simp only [h.1, Mem.get, Mem.unlisted, Mem.junkAt, h.2, List.find?_nil]
  · split
    · rename_i h
      have hr : span a n = List.range' a n := by rw [List.range'_eq_map_range]; rfl
      rw [hr, Mem.along_eq m n a _ h, ← hr]
      exact List.map_congr_left key
    · exact List.map_congr_left key

/-- A range that was just stored reads as what was stored. -/
theorem Mem.read_write (m : Mem) (a : Nat) (bs : List Byte) : (m.write a bs).read a bs.length = bs := by
  rw [Mem.read_eq]
  apply List.ext_getElem
  · simp [span]
  · intro i h1 h2
    simp only [span, List.getElem_map, List.getElem_range]
    exact Mem.get_write_inside m a bs i h2

end Sys2Proof.Machine
end

