-- ==== Sys2Proof/Laws/PerInstr.lean ====
section
/-!
SUPPORT. The family RoundTrip: for every command, if it is an instruction of a strand, the opcode and the body that it spells give
it back (05, R118). One lemma per constructor of the commands.
-/
namespace Sys2Proof.Laws.RoundTrip
open Sys2Proof Sys2Proof.Machine

/-- What an instruction spells as strand, opcode and body reads back as the instruction; a command that is no instruction of a strand
spells nothing. -/
def Statement (i : Instr) : Prop :=
  ∀ (t : StrandId) (op : BitVec 8) (b : Body), insParts i = some (t, op, b) → instrOf t b op.toNat = some i

/-- A command that spells no instruction has the statement. -/
theorem of_none {i : Instr} (h : insParts i = none) : Statement i := by
  intro t op b hp
  rw [h] at hp
  cases hp

/-- An instruction that reads back from what it spells has the statement. -/
theorem of_some {i : Instr} {t : StrandId} {op : BitVec 8} {b : Body} (h : insParts i = some (t, op, b))
    (hr : instrOf t b op.toNat = some i) : Statement i := by
  intro t' op' b' hp
  rw [h] at hp
  cases hp
  exact hr

theorem nop (t : StrandId) (b : Body) : Statement (.nop t b) := of_some rfl rfl
theorem salu (t : StrandId) (b : Body) : Statement (.salu t b) := of_some rfl rfl
theorem salui (t : StrandId) (b : Body) : Statement (.salui t b) := of_some rfl rfl
theorem scmp (t : StrandId) (b : Body) : Statement (.scmp t b) := of_some rfl rfl
theorem scmpi (t : StrandId) (b : Body) : Statement (.scmpi t b) := of_some rfl rfl
theorem plog (t : StrandId) (b : Body) : Statement (.plog t b) := of_some rfl rfl
theorem smovi (t : StrandId) (b : Body) : Statement (.smovi t b) := of_some rfl rfl
theorem sld (t : StrandId) (b : Body) : Statement (.sld t b) := of_some rfl rfl
theorem sst (t : StrandId) (b : Body) : Statement (.sst t b) := of_some rfl rfl
theorem br (t : StrandId) (b : Body) : Statement (.br t b) := of_some rfl rfl
theorem call (t : StrandId) (b : Body) : Statement (.call t b) := of_some rfl rfl
theorem bri (t : StrandId) (b : Body) : Statement (.bri t b) := of_some rfl rfl
theorem endStrand (t : StrandId) (b : Body) : Statement (.endStrand t b) := of_some rfl rfl
theorem valu (t : StrandId) (b : Body) : Statement (.valu t b) := of_some rfl rfl
theorem vfma (t : StrandId) (b : Body) : Statement (.vfma t b) := of_some rfl rfl
theorem vcmp (t : StrandId) (b : Body) : Statement (.vcmp t b) := of_some rfl rfl
theorem vsel (t : StrandId) (b : Body) : Statement (.vsel t b) := of_some rfl rfl
theorem vred (t : StrandId) (b : Body) : Statement (.vred t b) := of_some rfl rfl
theorem vperm (t : StrandId) (b : Body) : Statement (.vperm t b) := of_some rfl rfl
theorem vbcast (t : StrandId) (b : Body) : Statement (.vbcast t b) := of_some rfl rfl
theorem vmovs (t : StrandId) (b : Body) : Statement (.vmovs t b) := of_some rfl rfl
theorem vexp2 (t : StrandId) (b : Body) : Statement (.vexp2 t b) := of_some rfl rfl
theorem vlog2 (t : StrandId) (b : Body) : Statement (.vlog2 t b) := of_some rfl rfl
theorem vtab (t : StrandId) (b : Body) : Statement (.vtab t b) := of_some rfl rfl
theorem vstat (t : StrandId) (b : Body) : Statement (.vstat t b) := of_some rfl rfl
theorem vld (t : StrandId) (b : Body) : Statement (.vld t b) := of_some rfl rfl
theorem vst (t : StrandId) (b : Body) : Statement (.vst t b) := of_some rfl rfl
theorem vtrd (t : StrandId) (b : Body) : Statement (.vtrd t b) := of_some rfl rfl
theorem vtwr (t : StrandId) (b : Body) : Statement (.vtwr t b) := of_some rfl rfl
theorem dld (t : StrandId) (b : Body) : Statement (.dld t b) := of_some rfl rfl
theorem dst (t : StrandId) (b : Body) : Statement (.dst t b) := of_some rfl rfl
theorem dset (t : StrandId) (b : Body) : Statement (.dset t b) := of_some rfl rfl
theorem dget (t : StrandId) (b : Body) : Statement (.dget t b) := of_some rfl rfl
theorem tld (t : StrandId) (b : Body) : Statement (.tld t b) := of_some rfl rfl
theorem tst (t : StrandId) (b : Body) : Statement (.tst t b) := of_some rfl rfl
theorem aopen (t : StrandId) (b : Body) : Statement (.aopen t b) := of_some rfl rfl
theorem mma (t : StrandId) (b : Body) : Statement (.mma t b) := of_some rfl rfl
theorem mconv (t : StrandId) (b : Body) : Statement (.mconv t b) := of_some rfl rfl
theorem afin (t : StrandId) (b : Body) : Statement (.afin t b) := of_some rfl rfl
theorem aexp (t : StrandId) (b : Body) : Statement (.aexp t b) := of_some rfl rfl
theorem aimp (t : StrandId) (b : Body) : Statement (.aimp t b) := of_some rfl rfl
theorem gred (t : StrandId) (b : Body) : Statement (.gred t b) := of_some rfl rfl
theorem nanTrapRecord (k : Fin 1024) : Statement (.nanTrapRecord k) := of_none rfl
theorem gemm (t : StrandId) (b : Body) : Statement (.gemm t b) := of_some rfl rfl
theorem convolve (t : StrandId) (b : Body) : Statement (.convolve t b) := of_some rfl rfl
theorem bgemm (t : StrandId) (b : Body) : Statement (.bgemm t b) := of_some rfl rfl
theorem attn (t : StrandId) (b : Body) : Statement (.attn t b) := of_some rfl rfl
theorem rapply (t : StrandId) (b : Body) : Statement (.rapply t b) := of_some rfl rfl
theorem panelArrival (t : StrandId) (data : List Byte) : Statement (.panelArrival t data) := of_none rfl
theorem splitKFlagReady (t : StrandId) : Statement (.splitKFlagReady t) := of_none rfl
theorem arriveFlagReady (t : StrandId) : Statement (.arriveFlagReady t) := of_none rfl
theorem ptpub (t : StrandId) (b : Body) : Statement (.ptpub t b) := of_some rfl rfl
theorem kvput (t : StrandId) (b : Body) : Statement (.kvput t b) := of_some rfl rfl
theorem msum (t : StrandId) (b : Body) : Statement (.msum t b) := of_some rfl rfl
theorem bsort (t : StrandId) (b : Body) : Statement (.bsort t b) := of_some rfl rfl
theorem walkBegin (t : StrandId) (obj : W64) : Statement (.walkBegin t obj) := of_none rfl
theorem tndw (t : StrandId) (b : Body) : Statement (.tndw t b) := of_some rfl rfl
theorem tndu (t : StrandId) (b : Body) : Statement (.tndu t b) := of_some rfl rfl
theorem tndn (t : StrandId) (b : Body) : Statement (.tndn t b) := of_some rfl rfl
theorem tfill (t : StrandId) (b : Body) : Statement (.tfill t b) := of_some rfl rfl
theorem sample (t : StrandId) (b : Body) : Statement (.sample t b) := of_some rfl rfl
theorem samplerFaultDetected (d : Fin 8) (t : Option (StrandId × Body)) : Statement (.samplerFaultDetected d t) := of_none rfl
theorem samplerSelftestComplete (d : Fin 8) (pass : Bool) : Statement (.samplerSelftestComplete d pass) := of_none rfl
theorem powerOnSelftestComplete (d : Fin 8) (pass : Bool) : Statement (.powerOnSelftestComplete d pass) := of_none rfl
theorem press (t : StrandId) (b : Body) : Statement (.press t b) := of_some rfl rfl
theorem phist (t : StrandId) (b : Body) : Statement (.phist t b) := of_some rfl rfl
theorem tgen (t : StrandId) (b : Body) : Statement (.tgen t b) := of_some rfl rfl
theorem tgenDrainComplete (t : StrandId) : Statement (.tgenDrainComplete t) := of_none rfl
theorem decodeRequestAccept (t : StrandId) (d : Fin 16) (n : Nat) : Statement (.decodeRequestAccept t d n) := of_none rfl
theorem blockDelivered : Statement .blockDelivered := of_none rfl
theorem coll (t : StrandId) (b : Body) : Statement (.coll t b) := of_some rfl rfl
theorem collectiveComplete (t : StrandId) (peers : List Peer) : Statement (.collectiveComplete t peers) := of_none rfl
theorem memb (t : StrandId) (b : Body) : Statement (.memb t b) := of_some rfl rfl
theorem membWaitComplete (t : StrandId) : Statement (.membWaitComplete t) := of_none rfl
theorem rput (t : StrandId) (b : Body) : Statement (.rput t b) := of_some rfl rfl
theorem xdisp (t : StrandId) (b : Body) : Statement (.xdisp t b) := of_some rfl rfl
theorem xcomb (t : StrandId) (b : Body) : Statement (.xcomb t b) := of_some rfl rfl
theorem fset (t : StrandId) (b : Body) : Statement (.fset t b) := of_some rfl rfl
theorem fadd (t : StrandId) (b : Body) : Statement (.fadd t b) := of_some rfl rfl
theorem fcas (t : StrandId) (b : Body) : Statement (.fcas t b) := of_some rfl rfl
theorem fwait (t : StrandId) (b : Body) : Statement (.fwait t b) := of_some rfl rfl
theorem fwaitSatisfied (t : StrandId) : Statement (.fwaitSatisfied t) := of_none rfl
theorem bar (t : StrandId) (b : Body) : Statement (.bar t b) := of_some rfl rfl
theorem barrierComplete (t : StrandId) : Statement (.barrierComplete t) := of_none rfl
theorem fence (t : StrandId) (b : Body) : Statement (.fence t b) := of_some rfl rfl
theorem ophint (t : StrandId) (b : Body) : Statement (.ophint t b) := of_some rfl rfl
theorem ccnt (t : StrandId) (b : Body) : Statement (.ccnt t b) := of_some rfl rfl
theorem caprd (t : StrandId) (b : Body) : Statement (.caprd t b) := of_some rfl rfl
theorem rgrd (t : StrandId) (b : Body) : Statement (.rgrd t b) := of_some rfl rfl
theorem rgwr (t : StrandId) (b : Body) : Statement (.rgwr t b) := of_some rfl rfl
theorem yield (t : StrandId) (b : Body) : Statement (.yield t b) := of_some rfl rfl
theorem startAdmission (d : Fin 8) : Statement (.startAdmission d) := of_none rfl
theorem remoteAccessReceived : Statement .remoteAccessReceived := of_none rfl
theorem remoteResponseReceived : Statement .remoteResponseReceived := of_none rfl
theorem remoteFwaitAnswer (n : Nat) : Statement (.remoteFwaitAnswer n) := of_none rfl
theorem nopCommand (h : HostCmd) : Statement (.nopCommand h) := of_none rfl
theorem regrd (h : HostCmd) : Statement (.regrd h) := of_none rfl
theorem regwr (h : HostCmd) : Statement (.regwr h) := of_none rfl
theorem packLoad (h : HostCmd) (f : PackFacts) : Statement (.packLoad h f) := of_none rfl
theorem contextCreate (h : HostCmd) : Statement (.contextCreate h) := of_none rfl
theorem discard (h : HostCmd) : Statement (.discard h) := of_none rfl
theorem launch (h : HostCmd) : Statement (.launch h) := of_none rfl
theorem launchStart (k : Fin 1024) : Statement (.launchStart k) := of_none rfl
theorem resume (h : HostCmd) : Statement (.resume h) := of_none rfl
theorem saveContext (h : HostCmd) : Statement (.saveContext h) := of_none rfl
theorem restoreContext (h : HostCmd) : Statement (.restoreContext h) := of_none rfl
theorem binding (h : HostCmd) : Statement (.binding h) := of_none rfl
theorem bindingComplete : Statement .bindingComplete := of_none rfl
theorem linkRebindAbort : Statement .linkRebindAbort := of_none rfl
theorem rationSet (h : HostCmd) : Statement (.rationSet h) := of_none rfl
theorem partitionMode (h : HostCmd) : Statement (.partitionMode h) := of_none rfl
theorem videoStreamOpen (h : HostCmd) : Statement (.videoStreamOpen h) := of_none rfl
theorem videoStreamClose (h : HostCmd) : Statement (.videoStreamClose h) := of_none rfl
theorem submit (h : HostCmd) : Statement (.submit h) := of_none rfl
theorem frameStart (e : Fin 4) : Statement (.frameStart e) := of_none rfl
theorem sliceComplete (e : Fin 4) (slice : Nat) : Statement (.sliceComplete e slice) := of_none rfl
theorem decodeRowComplete (e : Fin 4) (rows : Nat) : Statement (.decodeRowComplete e rows) := of_none rfl
theorem frameComplete (e : Fin 4) (stream : Fin 256) : Statement (.frameComplete e stream) := of_none rfl
theorem videoWatchdog (e : Fin 4) (stream : Fin 256) : Statement (.videoWatchdog e stream) := of_none rfl
theorem firmwareStage (h : HostCmd) (erased written : Bool) : Statement (.firmwareStage h erased written) := of_none rfl
theorem firmwareActivate (h : HostCmd) : Statement (.firmwareActivate h) := of_none rfl
theorem lanternRestart : Statement .lanternRestart := of_none rfl
theorem attestationReport (h : HostCmd) : Statement (.attestationReport h) := of_none rfl
theorem bivouacExit (h : HostCmd) (cause : Option (Fin 8)) : Statement (.bivouacExit h cause) := of_none rfl
theorem doorbellCmdtail (qp : Fin 4096) (n : Fin 4096) (v : W64) : Statement (.doorbellCmdtail qp n v) := of_none rfl
theorem doorbellCplhead (qp : Fin 4096) (n : Fin 4096) (v : W64) : Statement (.doorbellCplhead qp n v) := of_none rfl
theorem commandEntryRead (n : Fin 4096) : Statement (.commandEntryRead n) := of_none rfl
theorem staleEntryReread (n : Fin 4096) : Statement (.staleEntryReread n) := of_none rfl
theorem completionRecordWrite (n : Fin 4096) : Statement (.completionRecordWrite n) := of_none rfl
theorem queueConfigWrite (p : Path) (n : Fin 4096) (reg : Fin 3) (v : W64) : Statement (.queueConfigWrite p n reg v) := of_none rfl
theorem rdmaWriteReceived (qp : Fin 4096) (va : W64) (rkey : W32) (data : List Byte) : Statement (.rdmaWriteReceived qp va rkey data) := of_none rfl
theorem rdmaReadReceived (qp : Fin 4096) (va : W64) (rkey : W32) (len : Nat) : Statement (.rdmaReadReceived qp va rkey len) := of_none rfl
theorem cnpReceived (qp : Fin 4096) : Statement (.cnpReceived qp) := of_none rfl
theorem rateIncrease (qp : Fin 4096) : Statement (.rateIncrease qp) := of_none rfl
theorem req (port : Fin 4) (service : W64) (remote : Nat) (mtu : Nat) (peer : Caller) :
    Statement (.req port service remote mtu peer) := of_none rfl
theorem rtu (qp : Fin 4096) : Statement (.rtu qp) := of_none rfl
theorem dreq (qp : Fin 4096) : Statement (.dreq qp) := of_none rfl
theorem rej (qp : Fin 4096) : Statement (.rej qp) := of_none rfl
theorem rdmaRetryExhausted (qp : Fin 4096) : Statement (.rdmaRetryExhausted qp) := of_none rfl
theorem frameReceived (port : Fin 4) (f : FrameKind) : Statement (.frameReceived port f) := of_none rfl
theorem portUp (port : Fin 4) : Statement (.portUp port) := of_none rfl
theorem portctlWrite (p : Path) (port : Fin 4) (v : W64) : Statement (.portctlWrite p port v) := of_none rfl
theorem mailboxDataWrite (p : Path) (m : Fin 32) (off : Nat) (data : List Byte) : Statement (.mailboxDataWrite p m off data) := of_none rfl
theorem mailboxSend (p : Path) (m : Fin 32) (v : W32) : Statement (.mailboxSend p m v) := of_none rfl
theorem mailboxTake (p : Path) (m : Fin 32) : Statement (.mailboxTake p m) := of_none rfl
theorem mctpVendorMessage (i3c : Bool) (addr : Nat) (vid : W32) (entry : List Byte) : Statement (.mctpVendorMessage i3c addr vid entry) := of_none rfl
theorem setEndpointId (i3c : Bool) (addr : Nat) (eid : Byte) : Statement (.setEndpointId i3c addr eid) := of_none rfl
theorem getEndpointId (i3c : Bool) (addr : Nat) : Statement (.getEndpointId i3c addr) := of_none rfl
theorem getMctpVersionSupport (i3c : Bool) (addr : Nat) (typ : Byte) : Statement (.getMctpVersionSupport i3c addr typ) := of_none rfl
theorem getMessageTypeSupport (i3c : Bool) (addr : Nat) : Statement (.getMessageTypeSupport i3c addr) := of_none rfl
theorem getEndpointUuid (i3c : Bool) (addr : Nat) : Statement (.getEndpointUuid i3c addr) := of_none rfl
theorem getTid (i3c : Bool) (addr : Nat) : Statement (.getTid i3c addr) := of_none rfl
theorem getPldmVersion (i3c : Bool) (addr : Nat) (typ : Byte) : Statement (.getPldmVersion i3c addr typ) := of_none rfl
theorem getPldmTypes (i3c : Bool) (addr : Nat) : Statement (.getPldmTypes i3c addr) := of_none rfl
theorem getPldmCommands (i3c : Bool) (addr : Nat) (typ : Byte) : Statement (.getPldmCommands i3c addr typ) := of_none rfl
theorem getPdrRepositoryInfo (i3c : Bool) (addr : Nat) : Statement (.getPdrRepositoryInfo i3c addr) := of_none rfl
theorem getPdr (i3c : Bool) (addr : Nat) (handle : W32) : Statement (.getPdr i3c addr handle) := of_none rfl
theorem getSensorReading (i3c : Bool) (addr : Nat) (sensor : Nat) : Statement (.getSensorReading i3c addr sensor) := of_none rfl
theorem getStateSensorReadings (i3c : Bool) (addr : Nat) (sensor : Nat) : Statement (.getStateSensorReadings i3c addr sensor) := of_none rfl
theorem setNumericSensorEnable (i3c : Bool) (addr : Nat) (sensor : Nat) (on : Bool) : Statement (.setNumericSensorEnable i3c addr sensor on) := of_none rfl
theorem setEventReceiver (i3c : Bool) (addr : Nat) (eid : Byte) : Statement (.setEventReceiver i3c addr eid) := of_none rfl
theorem registerWrite (p : Path) (addr : W64) (size : Nat) (v : W64) : Statement (.registerWrite p addr size v) := of_none rfl
theorem fpflagsClear (p : Path) (slot : Fin 16) (v : W64) : Statement (.fpflagsClear p slot v) := of_none rfl
theorem numctlWrite (p : Path) (slot : Fin 16) (v : W64) : Statement (.numctlWrite p slot v) := of_none rfl
theorem histctlClr (p : Path) (slot : Fin 16) (set : Fin 4) (v : W64) : Statement (.histctlClr p slot set v) := of_none rfl
theorem fitstatClr (p : Path) (slot : Fin 16) (v : W64) : Statement (.fitstatClr p slot v) := of_none rfl
theorem rcpstatClr (p : Path) (slot : Fin 16) (v : W64) : Statement (.rcpstatClr p slot v) := of_none rfl
theorem fltringWrite (p : Path) (slot : Fin 16) (v : W64) : Statement (.fltringWrite p slot v) := of_none rfl
theorem tailWrite (p : Path) (slot : Fin 16) (v : W64) : Statement (.tailWrite p slot v) := of_none rfl
theorem ecccntClr (p : Path) (unit : Fin 64) (v : W64) : Statement (.ecccntClr p unit v) := of_none rfl
theorem lanAlertClear (p : Path) (v : W64) : Statement (.lanAlertClear p v) := of_none rfl
theorem samplerTest (p : Path) (d : Fin 8) (v : W64) : Statement (.samplerTest p d v) := of_none rfl
theorem hbmmapWrite (p : Path) (v : W64) : Statement (.hbmmapWrite p v) := of_none rfl
theorem slotpartWrite (p : Path) (v : W64) : Statement (.slotpartWrite p v) := of_none rfl
theorem saveWindowAccess (p : Path) (addr : W64) (write : Option (List Byte)) (len : Nat) : Statement (.saveWindowAccess p addr write len) := of_none rfl
theorem devnumWrite (p : Path) (v : W64) : Statement (.devnumWrite p v) := of_none rfl
theorem routingLoad (p : Path) (v : W64) : Statement (.routingLoad p v) := of_none rfl
theorem routingCheckComplete : Statement .routingCheckComplete := of_none rfl
theorem routingVectorTimeout (link : Fin 24) : Statement (.routingVectorTimeout link) := of_none rfl
theorem routingActivate (p : Path) (v : W64) : Statement (.routingActivate p v) := of_none rfl
theorem routingRetire (p : Path) (v : W64) : Statement (.routingRetire p v) := of_none rfl
theorem stallAbort (p : Path) (v : W64) : Statement (.stallAbort p v) := of_none rfl
theorem capWrite (p : Path) (v : W64) : Statement (.capWrite p v) := of_none rfl
theorem linkTrained (link : Fin 24) (peerDev : Nat) (peerLevel : Nat) (peerLink : PeerLink) : Statement (.linkTrained link peerDev peerLevel peerLink) := of_none rfl
theorem flitReceived (link : Fin 24) (flit : List Byte) (fecBad : Bool) : Statement (.flitReceived link flit fecBad) := of_none rfl
theorem retryRequestReceived (link : Fin 24) (seq : Nat) : Statement (.retryRequestReceived link seq) := of_none rfl
theorem linkRetrain (link : Fin 24) : Statement (.linkRetrain link) := of_none rfl
theorem escapeMove (link : Fin 24) : Statement (.escapeMove link) := of_none rfl
theorem packetReceived : Statement .packetReceived := of_none rfl
theorem tableVectorReceived (link : Fin 24) (vec : TableVec) : Statement (.tableVectorReceived link vec) := of_none rfl
theorem keepalive (k : Fin 1024) : Statement (.keepalive k) := of_none rfl
theorem memberLost (k : Fin 1024) (rank : Nat) (code : Fin 6) : Statement (.memberLost k rank code) := of_none rfl
theorem abortReceived (k : Fin 1024) (status : W64) : Statement (.abortReceived k status) := of_none rfl
theorem transferStalled (t : StrandId) : Statement (.transferStalled t) := of_none rfl
theorem followCeiling (op : Fin 16) : Statement (.followCeiling op) := of_none rfl
theorem followRelease : Statement .followRelease := of_none rfl
theorem rationPeriodBoundary : Statement .rationPeriodBoundary := of_none rfl
theorem preemptionPointReached (k : Fin 1024) : Statement (.preemptionPointReached k) := of_none rfl
theorem contextSaveComplete (k : Fin 1024) : Statement (.contextSaveComplete k) := of_none rfl
theorem contextRestoreComplete (k : Fin 1024) : Statement (.contextRestoreComplete k) := of_none rfl
theorem scrubRead (addr : W64) : Statement (.scrubRead addr) := of_none rfl
theorem regionClearWrite : Statement .regionClearWrite := of_none rfl
theorem memoryRetrain (unit : Fin 64) (temp : Int) : Statement (.memoryRetrain unit temp) := of_none rfl
theorem sensorTrim (die : Fin 9) (sensor : Fin 16) (delta : Int) : Statement (.sensorTrim die sensor delta) := of_none rfl
theorem journalFlashCopy : Statement .journalFlashCopy := of_none rfl
theorem telemetryPeriodic : Statement .telemetryPeriodic := of_none rfl
theorem estimateLoopTick : Statement .estimateLoopTick := of_none rfl
theorem voltageSettled (d : Fin 8) : Statement (.voltageSettled d) := of_none rfl
theorem measuredSample (mv : Nat) (ma : Nat) : Statement (.measuredSample mv ma) := of_none rfl
theorem calibrationFit : Statement .calibrationFit := of_none rfl
theorem powerExcessAlert : Statement .powerExcessAlert := of_none rfl
theorem powerExcessPersistent : Statement .powerExcessPersistent := of_none rfl
theorem droopDetected (d : Fin 8) (count : Nat) : Statement (.droopDetected d count) := of_none rfl
theorem droopRecovered (d : Fin 8) : Statement (.droopRecovered d) := of_none rfl
theorem droopLimitExpiry (d : Fin 8) : Statement (.droopLimitExpiry d) := of_none rfl
theorem sensorSample (die : Fin 9) (readings : List Int) (hbm : Int) : Statement (.sensorSample die readings hbm) := of_none rfl
theorem thermalCeilingStep (d : Fin 8) : Statement (.thermalCeilingStep d) := of_none rfl
theorem thermalPersistent (d : Fin 8) : Statement (.thermalPersistent d) := of_none rfl
theorem thermtrip : Statement .thermtrip := of_none rfl
theorem hoursTick : Statement .hoursTick := of_none rfl
theorem inputRailOutOfRange : Statement .inputRailOutOfRange := of_none rfl
theorem computeDieLost (d : Fin 8) : Statement (.computeDieLost d) := of_none rfl
theorem memoryTrainingFailed (unit : Fin 24) : Statement (.memoryTrainingFailed unit) := of_none rfl
theorem hubUncorrectableError : Statement .hubUncorrectableError := of_none rfl
theorem lanternWatchdogRestart (third : Bool) : Statement (.lanternWatchdogRestart third) := of_none rfl
theorem bivouacPowerDownComplete : Statement .bivouacPowerDownComplete := of_none rfl
theorem resetNAssert : Statement .resetNAssert := of_none rfl
theorem resetNDeassert : Statement .resetNDeassert := of_none rfl
theorem bootStageAdvance : Statement .bootStageAdvance := of_none rfl
theorem trialWatchdog : Statement .trialWatchdog := of_none rfl
theorem pwrEnAssert : Statement .pwrEnAssert := of_none rfl
theorem railsGood : Statement .railsGood := of_none rfl
theorem pwrEnDeassert : Statement .pwrEnDeassert := of_none rfl
theorem pwrbrkAssert : Statement .pwrbrkAssert := of_none rfl
theorem pwrbrkRelease : Statement .pwrbrkRelease := of_none rfl
theorem standbyStart : Statement .standbyStart := of_none rfl
theorem standbyStop : Statement .standbyStop := of_none rfl
theorem inputOvervoltage : Statement .inputOvervoltage := of_none rfl
theorem refclkLoss : Statement .refclkLoss := of_none rfl
theorem mgtclkLoss : Statement .mgtclkLoss := of_none rfl
theorem ethclkLoss : Statement .ethclkLoss := of_none rfl
theorem bypass : Statement .bypass := of_none rfl
theorem idcode : Statement .idcode := of_none rfl
theorem samplePreload : Statement .samplePreload := of_none rfl
theorem extest : Statement .extest := of_none rfl
theorem extestPulse : Statement .extestPulse := of_none rfl
theorem extestTrain : Statement .extestTrain := of_none rfl
theorem uartRxByte (byte : Byte) : Statement (.uartRxByte byte) := of_none rfl
theorem rawPwrbrkNEdge (low : Bool) : Statement (.rawPwrbrkNEdge low) := of_none rfl
theorem heldResetNRelease : Statement .heldResetNRelease := of_none rfl
theorem minimumOffTimeElapsed : Statement .minimumOffTimeElapsed := of_none rfl
theorem inputSwitchClosure : Statement .inputSwitchClosure := of_none rfl
theorem ethclkReturn : Statement .ethclkReturn := of_none rfl
theorem mgtclkReturn : Statement .mgtclkReturn := of_none rfl
theorem refclkReturn : Statement .refclkReturn := of_none rfl
theorem pcsAlignmentLost (port : Fin 4) : Statement (.pcsAlignmentLost port) := of_none rfl
theorem ackTimeout (qp : Fin 4096) : Statement (.ackTimeout qp) := of_none rfl
theorem pfcPauseExpiry (port : Fin 4) (prio : Fin 8) : Statement (.pfcPauseExpiry port prio) := of_none rfl
theorem pldmSensorUpdate (values : List (Nat × Nat)) (crossed : List Nat) : Statement (.pldmSensorUpdate values crossed) := of_none rfl
theorem dynamicAddressAssignment (addr : Nat) : Statement (.dynamicAddressAssignment addr) := of_none rfl
theorem memorySymbolError (addr : W64) (sym : Option (Fin 68)) (flip : Byte) : Statement (.memorySymbolError addr sym flip) := of_none rfl

end Sys2Proof.Laws.RoundTrip
end

