-- ==== Sys2Proof/Laws/State.lean ====
section
/-!
SUPPORT. What the updates of State, Core and the working view X leave: one lemma per field per update.
-/
namespace Sys2Proof.Machine

/-! ### onCore -/

@[simp] theorem State.onCore_pending (s : State) (f : Core → Core) : (s.onCore f).pending = s.pending := rfl
@[simp] theorem State.onCore_core (s : State) (f : Core → Core) : (s.onCore f).core = f s.core := rfl
@[simp] theorem State.onCore_nym (s : State) (f : Core → Core) : (s.onCore f).nym = s.nym := rfl
@[simp] theorem State.onCore_eth (s : State) (f : Core → Core) : (s.onCore f).eth = s.eth := rfl
@[simp] theorem State.onCore_lan (s : State) (f : Core → Core) : (s.onCore f).lan = s.lan := rfl
@[simp] theorem State.onCore_dmp (s : State) (f : Core → Core) : (s.onCore f).dmp = s.dmp := rfl
@[simp] theorem State.onCore_vid (s : State) (f : Core → Core) : (s.onCore f).vid = s.vid := rfl
@[simp] theorem State.onCore_sec (s : State) (f : Core → Core) : (s.onCore f).sec = s.sec := rfl
@[simp] theorem State.onCore_flash (s : State) (f : Core → Core) : (s.onCore f).flash = s.flash := rfl
@[simp] theorem State.onCore_silicon (s : State) (f : Core → Core) : (s.onCore f).silicon = s.silicon := rfl
@[simp] theorem State.onCore_board (s : State) (f : Core → Core) : (s.onCore f).board = s.board := rfl
@[simp] theorem State.onCore_bg (s : State) (f : Core → Core) : (s.onCore f).bg = s.bg := rfl
@[simp] theorem State.onCore_started (s : State) (f : Core → Core) : (s.onCore f).started = s.started := rfl
@[simp] theorem State.onCore_rebinds (s : State) (f : Core → Core) : (s.onCore f).rebinds = s.rebinds := rfl

/-! ### onNym -/

@[simp] theorem State.onNym_pending (s : State) (f : Nym → Nym) : (s.onNym f).pending = s.pending := rfl
@[simp] theorem State.onNym_core (s : State) (f : Nym → Nym) : (s.onNym f).core = s.core := rfl
@[simp] theorem State.onNym_nym (s : State) (f : Nym → Nym) : (s.onNym f).nym = f s.nym := rfl
@[simp] theorem State.onNym_eth (s : State) (f : Nym → Nym) : (s.onNym f).eth = s.eth := rfl
@[simp] theorem State.onNym_lan (s : State) (f : Nym → Nym) : (s.onNym f).lan = s.lan := rfl
@[simp] theorem State.onNym_dmp (s : State) (f : Nym → Nym) : (s.onNym f).dmp = s.dmp := rfl
@[simp] theorem State.onNym_vid (s : State) (f : Nym → Nym) : (s.onNym f).vid = s.vid := rfl
@[simp] theorem State.onNym_sec (s : State) (f : Nym → Nym) : (s.onNym f).sec = s.sec := rfl
@[simp] theorem State.onNym_flash (s : State) (f : Nym → Nym) : (s.onNym f).flash = s.flash := rfl
@[simp] theorem State.onNym_silicon (s : State) (f : Nym → Nym) : (s.onNym f).silicon = s.silicon := rfl
@[simp] theorem State.onNym_board (s : State) (f : Nym → Nym) : (s.onNym f).board = s.board := rfl
@[simp] theorem State.onNym_bg (s : State) (f : Nym → Nym) : (s.onNym f).bg = s.bg := rfl
@[simp] theorem State.onNym_started (s : State) (f : Nym → Nym) : (s.onNym f).started = s.started := rfl
@[simp] theorem State.onNym_rebinds (s : State) (f : Nym → Nym) : (s.onNym f).rebinds = s.rebinds := rfl

/-! ### onEth -/

@[simp] theorem State.onEth_pending (s : State) (f : Eth → Eth) : (s.onEth f).pending = s.pending := rfl
@[simp] theorem State.onEth_core (s : State) (f : Eth → Eth) : (s.onEth f).core = s.core := rfl
@[simp] theorem State.onEth_nym (s : State) (f : Eth → Eth) : (s.onEth f).nym = s.nym := rfl
@[simp] theorem State.onEth_eth (s : State) (f : Eth → Eth) : (s.onEth f).eth = f s.eth := rfl
@[simp] theorem State.onEth_lan (s : State) (f : Eth → Eth) : (s.onEth f).lan = s.lan := rfl
@[simp] theorem State.onEth_dmp (s : State) (f : Eth → Eth) : (s.onEth f).dmp = s.dmp := rfl
@[simp] theorem State.onEth_vid (s : State) (f : Eth → Eth) : (s.onEth f).vid = s.vid := rfl
@[simp] theorem State.onEth_sec (s : State) (f : Eth → Eth) : (s.onEth f).sec = s.sec := rfl
@[simp] theorem State.onEth_flash (s : State) (f : Eth → Eth) : (s.onEth f).flash = s.flash := rfl
@[simp] theorem State.onEth_silicon (s : State) (f : Eth → Eth) : (s.onEth f).silicon = s.silicon := rfl
@[simp] theorem State.onEth_board (s : State) (f : Eth → Eth) : (s.onEth f).board = s.board := rfl
@[simp] theorem State.onEth_bg (s : State) (f : Eth → Eth) : (s.onEth f).bg = s.bg := rfl
@[simp] theorem State.onEth_started (s : State) (f : Eth → Eth) : (s.onEth f).started = s.started := rfl
@[simp] theorem State.onEth_rebinds (s : State) (f : Eth → Eth) : (s.onEth f).rebinds = s.rebinds := rfl

/-! ### onDmp -/

@[simp] theorem State.onDmp_pending (s : State) (f : Dmp → Dmp) : (s.onDmp f).pending = s.pending := rfl
@[simp] theorem State.onDmp_core (s : State) (f : Dmp → Dmp) : (s.onDmp f).core = s.core := rfl
@[simp] theorem State.onDmp_nym (s : State) (f : Dmp → Dmp) : (s.onDmp f).nym = s.nym := rfl
@[simp] theorem State.onDmp_eth (s : State) (f : Dmp → Dmp) : (s.onDmp f).eth = s.eth := rfl
@[simp] theorem State.onDmp_lan (s : State) (f : Dmp → Dmp) : (s.onDmp f).lan = s.lan := rfl
@[simp] theorem State.onDmp_dmp (s : State) (f : Dmp → Dmp) : (s.onDmp f).dmp = f s.dmp := rfl
@[simp] theorem State.onDmp_vid (s : State) (f : Dmp → Dmp) : (s.onDmp f).vid = s.vid := rfl
@[simp] theorem State.onDmp_sec (s : State) (f : Dmp → Dmp) : (s.onDmp f).sec = s.sec := rfl
@[simp] theorem State.onDmp_flash (s : State) (f : Dmp → Dmp) : (s.onDmp f).flash = s.flash := rfl
@[simp] theorem State.onDmp_silicon (s : State) (f : Dmp → Dmp) : (s.onDmp f).silicon = s.silicon := rfl
@[simp] theorem State.onDmp_board (s : State) (f : Dmp → Dmp) : (s.onDmp f).board = s.board := rfl
@[simp] theorem State.onDmp_bg (s : State) (f : Dmp → Dmp) : (s.onDmp f).bg = s.bg := rfl
@[simp] theorem State.onDmp_started (s : State) (f : Dmp → Dmp) : (s.onDmp f).started = s.started := rfl
@[simp] theorem State.onDmp_rebinds (s : State) (f : Dmp → Dmp) : (s.onDmp f).rebinds = s.rebinds := rfl

/-! ### onBoard -/

@[simp] theorem State.onBoard_pending (s : State) (f : Board → Board) : (s.onBoard f).pending = s.pending := rfl
@[simp] theorem State.onBoard_core (s : State) (f : Board → Board) : (s.onBoard f).core = s.core := rfl
@[simp] theorem State.onBoard_nym (s : State) (f : Board → Board) : (s.onBoard f).nym = s.nym := rfl
@[simp] theorem State.onBoard_eth (s : State) (f : Board → Board) : (s.onBoard f).eth = s.eth := rfl
@[simp] theorem State.onBoard_lan (s : State) (f : Board → Board) : (s.onBoard f).lan = s.lan := rfl
@[simp] theorem State.onBoard_dmp (s : State) (f : Board → Board) : (s.onBoard f).dmp = s.dmp := rfl
@[simp] theorem State.onBoard_vid (s : State) (f : Board → Board) : (s.onBoard f).vid = s.vid := rfl
@[simp] theorem State.onBoard_sec (s : State) (f : Board → Board) : (s.onBoard f).sec = s.sec := rfl
@[simp] theorem State.onBoard_flash (s : State) (f : Board → Board) : (s.onBoard f).flash = s.flash := rfl
@[simp] theorem State.onBoard_silicon (s : State) (f : Board → Board) : (s.onBoard f).silicon = s.silicon := rfl
@[simp] theorem State.onBoard_board (s : State) (f : Board → Board) : (s.onBoard f).board = f s.board := rfl
@[simp] theorem State.onBoard_bg (s : State) (f : Board → Board) : (s.onBoard f).bg = s.bg := rfl
@[simp] theorem State.onBoard_started (s : State) (f : Board → Board) : (s.onBoard f).started = s.started := rfl
@[simp] theorem State.onBoard_rebinds (s : State) (f : Board → Board) : (s.onBoard f).rebinds = s.rebinds := rfl

/-! ### send -/

@[simp] theorem State.send_pending (s : State) (o : Out) : (s.send o).pending = s.pending := rfl
@[simp] theorem State.send_core (s : State) (o : Out) : (s.send o).core = s.core.send o := rfl
@[simp] theorem State.send_nym (s : State) (o : Out) : (s.send o).nym = s.nym := rfl
@[simp] theorem State.send_eth (s : State) (o : Out) : (s.send o).eth = s.eth := rfl
@[simp] theorem State.send_lan (s : State) (o : Out) : (s.send o).lan = s.lan := rfl
@[simp] theorem State.send_dmp (s : State) (o : Out) : (s.send o).dmp = s.dmp := rfl
@[simp] theorem State.send_vid (s : State) (o : Out) : (s.send o).vid = s.vid := rfl
@[simp] theorem State.send_sec (s : State) (o : Out) : (s.send o).sec = s.sec := rfl
@[simp] theorem State.send_flash (s : State) (o : Out) : (s.send o).flash = s.flash := rfl
@[simp] theorem State.send_silicon (s : State) (o : Out) : (s.send o).silicon = s.silicon := rfl
@[simp] theorem State.send_board (s : State) (o : Out) : (s.send o).board = s.board := rfl
@[simp] theorem State.send_bg (s : State) (o : Out) : (s.send o).bg = s.bg := rfl
@[simp] theorem State.send_started (s : State) (o : Out) : (s.send o).started = s.started := rfl
@[simp] theorem State.send_rebinds (s : State) (o : Out) : (s.send o).rebinds = s.rebinds := rfl

/-! ### alert -/

@[simp] theorem State.alert_pending (s : State) (i : Nat) : (s.alert i).pending = s.pending := rfl
@[simp] theorem State.alert_core (s : State) (i : Nat) : (s.alert i).core = s.core := rfl
@[simp] theorem State.alert_nym (s : State) (i : Nat) : (s.alert i).nym = s.nym := rfl
@[simp] theorem State.alert_eth (s : State) (i : Nat) : (s.alert i).eth = s.eth := rfl
@[simp] theorem State.alert_lan (s : State) (i : Nat) : (s.alert i).lan = { s.lan with alert := s.lan.alert ||| (1 <<< i) } := rfl
@[simp] theorem State.alert_dmp (s : State) (i : Nat) : (s.alert i).dmp = s.dmp := rfl
@[simp] theorem State.alert_vid (s : State) (i : Nat) : (s.alert i).vid = s.vid := rfl
@[simp] theorem State.alert_sec (s : State) (i : Nat) : (s.alert i).sec = s.sec := rfl
@[simp] theorem State.alert_flash (s : State) (i : Nat) : (s.alert i).flash = s.flash := rfl
@[simp] theorem State.alert_silicon (s : State) (i : Nat) : (s.alert i).silicon = s.silicon := rfl
@[simp] theorem State.alert_board (s : State) (i : Nat) : (s.alert i).board = s.board := rfl
@[simp] theorem State.alert_bg (s : State) (i : Nat) : (s.alert i).bg = s.bg := rfl
@[simp] theorem State.alert_started (s : State) (i : Nat) : (s.alert i).started = s.started := rfl
@[simp] theorem State.alert_rebinds (s : State) (i : Nat) : (s.alert i).rebinds = s.rebinds := rfl

/-! ### modBox -/

@[simp] theorem State.modBox_pending (s : State) (m : Nat) (f : Mailbox → Mailbox) : (s.modBox m f).pending = s.pending := rfl
@[simp] theorem State.modBox_core (s : State) (m : Nat) (f : Mailbox → Mailbox) : (s.modBox m f).core = s.core := rfl
@[simp] theorem State.modBox_nym (s : State) (m : Nat) (f : Mailbox → Mailbox) : (s.modBox m f).nym = s.nym := rfl
@[simp] theorem State.modBox_eth (s : State) (m : Nat) (f : Mailbox → Mailbox) : (s.modBox m f).eth = s.eth := rfl
@[simp] theorem State.modBox_lan (s : State) (m : Nat) (f : Mailbox → Mailbox) : (s.modBox m f).lan = { s.lan with boxes := s.lan.boxes.setIfInBounds m (f (s.lan.box m)) } := rfl
@[simp] theorem State.modBox_dmp (s : State) (m : Nat) (f : Mailbox → Mailbox) : (s.modBox m f).dmp = s.dmp := rfl
@[simp] theorem State.modBox_vid (s : State) (m : Nat) (f : Mailbox → Mailbox) : (s.modBox m f).vid = s.vid := rfl
@[simp] theorem State.modBox_sec (s : State) (m : Nat) (f : Mailbox → Mailbox) : (s.modBox m f).sec = s.sec := rfl
@[simp] theorem State.modBox_flash (s : State) (m : Nat) (f : Mailbox → Mailbox) : (s.modBox m f).flash = s.flash := rfl
@[simp] theorem State.modBox_silicon (s : State) (m : Nat) (f : Mailbox → Mailbox) : (s.modBox m f).silicon = s.silicon := rfl
@[simp] theorem State.modBox_board (s : State) (m : Nat) (f : Mailbox → Mailbox) : (s.modBox m f).board = s.board := rfl
@[simp] theorem State.modBox_bg (s : State) (m : Nat) (f : Mailbox → Mailbox) : (s.modBox m f).bg = s.bg := rfl
@[simp] theorem State.modBox_started (s : State) (m : Nat) (f : Mailbox → Mailbox) : (s.modBox m f).started = s.started := rfl
@[simp] theorem State.modBox_rebinds (s : State) (m : Nat) (f : Mailbox → Mailbox) : (s.modBox m f).rebinds = s.rebinds := rfl

/-! ### modEngine -/

@[simp] theorem State.modEngine_pending (s : State) (e : Nat) (f : Engine → Engine) : (s.modEngine e f).pending = s.pending := rfl
@[simp] theorem State.modEngine_core (s : State) (e : Nat) (f : Engine → Engine) : (s.modEngine e f).core = s.core := rfl
@[simp] theorem State.modEngine_nym (s : State) (e : Nat) (f : Engine → Engine) : (s.modEngine e f).nym = s.nym := rfl
@[simp] theorem State.modEngine_eth (s : State) (e : Nat) (f : Engine → Engine) : (s.modEngine e f).eth = s.eth := rfl
@[simp] theorem State.modEngine_lan (s : State) (e : Nat) (f : Engine → Engine) : (s.modEngine e f).lan = s.lan := rfl
@[simp] theorem State.modEngine_dmp (s : State) (e : Nat) (f : Engine → Engine) : (s.modEngine e f).dmp = s.dmp := rfl
@[simp] theorem State.modEngine_vid (s : State) (e : Nat) (f : Engine → Engine) : (s.modEngine e f).vid = s.vid.setIfInBounds e (f (s.engine e)) := rfl
@[simp] theorem State.modEngine_sec (s : State) (e : Nat) (f : Engine → Engine) : (s.modEngine e f).sec = s.sec := rfl
@[simp] theorem State.modEngine_flash (s : State) (e : Nat) (f : Engine → Engine) : (s.modEngine e f).flash = s.flash := rfl
@[simp] theorem State.modEngine_silicon (s : State) (e : Nat) (f : Engine → Engine) : (s.modEngine e f).silicon = s.silicon := rfl
@[simp] theorem State.modEngine_board (s : State) (e : Nat) (f : Engine → Engine) : (s.modEngine e f).board = s.board := rfl
@[simp] theorem State.modEngine_bg (s : State) (e : Nat) (f : Engine → Engine) : (s.modEngine e f).bg = s.bg := rfl
@[simp] theorem State.modEngine_started (s : State) (e : Nat) (f : Engine → Engine) : (s.modEngine e f).started = s.started := rfl
@[simp] theorem State.modEngine_rebinds (s : State) (e : Nat) (f : Engine → Engine) : (s.modEngine e f).rebinds = s.rebinds := rfl

/-! ### rest -/

@[simp] theorem State.rest_pending (s : State) : (s.rest).pending = s.pending.tail := rfl
@[simp] theorem State.rest_core (s : State) : (s.rest).core = s.core := rfl
@[simp] theorem State.rest_nym (s : State) : (s.rest).nym = s.nym := rfl
@[simp] theorem State.rest_eth (s : State) : (s.rest).eth = s.eth := rfl
@[simp] theorem State.rest_lan (s : State) : (s.rest).lan = s.lan := rfl
@[simp] theorem State.rest_dmp (s : State) : (s.rest).dmp = s.dmp := rfl
@[simp] theorem State.rest_vid (s : State) : (s.rest).vid = s.vid := rfl
@[simp] theorem State.rest_sec (s : State) : (s.rest).sec = s.sec := rfl
@[simp] theorem State.rest_flash (s : State) : (s.rest).flash = s.flash := rfl
@[simp] theorem State.rest_silicon (s : State) : (s.rest).silicon = s.silicon := rfl
@[simp] theorem State.rest_board (s : State) : (s.rest).board = s.board := rfl
@[simp] theorem State.rest_bg (s : State) : (s.rest).bg = s.bg := rfl
@[simp] theorem State.rest_started (s : State) : (s.rest).started = s.started := rfl
@[simp] theorem State.rest_rebinds (s : State) : (s.rest).rebinds = s.rebinds := rfl

/-! ### Core.setCtx -/

@[simp] theorem Core.setCtx_mem (c : Core) (k : Nat) (cx : Context) : (c.setCtx k cx).mem = c.mem := rfl
@[simp] theorem Core.setCtx_ecc (c : Core) (k : Nat) (cx : Context) : (c.setCtx k cx).ecc = c.ecc := rfl
@[simp] theorem Core.setCtx_windows (c : Core) (k : Nat) (cx : Context) : (c.setCtx k cx).windows = c.windows := rfl
@[simp] theorem Core.setCtx_slotRegs (c : Core) (k : Nat) (cx : Context) : (c.setCtx k cx).slotRegs = c.slotRegs := rfl
@[simp] theorem Core.setCtx_hbmSpread (c : Core) (k : Nat) (cx : Context) : (c.setCtx k cx).hbmSpread = c.hbmSpread := rfl
@[simp] theorem Core.setCtx_ctxs (c : Core) (k : Nat) (cx : Context) : (c.setCtx k cx).ctxs = insertKey k cx c.ctxs := rfl
@[simp] theorem Core.setCtx_packs (c : Core) (k : Nat) (cx : Context) : (c.setCtx k cx).packs = c.packs := rfl
@[simp] theorem Core.setCtx_owners (c : Core) (k : Nat) (cx : Context) : (c.setCtx k cx).owners = c.owners := rfl
@[simp] theorem Core.setCtx_ration (c : Core) (k : Nat) (cx : Context) : (c.setCtx k cx).ration = c.ration := rfl
@[simp] theorem Core.setCtx_nextRation (c : Core) (k : Nat) (cx : Context) : (c.setCtx k cx).nextRation = c.nextRation := rfl
@[simp] theorem Core.setCtx_acctReg (c : Core) (k : Nat) (cx : Context) : (c.setCtx k cx).acctReg = c.acctReg := rfl
@[simp] theorem Core.setCtx_pmode (c : Core) (k : Nat) (cx : Context) : (c.setCtx k cx).pmode = c.pmode := rfl
@[simp] theorem Core.setCtx_ftab (c : Core) (k : Nat) (cx : Context) : (c.setCtx k cx).ftab = c.ftab := rfl
@[simp] theorem Core.setCtx_acts (c : Core) (k : Nat) (cx : Context) : (c.setCtx k cx).acts = c.acts := rfl
@[simp] theorem Core.setCtx_tslots (c : Core) (k : Nat) (cx : Context) : (c.setCtx k cx).tslots = c.tslots := rfl
@[simp] theorem Core.setCtx_decodes (c : Core) (k : Nat) (cx : Context) : (c.setCtx k cx).decodes = c.decodes := rfl
@[simp] theorem Core.setCtx_stalls (c : Core) (k : Nat) (cx : Context) : (c.setCtx k cx).stalls = c.stalls := rfl
@[simp] theorem Core.setCtx_samplers (c : Core) (k : Nat) (cx : Context) : (c.setCtx k cx).samplers = c.samplers := rfl
@[simp] theorem Core.setCtx_walks (c : Core) (k : Nat) (cx : Context) : (c.setCtx k cx).walks = c.walks := rfl
@[simp] theorem Core.setCtx_live (c : Core) (k : Nat) (cx : Context) : (c.setCtx k cx).live = c.live := rfl
@[simp] theorem Core.setCtx_cclk (c : Core) (k : Nat) (cx : Context) : (c.setCtx k cx).cclk = c.cclk := rfl
@[simp] theorem Core.setCtx_wclk (c : Core) (k : Nat) (cx : Context) : (c.setCtx k cx).wclk = c.wclk := rfl
@[simp] theorem Core.setCtx_clocks (c : Core) (k : Nat) (cx : Context) : (c.setCtx k cx).clocks = c.clocks := rfl
@[simp] theorem Core.setCtx_reqs (c : Core) (k : Nat) (cx : Context) : (c.setCtx k cx).reqs = c.reqs := rfl
@[simp] theorem Core.setCtx_nextTag (c : Core) (k : Nat) (cx : Context) : (c.setCtx k cx).nextTag = c.nextTag := rfl
@[simp] theorem Core.setCtx_seq (c : Core) (k : Nat) (cx : Context) : (c.setCtx k cx).seq = c.seq := rfl
@[simp] theorem Core.setCtx_clock (c : Core) (k : Nat) (cx : Context) : (c.setCtx k cx).clock = c.clock := rfl
@[simp] theorem Core.setCtx_period (c : Core) (k : Nat) (cx : Context) : (c.setCtx k cx).period = c.period := rfl
@[simp] theorem Core.setCtx_jnl (c : Core) (k : Nat) (cx : Context) : (c.setCtx k cx).jnl = c.jnl := rfl
@[simp] theorem Core.setCtx_dones (c : Core) (k : Nat) (cx : Context) : (c.setCtx k cx).dones = c.dones := rfl
@[simp] theorem Core.setCtx_out (c : Core) (k : Nat) (cx : Context) : (c.setCtx k cx).out = c.out := rfl

/-! ### Core.send -/

@[simp] theorem Core.send_mem (c : Core) (o : Out) : (c.send o).mem = c.mem := rfl
@[simp] theorem Core.send_ecc (c : Core) (o : Out) : (c.send o).ecc = c.ecc := rfl
@[simp] theorem Core.send_windows (c : Core) (o : Out) : (c.send o).windows = c.windows := rfl
@[simp] theorem Core.send_slotRegs (c : Core) (o : Out) : (c.send o).slotRegs = c.slotRegs := rfl
@[simp] theorem Core.send_hbmSpread (c : Core) (o : Out) : (c.send o).hbmSpread = c.hbmSpread := rfl
@[simp] theorem Core.send_ctxs (c : Core) (o : Out) : (c.send o).ctxs = c.ctxs := rfl
@[simp] theorem Core.send_packs (c : Core) (o : Out) : (c.send o).packs = c.packs := rfl
@[simp] theorem Core.send_owners (c : Core) (o : Out) : (c.send o).owners = c.owners := rfl
@[simp] theorem Core.send_ration (c : Core) (o : Out) : (c.send o).ration = c.ration := rfl
@[simp] theorem Core.send_nextRation (c : Core) (o : Out) : (c.send o).nextRation = c.nextRation := rfl
@[simp] theorem Core.send_acctReg (c : Core) (o : Out) : (c.send o).acctReg = c.acctReg := rfl
@[simp] theorem Core.send_pmode (c : Core) (o : Out) : (c.send o).pmode = c.pmode := rfl
@[simp] theorem Core.send_ftab (c : Core) (o : Out) : (c.send o).ftab = c.ftab := rfl
@[simp] theorem Core.send_acts (c : Core) (o : Out) : (c.send o).acts = c.acts := rfl
@[simp] theorem Core.send_tslots (c : Core) (o : Out) : (c.send o).tslots = c.tslots := rfl
@[simp] theorem Core.send_decodes (c : Core) (o : Out) : (c.send o).decodes = c.decodes := rfl
@[simp] theorem Core.send_stalls (c : Core) (o : Out) : (c.send o).stalls = c.stalls := rfl
@[simp] theorem Core.send_samplers (c : Core) (o : Out) : (c.send o).samplers = c.samplers := rfl
@[simp] theorem Core.send_walks (c : Core) (o : Out) : (c.send o).walks = c.walks := rfl
@[simp] theorem Core.send_live (c : Core) (o : Out) : (c.send o).live = c.live := rfl
@[simp] theorem Core.send_cclk (c : Core) (o : Out) : (c.send o).cclk = c.cclk := rfl
@[simp] theorem Core.send_wclk (c : Core) (o : Out) : (c.send o).wclk = c.wclk := rfl
@[simp] theorem Core.send_clocks (c : Core) (o : Out) : (c.send o).clocks = c.clocks := rfl
@[simp] theorem Core.send_reqs (c : Core) (o : Out) : (c.send o).reqs = c.reqs := rfl
@[simp] theorem Core.send_nextTag (c : Core) (o : Out) : (c.send o).nextTag = c.nextTag := rfl
@[simp] theorem Core.send_seq (c : Core) (o : Out) : (c.send o).seq = c.seq := rfl
@[simp] theorem Core.send_clock (c : Core) (o : Out) : (c.send o).clock = c.clock := rfl
@[simp] theorem Core.send_period (c : Core) (o : Out) : (c.send o).period = c.period := rfl
@[simp] theorem Core.send_jnl (c : Core) (o : Out) : (c.send o).jnl = c.jnl := rfl
@[simp] theorem Core.send_dones (c : Core) (o : Out) : (c.send o).dones = c.dones := rfl
@[simp] theorem Core.send_out (c : Core) (o : Out) : (c.send o).out = o :: c.out := rfl

/-! ### Core.store -/

@[simp] theorem Core.store_mem (c : Core) (a : Nat) (bs : List Byte) : (c.store a bs).mem = (storeRange c.space c.mem c.ecc a bs).1 := rfl
@[simp] theorem Core.store_ecc (c : Core) (a : Nat) (bs : List Byte) : (c.store a bs).ecc = (storeRange c.space c.mem c.ecc a bs).2 := rfl
@[simp] theorem Core.store_windows (c : Core) (a : Nat) (bs : List Byte) : (c.store a bs).windows = c.windows := rfl
@[simp] theorem Core.store_slotRegs (c : Core) (a : Nat) (bs : List Byte) : (c.store a bs).slotRegs = c.slotRegs := rfl
@[simp] theorem Core.store_hbmSpread (c : Core) (a : Nat) (bs : List Byte) : (c.store a bs).hbmSpread = c.hbmSpread := rfl
@[simp] theorem Core.store_ctxs (c : Core) (a : Nat) (bs : List Byte) : (c.store a bs).ctxs = c.ctxs := rfl
@[simp] theorem Core.store_packs (c : Core) (a : Nat) (bs : List Byte) : (c.store a bs).packs = c.packs := rfl
@[simp] theorem Core.store_owners (c : Core) (a : Nat) (bs : List Byte) : (c.store a bs).owners = c.owners := rfl
@[simp] theorem Core.store_ration (c : Core) (a : Nat) (bs : List Byte) : (c.store a bs).ration = c.ration := rfl
@[simp] theorem Core.store_nextRation (c : Core) (a : Nat) (bs : List Byte) : (c.store a bs).nextRation = c.nextRation := rfl
@[simp] theorem Core.store_acctReg (c : Core) (a : Nat) (bs : List Byte) : (c.store a bs).acctReg = c.acctReg := rfl
@[simp] theorem Core.store_pmode (c : Core) (a : Nat) (bs : List Byte) : (c.store a bs).pmode = c.pmode := rfl
@[simp] theorem Core.store_ftab (c : Core) (a : Nat) (bs : List Byte) : (c.store a bs).ftab = c.ftab := rfl
@[simp] theorem Core.store_acts (c : Core) (a : Nat) (bs : List Byte) : (c.store a bs).acts = c.acts := rfl
@[simp] theorem Core.store_tslots (c : Core) (a : Nat) (bs : List Byte) : (c.store a bs).tslots = c.tslots := rfl
@[simp] theorem Core.store_decodes (c : Core) (a : Nat) (bs : List Byte) : (c.store a bs).decodes = c.decodes := rfl
@[simp] theorem Core.store_stalls (c : Core) (a : Nat) (bs : List Byte) : (c.store a bs).stalls = c.stalls := rfl
@[simp] theorem Core.store_samplers (c : Core) (a : Nat) (bs : List Byte) : (c.store a bs).samplers = c.samplers := rfl
@[simp] theorem Core.store_walks (c : Core) (a : Nat) (bs : List Byte) : (c.store a bs).walks = c.walks := rfl
@[simp] theorem Core.store_live (c : Core) (a : Nat) (bs : List Byte) : (c.store a bs).live = c.live := rfl
@[simp] theorem Core.store_cclk (c : Core) (a : Nat) (bs : List Byte) : (c.store a bs).cclk = c.cclk := rfl
@[simp] theorem Core.store_wclk (c : Core) (a : Nat) (bs : List Byte) : (c.store a bs).wclk = c.wclk := rfl
@[simp] theorem Core.store_clocks (c : Core) (a : Nat) (bs : List Byte) : (c.store a bs).clocks = c.clocks := rfl
@[simp] theorem Core.store_reqs (c : Core) (a : Nat) (bs : List Byte) : (c.store a bs).reqs = c.reqs := rfl
@[simp] theorem Core.store_nextTag (c : Core) (a : Nat) (bs : List Byte) : (c.store a bs).nextTag = c.nextTag := rfl
@[simp] theorem Core.store_seq (c : Core) (a : Nat) (bs : List Byte) : (c.store a bs).seq = c.seq := rfl
@[simp] theorem Core.store_clock (c : Core) (a : Nat) (bs : List Byte) : (c.store a bs).clock = c.clock := rfl
@[simp] theorem Core.store_period (c : Core) (a : Nat) (bs : List Byte) : (c.store a bs).period = c.period := rfl
@[simp] theorem Core.store_jnl (c : Core) (a : Nat) (bs : List Byte) : (c.store a bs).jnl = c.jnl := rfl
@[simp] theorem Core.store_dones (c : Core) (a : Nat) (bs : List Byte) : (c.store a bs).dones = c.dones := rfl
@[simp] theorem Core.store_out (c : Core) (a : Nat) (bs : List Byte) : (c.store a bs).out = c.out := rfl

/-! ### X.setS -/

@[simp] theorem X.setS_c (x : X) (n v : Nat) : (x.setS n v).c = x.c := by unfold X.setS; split <;> rfl
@[simp] theorem X.setS_env (x : X) (n v : Nat) : (x.setS n v).env = x.env := by unfold X.setS; split <;> rfl
@[simp] theorem X.setS_k (x : X) (n v : Nat) : (x.setS n v).k = x.k := by unfold X.setS; split <;> rfl
@[simp] theorem X.setS_i (x : X) (n v : Nat) : (x.setS n v).i = x.i := by unfold X.setS; split <;> rfl
@[simp] theorem X.setS_cx (x : X) (n v : Nat) : (x.setS n v).cx = x.cx := by unfold X.setS; split <;> rfl
@[simp] theorem X.setS_r (x : X) (n v : Nat) : (x.setS n v).r = if n = 0 then x.r else { x.r with s := x.r.s.setIfInBounds n (BitVec.ofNat 64 v) } := by unfold X.setS; split <;> rfl
@[simp] theorem X.setS_tm (x : X) (n v : Nat) : (x.setS n v).tm = x.tm := by unfold X.setS; split <;> rfl
@[simp] theorem X.setS_num (x : X) (n v : Nat) : (x.setS n v).num = x.num := by unfold X.setS; split <;> rfl
@[simp] theorem X.setS_flags (x : X) (n v : Nat) : (x.setS n v).flags = x.flags := by unfold X.setS; split <;> rfl
@[simp] theorem X.setS_nan (x : X) (n v : Nat) : (x.setS n v).nan = x.nan := by unfold X.setS; split <;> rfl
@[simp] theorem X.setS_op (x : X) (n v : Nat) : (x.setS n v).op = x.op := by unfold X.setS; split <;> rfl
@[simp] theorem X.setS_trapOn (x : X) (n v : Nat) : (x.setS n v).trapOn = x.trapOn := by unfold X.setS; split <;> rfl
@[simp] theorem X.setS_jump (x : X) (n v : Nat) : (x.setS n v).jump = x.jump := by unfold X.setS; split <;> rfl
@[simp] theorem X.setS_ended (x : X) (n v : Nat) : (x.setS n v).ended = x.ended := by unfold X.setS; split <;> rfl

/-! ### X.setP -/

@[simp] theorem X.setP_c (x : X) (n : Nat) (v : Bool) : (x.setP n v).c = x.c := by unfold X.setP; split <;> rfl
@[simp] theorem X.setP_env (x : X) (n : Nat) (v : Bool) : (x.setP n v).env = x.env := by unfold X.setP; split <;> rfl
@[simp] theorem X.setP_k (x : X) (n : Nat) (v : Bool) : (x.setP n v).k = x.k := by unfold X.setP; split <;> rfl
@[simp] theorem X.setP_i (x : X) (n : Nat) (v : Bool) : (x.setP n v).i = x.i := by unfold X.setP; split <;> rfl
@[simp] theorem X.setP_cx (x : X) (n : Nat) (v : Bool) : (x.setP n v).cx = x.cx := by unfold X.setP; split <;> rfl
@[simp] theorem X.setP_r (x : X) (n : Nat) (v : Bool) : (x.setP n v).r = if n = 0 then x.r else { x.r with p := x.r.p.setIfInBounds n v } := by unfold X.setP; split <;> rfl
@[simp] theorem X.setP_tm (x : X) (n : Nat) (v : Bool) : (x.setP n v).tm = x.tm := by unfold X.setP; split <;> rfl
@[simp] theorem X.setP_num (x : X) (n : Nat) (v : Bool) : (x.setP n v).num = x.num := by unfold X.setP; split <;> rfl
@[simp] theorem X.setP_flags (x : X) (n : Nat) (v : Bool) : (x.setP n v).flags = x.flags := by unfold X.setP; split <;> rfl
@[simp] theorem X.setP_nan (x : X) (n : Nat) (v : Bool) : (x.setP n v).nan = x.nan := by unfold X.setP; split <;> rfl
@[simp] theorem X.setP_op (x : X) (n : Nat) (v : Bool) : (x.setP n v).op = x.op := by unfold X.setP; split <;> rfl
@[simp] theorem X.setP_trapOn (x : X) (n : Nat) (v : Bool) : (x.setP n v).trapOn = x.trapOn := by unfold X.setP; split <;> rfl
@[simp] theorem X.setP_jump (x : X) (n : Nat) (v : Bool) : (x.setP n v).jump = x.jump := by unfold X.setP; split <;> rfl
@[simp] theorem X.setP_ended (x : X) (n : Nat) (v : Bool) : (x.setP n v).ended = x.ended := by unfold X.setP; split <;> rfl

/-! ### X.setD -/

@[simp] theorem X.setD_c (x : X) (n v : Nat) : (x.setD n v).c = x.c := rfl
@[simp] theorem X.setD_env (x : X) (n v : Nat) : (x.setD n v).env = x.env := rfl
@[simp] theorem X.setD_k (x : X) (n v : Nat) : (x.setD n v).k = x.k := rfl
@[simp] theorem X.setD_i (x : X) (n v : Nat) : (x.setD n v).i = x.i := rfl
@[simp] theorem X.setD_cx (x : X) (n v : Nat) : (x.setD n v).cx = x.cx := rfl
@[simp] theorem X.setD_r (x : X) (n v : Nat) : (x.setD n v).r = { x.r with d := x.r.d.setIfInBounds n (BitVec.ofNat 512 v) } := rfl
@[simp] theorem X.setD_tm (x : X) (n v : Nat) : (x.setD n v).tm = x.tm := rfl
@[simp] theorem X.setD_num (x : X) (n v : Nat) : (x.setD n v).num = x.num := rfl
@[simp] theorem X.setD_flags (x : X) (n v : Nat) : (x.setD n v).flags = x.flags := rfl
@[simp] theorem X.setD_nan (x : X) (n v : Nat) : (x.setD n v).nan = x.nan := rfl
@[simp] theorem X.setD_op (x : X) (n v : Nat) : (x.setD n v).op = x.op := rfl
@[simp] theorem X.setD_trapOn (x : X) (n v : Nat) : (x.setD n v).trapOn = x.trapOn := rfl
@[simp] theorem X.setD_jump (x : X) (n v : Nat) : (x.setD n v).jump = x.jump := rfl
@[simp] theorem X.setD_ended (x : X) (n v : Nat) : (x.setD n v).ended = x.ended := rfl

/-! ### X.setV -/

@[simp] theorem X.setV_c (x : X) (n : Nat) (l : List Nat) : (x.setV n l).c = x.c := rfl
@[simp] theorem X.setV_env (x : X) (n : Nat) (l : List Nat) : (x.setV n l).env = x.env := rfl
@[simp] theorem X.setV_k (x : X) (n : Nat) (l : List Nat) : (x.setV n l).k = x.k := rfl
@[simp] theorem X.setV_i (x : X) (n : Nat) (l : List Nat) : (x.setV n l).i = x.i := rfl
@[simp] theorem X.setV_cx (x : X) (n : Nat) (l : List Nat) : (x.setV n l).cx = x.cx := rfl
@[simp] theorem X.setV_r (x : X) (n : Nat) (l : List Nat) : (x.setV n l).r = { x.r with v := x.r.v.setIfInBounds n (laneVec l) } := rfl
@[simp] theorem X.setV_tm (x : X) (n : Nat) (l : List Nat) : (x.setV n l).tm = x.tm := rfl
@[simp] theorem X.setV_num (x : X) (n : Nat) (l : List Nat) : (x.setV n l).num = x.num := rfl
@[simp] theorem X.setV_flags (x : X) (n : Nat) (l : List Nat) : (x.setV n l).flags = x.flags := rfl
@[simp] theorem X.setV_nan (x : X) (n : Nat) (l : List Nat) : (x.setV n l).nan = x.nan := rfl
@[simp] theorem X.setV_op (x : X) (n : Nat) (l : List Nat) : (x.setV n l).op = x.op := rfl
@[simp] theorem X.setV_trapOn (x : X) (n : Nat) (l : List Nat) : (x.setV n l).trapOn = x.trapOn := rfl
@[simp] theorem X.setV_jump (x : X) (n : Nat) (l : List Nat) : (x.setV n l).jump = x.jump := rfl
@[simp] theorem X.setV_ended (x : X) (n : Nat) (l : List Nat) : (x.setV n l).ended = x.ended := rfl

/-! ### X.note -/

@[simp] theorem X.note_c (x : X) (e : Ev) (loc : NanInfo) : (x.note e loc).c = x.c := rfl
@[simp] theorem X.note_env (x : X) (e : Ev) (loc : NanInfo) : (x.note e loc).env = x.env := rfl
@[simp] theorem X.note_k (x : X) (e : Ev) (loc : NanInfo) : (x.note e loc).k = x.k := rfl
@[simp] theorem X.note_i (x : X) (e : Ev) (loc : NanInfo) : (x.note e loc).i = x.i := rfl
@[simp] theorem X.note_cx (x : X) (e : Ev) (loc : NanInfo) : (x.note e loc).cx = x.cx := rfl
@[simp] theorem X.note_r (x : X) (e : Ev) (loc : NanInfo) : (x.note e loc).r = x.r := rfl
@[simp] theorem X.note_tm (x : X) (e : Ev) (loc : NanInfo) : (x.note e loc).tm = x.tm := rfl
@[simp] theorem X.note_num (x : X) (e : Ev) (loc : NanInfo) : (x.note e loc).num = x.num := rfl
@[simp] theorem X.note_flags (x : X) (e : Ev) (loc : NanInfo) : (x.note e loc).flags = x.flags ||| e.flags := rfl
@[simp] theorem X.note_nan (x : X) (e : Ev) (loc : NanInfo) : (x.note e loc).nan = if e.cause ≠ 0 ∧ x.nan = none then some { loc with cause := e.cause } else x.nan := rfl
@[simp] theorem X.note_op (x : X) (e : Ev) (loc : NanInfo) : (x.note e loc).op = x.op := rfl
@[simp] theorem X.note_trapOn (x : X) (e : Ev) (loc : NanInfo) : (x.note e loc).trapOn = x.trapOn := rfl
@[simp] theorem X.note_jump (x : X) (e : Ev) (loc : NanInfo) : (x.note e loc).jump = x.jump := rfl
@[simp] theorem X.note_ended (x : X) (e : Ev) (loc : NanInfo) : (x.note e loc).ended = x.ended := rfl

/-! ### X.finish -/

@[simp] theorem X.finish_c (x : X) : (x.finish).c = x.c := rfl
@[simp] theorem X.finish_env (x : X) : (x.finish).env = x.env := rfl
@[simp] theorem X.finish_k (x : X) : (x.finish).k = x.k := rfl
@[simp] theorem X.finish_i (x : X) : (x.finish).i = x.i := rfl
@[simp] theorem X.finish_cx (x : X) : (x.finish).cx = x.cx := rfl
@[simp] theorem X.finish_r (x : X) : (x.finish).r = { x.r with pc := BitVec.ofNat 64 (x.jump.getD (x.r.pc.toNat + 16)), held := none, arrived := [], prg := 0, list := {} } := rfl
@[simp] theorem X.finish_tm (x : X) : (x.finish).tm = x.tm := rfl
@[simp] theorem X.finish_num (x : X) : (x.finish).num = x.num := rfl
@[simp] theorem X.finish_flags (x : X) : (x.finish).flags = x.flags := rfl
@[simp] theorem X.finish_nan (x : X) : (x.finish).nan = x.nan := rfl
@[simp] theorem X.finish_op (x : X) : (x.finish).op = x.op := rfl
@[simp] theorem X.finish_trapOn (x : X) : (x.finish).trapOn = x.trapOn := rfl
@[simp] theorem X.finish_jump (x : X) : (x.finish).jump = x.jump := rfl
@[simp] theorem X.finish_ended (x : X) : (x.finish).ended = x.ended := rfl

/-! ### X.tileWrite -/

@[simp] theorem X.tileWrite_env (x : X) (acm : Bool) (a : Nat) (bs : List Byte) : (x.tileWrite acm a bs).env = x.env := rfl
@[simp] theorem X.tileWrite_k (x : X) (acm : Bool) (a : Nat) (bs : List Byte) : (x.tileWrite acm a bs).k = x.k := rfl
@[simp] theorem X.tileWrite_i (x : X) (acm : Bool) (a : Nat) (bs : List Byte) : (x.tileWrite acm a bs).i = x.i := rfl
@[simp] theorem X.tileWrite_cx (x : X) (acm : Bool) (a : Nat) (bs : List Byte) : (x.tileWrite acm a bs).cx = x.cx := rfl
@[simp] theorem X.tileWrite_r (x : X) (acm : Bool) (a : Nat) (bs : List Byte) : (x.tileWrite acm a bs).r = x.r := rfl
@[simp] theorem X.tileWrite_num (x : X) (acm : Bool) (a : Nat) (bs : List Byte) : (x.tileWrite acm a bs).num = x.num := rfl
@[simp] theorem X.tileWrite_flags (x : X) (acm : Bool) (a : Nat) (bs : List Byte) : (x.tileWrite acm a bs).flags = x.flags := rfl
@[simp] theorem X.tileWrite_nan (x : X) (acm : Bool) (a : Nat) (bs : List Byte) : (x.tileWrite acm a bs).nan = x.nan := rfl
@[simp] theorem X.tileWrite_op (x : X) (acm : Bool) (a : Nat) (bs : List Byte) : (x.tileWrite acm a bs).op = x.op := rfl
@[simp] theorem X.tileWrite_trapOn (x : X) (acm : Bool) (a : Nat) (bs : List Byte) : (x.tileWrite acm a bs).trapOn = x.trapOn := rfl
@[simp] theorem X.tileWrite_jump (x : X) (acm : Bool) (a : Nat) (bs : List Byte) : (x.tileWrite acm a bs).jump = x.jump := rfl
@[simp] theorem X.tileWrite_ended (x : X) (acm : Bool) (a : Nat) (bs : List Byte) : (x.tileWrite acm a bs).ended = x.ended := rfl

end Sys2Proof.Machine
end

