-- ==== Sys2Proof/Laws/Settle.lean ====
section
/-!
SUPPORT. What the end of a command (settle) leaves as it was: every unit but Lantern, Nymhel, the Ethernet side and the video
engines' ages, and of the compute side all but counters read, the outbox, and the times of contexts.
-/
namespace Sys2Proof.Machine

/-- A fold whose steps all keep `g` keeps `g`. -/
theorem foldl_same {α σ β : Type} (g : σ → β) (f : σ → α → σ) (h : ∀ s a, g (f s a) = g s) (l : List α) (s : σ) :
    g (l.foldl f s) = g s := by
  induction l generalizing s with
  | nil => rfl
  | cons a l ih => rw [List.foldl_cons, ih, h]

theorem foldr_same {α σ β : Type} (g : σ → β) (f : α → σ → σ) (h : ∀ a s, g (f a s) = g s) (l : List α) (s : σ) :
    g (l.foldr f s) = g s := by
  induction l with
  | nil => rfl
  | cons a l ih => rw [List.foldr_cons, h, ih]

/-- The compute side without the counters' readings, the free values drawn, the outbox, what awaits Lantern, and the words written back. -/
def Core.kept (c : Core) : Core :=
  { c with cclk := [], wclk := 0, seq := 0, out := [], dones := [], ecc := { c.ecc with news := [], back := [] } }

/-- Nymhel without its links. -/
def Nym.kept (n : Nym) : Nym := { n with links := Vector.replicate 24 {} }
/-- The Ethernet side without its queues, the records that wait, and what its queue pairs send. -/
def Eth.kept (e : Eth) : Eth := { e with queues := [], recs := [], qps := [], held := [] }
/-- Lantern without ALERT and telemetry's records. -/
def Lan.kept (l : Lan) : Lan := { l with alert := 0, tseq := 0, telQueue := [], telLost := 0, telPeriodic := none }

/-- What the end of a command does not touch. -/
def State.kept (s : State) :
    List Instr × Core × Dmp × Sec × Flash × Silicon × Board × Bg × List HostCmd × List Rebind × Nym × Eth × Lan :=
  (s.pending, s.core.kept, s.dmp, s.sec, s.flash, s.silicon, s.board, s.bg, s.started, s.rebinds, s.nym.kept, s.eth.kept, s.lan.kept)

theorem State.send_kept (s : State) (o : Out) : (s.send o).kept = s.kept := rfl
theorem State.alert_kept (s : State) (i : Nat) : (s.alert i).kept = s.kept := rfl
theorem Core.readCclk_kept (c : Core) (d : Nat) : (c.readCclk d).2.kept = c.kept := rfl
theorem Core.readWclk_kept (c : Core) : c.readWclk.2.kept = c.kept := rfl

theorem State.cclks_kept (s : State) : s.cclks.2.kept = s.core.kept := by
  unfold State.cclks
  refine foldl_same (fun r : List Nat × Core => r.2.kept) _ (fun r d => ?_) _ _
  dsimp only
  split <;> rfl

theorem State.telRecord_kept (s : State) (k e : Nat) (d : List Byte) : (s.telRecord k e d).2.kept = s.kept := by
  have h := s.cclks_kept
  have h' := Core.readWclk_kept s.cclks.2
  show (s.pending, s.cclks.2.readWclk.2.kept, _) = _
  rw [h', h]
  rfl

theorem State.wire_kept (s : State) (port prio : Nat) (o : Out) : (s.wire port prio o).kept = s.kept := by
  unfold State.wire
  dsimp only
  split <;> rfl

theorem State.request_kept (s : State) (qp : Nat) (o : Out) (b : List Byte) : (s.request qp o b).kept = s.kept := by
  rw [← show (s.wireQp qp o).kept = s.kept from s.wire_kept _ _ _]
  rfl

theorem State.telFlush_kept (s : State) : s.telFlush.kept = s.kept := by
  unfold State.telFlush
  dsimp only
  split
  · rw [foldl_same State.kept _ (fun a b => State.request_kept a _ _ _)]
    rfl
  · rfl

theorem State.telEvent_kept (s : State) (e : Nat) (d : List Byte) : (s.telEvent e d).kept = s.kept := by
  unfold State.telEvent
  split
  · rfl
  · rw [State.telFlush_kept, ← s.telRecord_kept 1 e d]
    dsimp only
    split <;> rfl

theorem State.platform_kept (s : State) (k v : Nat) : (s.platform k v).kept = s.kept := by
  unfold State.platform
  split <;> rfl

theorem State.noticeUE_kept (s : State) (u : Nat × Nat) : (s.noticeUE u).kept = s.kept := by
  unfold State.noticeUE
  rw [State.platform_kept, State.telEvent_kept, State.alert_kept]

theorem State.answerDone_kept (s : State) (d : Done) : (s.answerDone d).kept = s.kept := by
  unfold State.answerDone
  dsimp only
  split
  · split <;> rfl
  · rfl

theorem State.credit_kept (s : State) (l v n : Nat) : (s.credit l v n).kept = s.kept := by
  unfold State.credit
  dsimp only
  split
  · rfl
  · split <;> rfl

theorem State.drain_kept (s : State) (l : Nat) : (s.drain l).kept = s.kept := by
  unfold State.drain
  dsimp only
  rw [foldl_same State.kept _ (fun a o => State.credit_kept a _ _ _), foldl_same State.kept _ (fun a f => State.send_kept a _)]
  rfl

theorem State.inject_kept (s : State) (l v : Nat) (p : Packet) (o : Option (Nat × List Nat)) : (s.inject l v p o).kept = s.kept := by
  unfold State.inject
  exact State.drain_kept _ _

theorem State.pump_kept (s : State) : s.pump.kept = s.kept := by
  unfold State.pump
  dsimp only
  rw [foldr_same State.kept _ (fun q a => State.inject_kept a _ _ _ _)]
  rfl

/-- What a command leaves apart from the times of contexts and the clock stays through its end. -/
theorem State.settle_kept (s : State) : s.settle.kept = { s with core := s.core.touch }.kept := by
  have hn : ∀ a : State, (s.core.ecc.news.foldl State.noticeUE a).kept = a.kept := foldl_same _ _ State.noticeUE_kept _
  have hd : ∀ (l : List Done) (a : State), (l.foldl State.answerDone a).kept = a.kept := foldl_same _ _ State.answerDone_kept
  let s0 : State := { s with core := { s.core with ecc := { s.core.ecc with news := [], back := [] } } }
  let s1 : State := s.core.ecc.news.foldl State.noticeUE s0
  let s2 : State := s1.core.dones.foldl State.answerDone { s1 with core := { s1.core with dones := [] } }
  have h2 : s2.pump.kept = s.kept := by
    rw [State.pump_kept]
    show (s1.core.dones.foldl State.answerDone _).kept = _
    rw [hd]
    show s1.kept = _
    rw [show s1.kept = s0.kept from hn s0]
    rfl
  have hc : s2.pump.core.kept = s.core.kept := congrArg (fun p => p.2.1) h2
  have ht : s2.pump.core.touch.kept = s.core.touch.kept := by
    have e : ∀ c : Core, c.touch.kept = c.kept.touch := fun _ => rfl
    rw [e, e, hc]
  show (s2.pump.pending, s2.pump.core.touch.kept, s2.pump.dmp, s2.pump.sec, s2.pump.flash, s2.pump.silicon, s2.pump.board, s2.pump.bg,
    s2.pump.started, s2.pump.rebinds, s2.pump.nym.kept, s2.pump.eth.kept, s2.pump.lan.kept) = _
  rw [ht]
  have := congrArg (fun p => (p.1, p.2.2)) h2
  simp only [State.kept, Prod.mk.injEq] at this
  obtain ⟨h0, h1⟩ := this
  simp only [State.kept, h0, h1]

@[simp] theorem State.settle_pending (s : State) : s.settle.pending = s.pending := (congrArg (·.1) s.settle_kept :)
@[simp] theorem State.settle_dmp (s : State) : s.settle.dmp = s.dmp := (congrArg (·.2.2.1) s.settle_kept :)
@[simp] theorem State.settle_sec (s : State) : s.settle.sec = s.sec := (congrArg (·.2.2.2.1) s.settle_kept :)
@[simp] theorem State.settle_flash (s : State) : s.settle.flash = s.flash := (congrArg (·.2.2.2.2.1) s.settle_kept :)
@[simp] theorem State.settle_silicon (s : State) : s.settle.silicon = s.silicon := (congrArg (·.2.2.2.2.2.1) s.settle_kept :)
@[simp] theorem State.settle_board (s : State) : s.settle.board = s.board := (congrArg (·.2.2.2.2.2.2.1) s.settle_kept :)
@[simp] theorem State.settle_bg (s : State) : s.settle.bg = s.bg := (congrArg (·.2.2.2.2.2.2.2.1) s.settle_kept :)
@[simp] theorem State.settle_started (s : State) : s.settle.started = s.started := (congrArg (·.2.2.2.2.2.2.2.2.1) s.settle_kept :)
@[simp] theorem State.settle_rebinds (s : State) : s.settle.rebinds = s.rebinds := (congrArg (·.2.2.2.2.2.2.2.2.2.1) s.settle_kept :)
theorem State.settle_nym (s : State) : s.settle.nym.kept = s.nym.kept := (congrArg (·.2.2.2.2.2.2.2.2.2.2.1) s.settle_kept :)
theorem State.settle_eth (s : State) : s.settle.eth.kept = s.eth.kept := (congrArg (·.2.2.2.2.2.2.2.2.2.2.2.1) s.settle_kept :)
theorem State.settle_lan (s : State) : s.settle.lan.kept = s.lan.kept := (congrArg (·.2.2.2.2.2.2.2.2.2.2.2.2) s.settle_kept :)

/-- The compute side after the end of a command. -/
theorem State.settle_core (s : State) : s.settle.core.kept = s.core.touch.kept := (congrArg (·.2.1) s.settle_kept :)

@[simp] theorem State.settle_mem (s : State) : s.settle.core.mem = s.core.mem := (congrArg Core.mem s.settle_core :)
@[simp] theorem State.settle_errs (s : State) : s.settle.core.ecc.errs = s.core.ecc.errs := (congrArg (·.ecc.errs) s.settle_core :)
@[simp] theorem State.settle_cnt (s : State) : s.settle.core.ecc.cnt = s.core.ecc.cnt := (congrArg (·.ecc.cnt) s.settle_core :)
@[simp] theorem State.settle_owners (s : State) : s.settle.core.owners = s.core.owners := (congrArg Core.owners s.settle_core :)
@[simp] theorem State.settle_packs (s : State) : s.settle.core.packs = s.core.packs := (congrArg Core.packs s.settle_core :)
@[simp] theorem State.settle_slotRegs (s : State) : s.settle.core.slotRegs = s.core.slotRegs := (congrArg Core.slotRegs s.settle_core :)
@[simp] theorem State.settle_tslots (s : State) : s.settle.core.tslots = s.core.tslots := (congrArg Core.tslots s.settle_core :)
@[simp] theorem State.settle_samplers (s : State) : s.settle.core.samplers = s.core.samplers := (congrArg Core.samplers s.settle_core :)
@[simp] theorem State.settle_decodes (s : State) : s.settle.core.decodes = s.core.decodes := (congrArg Core.decodes s.settle_core :)
@[simp] theorem State.settle_ration (s : State) : s.settle.core.ration = s.core.ration := (congrArg Core.ration s.settle_core :)
@[simp] theorem State.settle_hbmSpread (s : State) : s.settle.core.hbmSpread = s.core.hbmSpread := (congrArg Core.hbmSpread s.settle_core :)
@[simp] theorem State.settle_pmode (s : State) : s.settle.core.pmode = s.core.pmode := (congrArg Core.pmode s.settle_core :)
@[simp] theorem State.settle_jnl (s : State) : s.settle.core.jnl = s.core.jnl := (congrArg Core.jnl s.settle_core :)
@[simp] theorem State.settle_nextRation (s : State) : s.settle.core.nextRation = s.core.nextRation := (congrArg Core.nextRation s.settle_core :)
@[simp] theorem State.settle_acctReg (s : State) : s.settle.core.acctReg = s.core.acctReg := (congrArg Core.acctReg s.settle_core :)

/-- The contexts after the end of a command: their times are brought up to date. -/
theorem State.settle_ctxs (s : State) : s.settle.core.ctxs = s.core.ctxs.map (fun p => (p.1, p.2.touch (s.core.clock + 1))) :=
  (congrArg Core.ctxs s.settle_core :)

@[simp] theorem State.settle_nym_devnum (s : State) : s.settle.nym.devnum = s.nym.devnum := (congrArg Nym.devnum s.settle_nym :)
@[simp] theorem State.settle_nym_level (s : State) : s.settle.nym.level = s.nym.level := (congrArg Nym.level s.settle_nym :)
@[simp] theorem State.settle_nym_rtAddr (s : State) : s.settle.nym.rtAddr = s.nym.rtAddr := (congrArg Nym.rtAddr s.settle_nym :)
@[simp] theorem State.settle_nym_active (s : State) : s.settle.nym.active = s.nym.active := (congrArg Nym.active s.settle_nym :)
@[simp] theorem State.settle_nym_previous (s : State) : s.settle.nym.previous = s.nym.previous := (congrArg Nym.previous s.settle_nym :)
@[simp] theorem State.settle_nym_pendingBank (s : State) : s.settle.nym.pendingBank = s.nym.pendingBank := (congrArg Nym.pendingBank s.settle_nym :)
@[simp] theorem State.settle_nym_actBank (s : State) : s.settle.nym.actBank = s.nym.actBank := (congrArg Nym.actBank s.settle_nym :)
@[simp] theorem State.settle_nym_pstate (s : State) : s.settle.nym.pstate = s.nym.pstate := (congrArg Nym.pstate s.settle_nym :)
@[simp] theorem State.settle_nym_failDest (s : State) : s.settle.nym.failDest = s.nym.failDest := (congrArg Nym.failDest s.settle_nym :)
@[simp] theorem State.settle_nym_vectors (s : State) : s.settle.nym.vectors = s.nym.vectors := (congrArg Nym.vectors s.settle_nym :)
@[simp] theorem State.settle_nym_linken (s : State) : s.settle.nym.linken = s.nym.linken := (congrArg Nym.linken s.settle_nym :)
@[simp] theorem State.settle_nym_follow (s : State) : s.settle.nym.follow = s.nym.follow := (congrArg Nym.follow s.settle_nym :)
@[simp] theorem State.settle_nym_fmargin (s : State) : s.settle.nym.fmargin = s.nym.fmargin := (congrArg Nym.fmargin s.settle_nym :)
@[simp] theorem State.settle_nym_inbox (s : State) : s.settle.nym.inbox = s.nym.inbox := (congrArg Nym.inbox s.settle_nym :)
@[simp] theorem State.settle_nym_heldPkts (s : State) : s.settle.nym.heldPkts = s.nym.heldPkts := (congrArg Nym.heldPkts s.settle_nym :)
@[simp] theorem State.settle_nym_mine (s : State) : s.settle.nym.mine = s.nym.mine := (congrArg Nym.mine s.settle_nym :)
@[simp] theorem State.settle_nym_parked (s : State) : s.settle.nym.parked = s.nym.parked := (congrArg Nym.parked s.settle_nym :)
@[simp] theorem State.settle_eth_ports (s : State) : s.settle.eth.ports = s.eth.ports := (congrArg Eth.ports s.settle_eth :)
@[simp] theorem State.settle_eth_wins (s : State) : s.settle.eth.wins = s.eth.wins := (congrArg Eth.wins s.settle_eth :)
@[simp] theorem State.settle_lan_boxes (s : State) : s.settle.lan.boxes = s.lan.boxes := (congrArg Lan.boxes s.settle_lan :)
@[simp] theorem State.settle_lan_vid (s : State) : s.settle.lan.vid = s.lan.vid := (congrArg Lan.vid s.settle_lan :)
@[simp] theorem State.settle_lan_telQp (s : State) : s.settle.lan.telQp = s.lan.telQp := (congrArg Lan.telQp s.settle_lan :)
@[simp] theorem State.settle_lan_telMs (s : State) : s.settle.lan.telMs = s.lan.telMs := (congrArg Lan.telMs s.settle_lan :)
@[simp] theorem State.settle_lan_telEn (s : State) : s.settle.lan.telEn = s.lan.telEn := (congrArg Lan.telEn s.settle_lan :)
@[simp] theorem State.settle_lan_bivActive (s : State) : s.settle.lan.bivActive = s.lan.bivActive := (congrArg Lan.bivActive s.settle_lan :)
@[simp] theorem State.settle_lan_bivCause (s : State) : s.settle.lan.bivCause = s.lan.bivCause := (congrArg Lan.bivCause s.settle_lan :)
@[simp] theorem State.settle_lan_bivCount (s : State) : s.settle.lan.bivCount = s.lan.bivCount := (congrArg Lan.bivCount s.settle_lan :)
@[simp] theorem State.settle_lan_bivPort (s : State) : s.settle.lan.bivPort = s.lan.bivPort := (congrArg Lan.bivPort s.settle_lan :)
@[simp] theorem State.settle_lan_bivQset (s : State) : s.settle.lan.bivQset = s.lan.bivQset := (congrArg Lan.bivQset s.settle_lan :)
@[simp] theorem State.settle_lan_keptPort (s : State) : s.settle.lan.keptPort = s.lan.keptPort := (congrArg Lan.keptPort s.settle_lan :)
@[simp] theorem State.settle_lan_stopping (s : State) : s.settle.lan.stopping = s.lan.stopping := (congrArg Lan.stopping s.settle_lan :)
@[simp] theorem State.settle_lan_badVendor (s : State) : s.settle.lan.badVendor = s.lan.badVendor := (congrArg Lan.badVendor s.settle_lan :)
@[simp] theorem State.settle_lan_eid (s : State) : s.settle.lan.eid = s.lan.eid := (congrArg Lan.eid s.settle_lan :)
@[simp] theorem State.settle_lan_i3cDyn (s : State) : s.settle.lan.i3cDyn = s.lan.i3cDyn := (congrArg Lan.i3cDyn s.settle_lan :)
@[simp] theorem State.settle_lan_smbAddr (s : State) : s.settle.lan.smbAddr = s.lan.smbAddr := (congrArg Lan.smbAddr s.settle_lan :)
@[simp] theorem State.settle_lan_tid (s : State) : s.settle.lan.tid = s.lan.tid := (congrArg Lan.tid s.settle_lan :)
@[simp] theorem State.settle_lan_evReceiver (s : State) : s.settle.lan.evReceiver = s.lan.evReceiver := (congrArg Lan.evReceiver s.settle_lan :)
@[simp] theorem State.settle_lan_sensorsOff (s : State) : s.settle.lan.sensorsOff = s.lan.sensorsOff := (congrArg Lan.sensorsOff s.settle_lan :)
@[simp] theorem State.settle_lan_sensors (s : State) : s.settle.lan.sensors = s.lan.sensors := (congrArg Lan.sensors s.settle_lan :)

end Sys2Proof.Machine
end

