-- ==== Sys2Proof/Laws/Strand.lean ====
section
/-!
SUPPORT. What a strand's instruction can do, said once: a load, a store, a fetch, the guard of an instruction, and a completed,
skipped, waiting or faulting instruction.
-/
namespace Sys2Proof.Machine

/-! ### Loads and stores -/

/-- Using bytes of memory is entered in the usage and the credits, and nowhere else (R326, R327). -/
theorem used_eq (x : X) (a n : Nat) : ∃ u q, x.used a n = { x with c := { x.c with usage := u, credits := q } } := by
  unfold X.used
  split
  · exact ⟨_, _, rfl⟩
  · exact ⟨_, _, rfl⟩
  · exact ⟨x.c.usage, x.c.credits, rfl⟩

/-- A load that answers changes memory and its error state (corrected words) and enters what it used, and changes nothing of the
strand. -/
theorem load_ok {x y : X} {a n o : Nat} {bulk : Bool} {bs : List Byte} (h : x.load a n o bulk = .ok (bs, y)) :
    ∃ m e u q, y = { x with c := { x.c with mem := m, ecc := e, usage := u, credits := q } } := by
  simp only [X.load, bind, Except.bind] at h
  split at h
  · cases h
  · split at h
    · cases h; exact ⟨x.c.mem, x.c.ecc, x.c.usage, x.c.credits, rfl⟩
    · split at h
      · split at h
        · cases h
        · cases h
          obtain ⟨u, q, e⟩ := used_eq { x with c := { x.c with
            mem := (scanRange x.c.space x.c.mem x.c.ecc (localOf a) n).1
            ecc := (scanRange x.c.space x.c.mem x.c.ecc (localOf a) n).2.1 } } (localOf a) n
          exact ⟨_, _, u, q, e⟩
      · split at h
        · cases h; exact ⟨x.c.mem, x.c.ecc, x.c.usage, x.c.credits, rfl⟩
        · cases h

/-- A fetch that answers changes memory, its error state and the usage only. -/
theorem fetch_ok {x y : X} (h : fetchCheck x = .ok y) :
    ∃ m e u q, y = { x with c := { x.c with mem := m, ecc := e, usage := u, credits := q } } := by
  unfold fetchCheck at h
  split at h
  · cases h
  · dsimp only at h
    split at h
    · cases hq : x.load x.r.pc.toNat 16 with
      | error e => rw [hq] at h; cases h
      | ok q =>
        rw [hq] at h
        cases h
        exact load_ok (bs := q.1) hq
    · cases h

/-- A store that answers on this module writes its bytes and nothing else. -/
theorem store_here {x y : X} {a o : Nat} {bs : List Byte} (hl : x.here a = true) (h : x.store a bs o = .ok y) :
    y = if bs.isEmpty then x else ({ x with c := x.c.store (localOf a) bs } : X).used (localOf a) bs.length := by
  unfold X.store at h
  cases hr : x.reach a bs.length true o with
  | error e => rw [hr] at h; cases h
  | ok u =>
    rw [hr] at h
    simp only [bind, Except.bind, hl, if_true] at h
    split at h
    · rename_i hb; cases h; rw [if_pos hb]
    · rename_i hb
      rw [if_neg hb]
      split at h
      · cases h
      · cases h; rfl

/-! ### The guard -/

/-- What a view that executes is: that of the strand, after its fetch. -/
theorem running_ok {s : State} {t : StrandId} {b : Body} {op : Nat} {y : X} (h : running s t b op = some y) :
    ∃ x, viewOf (s.envOf t.ctx.val) s.core t.ctx.val t.idx.val op = some x ∧ x.ready = true ∧ fetchCheck x = .ok y ∧
      encCheck op (insOf b) = .ok () ∧ (y.p (insOf b).pred != (insOf b).psense) = true := by
  unfold running at h
  split at h
  · cases h
  · rename_i x hx
    split at h
    · rename_i hr
      split at h
      · rename_i hf he
        split at h
        · rename_i hp; cases h; exact ⟨x, hx, hr, hf, he, hp⟩
        · cases h
      · cases h
    · cases h

theorem skipping_ok {s : State} {t : StrandId} {b : Body} {op : Nat} {y : X} (h : skipping s t b op = some y) :
    ∃ x, viewOf (s.envOf t.ctx.val) s.core t.ctx.val t.idx.val op = some x ∧ x.ready = true ∧ fetchCheck x = .ok y ∧
      encCheck op (insOf b) = .ok () ∧ (y.p (insOf b).pred != (insOf b).psense) = false := by
  unfold skipping at h
  split at h
  · cases h
  · rename_i x hx
    split at h
    · rename_i hr
      split at h
      · rename_i hf he
        split at h
        · cases h
        · rename_i hp; cases h; exact ⟨x, hx, hr, hf, he, by simpa using hp⟩
      · cases h
    · cases h

/-- The parts of a view. -/
theorem viewOf_ok {env : Env} {c : Core} {k i op : Nat} {x : X} (h : viewOf env c k i op = some x) :
    ∃ cx r, lookup c.ctxs k = some cx ∧ lookup cx.strands i = some r ∧
      x = { c := c, env := env, k := k, i := i, cx := cx, r := r, tm := (lookup cx.tiles i).getD {}, num := cx.num, op := op,
            trapOn := cx.num.nantrap } := by
  unfold viewOf at h
  split at h
  · cases h
  · rename_i cx hc
    split at h
    · cases h
    · rename_i r hr; cases h; exact ⟨cx, r, hc, hr, rfl⟩

theorem running_op {s : State} {t : StrandId} {b : Body} {op : Nat} {y : X} (h : running s t b op = some y) : y.op = op := by
  obtain ⟨x, hx, -, hf, -, -⟩ := running_ok h
  obtain ⟨m, e, u, q, rfl⟩ := fetch_ok hf
  obtain ⟨cx, r, -, -, rfl⟩ := viewOf_ok hx
  rfl

theorem running_nan {s : State} {t : StrandId} {b : Body} {op : Nat} {y : X} (h : running s t b op = some y) : y.nan = none := by
  obtain ⟨x, hx, -, hf, -, -⟩ := running_ok h
  obtain ⟨m, e, u, q, rfl⟩ := fetch_ok hf
  obtain ⟨cx, r, -, -, rfl⟩ := viewOf_ok hx
  rfl

/-- An instruction whose checks pass, run on a view that executes. -/
theorem guard_run {α : Type} {s : State} {t : StrandId} {b : Body} {op : Nat} {y : X} (h : running s t b op = some y)
    {chk : Ins → Res α} {a : α} (hc : chk (insOf b) = .ok a) (run : Ins → α → Res X) :
    y.guard b chk run = run (insOf b) a := by
  have ho := running_op h
  obtain ⟨x, -, -, -, he, hp⟩ := running_ok h
  simp [X.guard, bind, Except.bind, ho, he, hc, hp]

/-! ### What an instruction leaves -/

theorem issue_eq {s : State} {t : StrandId} {b : Body} {op : Nat} {y z : X} {f : Body → X → Res X}
    (h : running s t b op = some y) (hf : f b y = .ok z) (hq : untrapped y z) :
    s.issue t b op f = (s.onCore fun _ => z.finish.commit).onFault t.ctx.val := by
  obtain ⟨x, hx, hr, hy, -, -⟩ := running_ok h
  have : issueCore (s.envOf t.ctx.val) f op t.ctx.val t.idx.val b s.core = z.finish.commit := by
    simp only [issueCore, hx, hr, if_true, hy, hf, settle]
    cases hn : z.nan with
    | none => rfl
    | some n =>
      have : y.trapOn = false := by
        rcases hq with hq | hq
        · exact hq
        · rw [hn] at hq; cases hq
      rw [this]
  simp only [State.issue, State.onCore, this]

theorem issue_completed {s : State} {t : StrandId} {b : Body} {op : Nat} {y z : X} {f : Body → X → Res X}
    (h : running s t b op = some y) (hf : f b y = .ok z) (hq : untrapped y z) :
    answer (s.issue t b op f) = .next (s.completed t z) := by
  show Host.Outcome.next (State.settle _) = _
  rw [issue_eq h hf hq, State.completed]

/-- An instruction whose checks pass and whose effect completes. -/
theorem guard_completed {α : Type} {s : State} {t : StrandId} {b : Body} {op : Nat} {y z : X} {chk : X → Ins → Res α}
    {run : X → Ins → α → Res X} {a : α} (h : running s t b op = some y) (hc : chk y (insOf b) = .ok a)
    (hz : run y (insOf b) a = .ok z) (hq : untrapped y z) :
    answer (s.issue t b op (fun b x => x.guard b (chk x) (run x))) = .next (s.completed t z) :=
  issue_completed h ((guard_run h hc _).trans hz) hq

theorem issue_waiting {s : State} {t : StrandId} {b : Body} {op : Nat} {y : X} {f : Body → X → Res X} {w : Wait} {z : X}
    (h : running s t b op = some y) (hf : f b y = .error (.hold w (some z))) :
    answer (s.issue t b op f) = .next (s.waiting t b w z) := by
  obtain ⟨x, hx, hr, hy, -, -⟩ := running_ok h
  have : issueCore (s.envOf t.ctx.val) f op t.ctx.val t.idx.val b s.core = z.hold w b := by
    simp only [issueCore, hx, hr, if_true, hy, hf, settle, Option.getD]
  show Host.Outcome.next (State.settle _) = _
  simp only [State.issue, State.waiting, State.onCore, this]

/-! ### Skipped and faulting instructions -/

theorem skipping_op {s : State} {t : StrandId} {b : Body} {op : Nat} {y : X} (h : skipping s t b op = some y) :
    y.op = op ∧ y.nan = none := by
  obtain ⟨x, hx, -, hf, -, -⟩ := skipping_ok h
  obtain ⟨m, e, u, q, rfl⟩ := fetch_ok hf
  obtain ⟨cx, r, -, -, rfl⟩ := viewOf_ok hx
  exact ⟨rfl, rfl⟩

/-- A skipped instruction whose checks pass does nothing. -/
theorem guard_skip {α : Type} {s : State} {t : StrandId} {b : Body} {op : Nat} {y : X} (h : skipping s t b op = some y)
    {chk : Ins → Res α} {a : α} (hc : chk (insOf b) = .ok a) (run : Ins → α → Res X) : y.guard b chk run = .ok y := by
  have ho := (skipping_op h).1
  obtain ⟨x, -, -, -, he, hp⟩ := skipping_ok h
  simp [X.guard, bind, Except.bind, ho, he, hc, hp, pure, Except.pure]

theorem issue_skip {s : State} {t : StrandId} {b : Body} {op : Nat} {y : X} {f : Body → X → Res X}
    (h : skipping s t b op = some y) (hf : f b y = .ok y) : answer (s.issue t b op f) = .next (s.completed t y) := by
  have hn := (skipping_op h).2
  obtain ⟨x, hx, hr, hy, -, -⟩ := skipping_ok h
  show Host.Outcome.next (State.settle _) = _
  simp only [State.issue, issueCore, hx, hr, if_true, hy, hf, settle, hn, State.completed, State.onCore]

/-- A check that answers, without its answer. -/
theorem map_unit_ok {α : Type} {r : Res α} (h : r.map (fun _ => ()) = .ok ()) : ∃ a, r = .ok a := by
  cases r with
  | ok a => exact ⟨a, rfl⟩
  | error e => cases h

theorem map_unit_error {α : Type} {r : Res α} {e : Stop} (h : r.map (fun _ => ()) = .error e) : r = .error e := by
  cases r with
  | ok a => cases h
  | error e' => simpa [Except.map] using h

/-- A fetch that faults. -/
theorem issue_fetch_fault {s : State} {t : StrandId} {b : Body} {op : Nat} {x : X} {g : FaultInfo} (f : Body → X → Res X)
    (hx : viewOf (s.envOf t.ctx.val) s.core t.ctx.val t.idx.val op = some x) (hr : x.ready = true)
    (hf : fetchCheck x = .error (.fault g none)) : answer (s.issue t b op f) = .next (s.faulting t x g) := by
  show Host.Outcome.next (State.settle _) = _
  simp only [State.issue, State.onCore, issueCore, hx, hr, if_true, hf, State.faulting, settle, Option.getD]

/-- An instruction that faults before it does anything. -/
theorem issue_fault {s : State} {t : StrandId} {b : Body} {op : Nat} {x y : X} {g : FaultInfo} {f : Body → X → Res X}
    (hx : viewOf (s.envOf t.ctx.val) s.core t.ctx.val t.idx.val op = some x) (hr : x.ready = true)
    (hy : fetchCheck x = .ok y) (hf : f b y = .error (.fault g none)) :
    answer (s.issue t b op f) = .next (s.faulting t y g) := by
  show Host.Outcome.next (State.settle _) = _
  simp only [State.issue, State.onCore, issueCore, hx, hr, if_true, hy, hf, State.faulting, settle, Option.getD]

end Sys2Proof.Machine
end

