-- ==== Sys2Proof/Tests/Slice0.lean ====
section
/-!
SUPPORT. Tests: ill-formed commands are refused, words decode, and small states that meet the hypotheses of each statement.
-/
namespace Sys2Proof.Tests
open Sys2Proof Sys2Proof.Machine
set_option Elab.async false

/-! ### A small machine: one context of partition 0, with one strand on ME 0 -/

/-- The body of an instruction with operand fields, FUNC and the 64-bit immediate of its class (Tables 5.1 to 5.3). -/
def ins (cls op1 op2 op3 op4 func imm : Nat) : Body :=
  BitVec.ofNat 120 (cls + op1 * 2 ^ 9 + op2 * 2 ^ 16 + op3 * 2 ^ 23 + op4 * 2 ^ 30 + func * 2 ^ 40 + imm * 2 ^ 48)

/-- The strand the tests use. -/
def t0 : StrandId := ⟨0, 0⟩

/-- A pack whose code region is the first 4 KiB of HBM. -/
def pack0 : Pack :=
  { part := 0, addr := 0, len := 4096, codeBase := 0, codeLen := 4096, entries := [{ addr := 0, acmAlloc := 8, tables := [] }]
    tables := [], digest := [], caps := 0, ladle := true }

/-- Strand 0 as a launch starts it, placed on ME 0, with registers set. -/
def strand0 (ss : List (Nat × Nat)) (ds : List (Nat × Nat)) : Strand :=
  let r := newStrand { num := 0, entry := 0, count := 1, arg := 0, base := some 0, cmd := none } { addr := 0, acmAlloc := 8, tables := [] } 0 0
  { r with
    me := some 0
    s := ss.foldl (fun v p => v.setIfInBounds p.1 (BitVec.ofNat 64 p.2)) r.s
    d := ds.foldl (fun v p => v.setIfInBounds p.1 (BitVec.ofNat 512 p.2)) r.d }

/-- A resident context of partition 0 with strand 0. -/
def ctx0 (r : Strand) : Context :=
  { part := 0, pack := 0, prio := 0, mask := 1, poff := 0, plen := 1, imgAddr := 0x8000, imgLen := 0x8000, ladle := true
    slot := some 0, launches := [{ num := 0, entry := 0, count := 1, arg := 0, base := some 0, cmd := none }], nextLaunch := 1
    strands := [(0, r)] }

/-- The compute side of the small machine, with the first regions of HBM and LPDDR5X and die 0 bound to partition 0. -/
def core0 (cx : Context) (m : List (Nat × List Byte)) : Core :=
  { Core.reset with
    mem := m.foldl (fun w p => w.write p.1 p.2) {}
    packs := [(0, pack0)], ctxs := [(0, cx)]
    owners := (span 4096 4).map (fun u => (u, 0)) ++ [(2 * 4096, 0), (3 * 4096, 0)] }

/-- The small machine, its registers s and d set and bytes of its memory. -/
def m0 (ss ds : List (Nat × Nat)) (m : List (Nat × List Byte)) : State := { State.reset with core := core0 (ctx0 (strand0 ss ds)) m }

/-- Whether an instruction of the tests' strand executes, in a view with a property. -/
def runs (s : State) (b : Body) (op : Nat) (f : X → Bool) : Bool :=
  match running s t0 b op with
  | some y => f y
  | none => false

/-- What `runs` says: the hypothesis of the statements about that instruction holds, in a view with the property. -/
theorem runs_some {s : State} {b : Body} {op : Nat} {f : X → Bool} (h : runs s b op f = true) : ∃ y, running s t0 b op = some y ∧ f y = true := by
  unfold runs at h
  split at h
  · rename_i y hy
    exact ⟨y, hy, h⟩
  · cases h

/-- Whether an instruction of the tests' strand executes and its function succeeds with the NaN trap off: then the hypotheses of the
completion statements hold, each check and effect they name having succeeded on the way. -/
def completes (s : State) (b : Body) (op : Nat) : Bool :=
  runs s b op fun y => match opFn op b y with
    | .ok _ => !y.trapOn
    | .error _ => false

/-- What `completes` says. -/
theorem completes_some {s : State} {b : Body} {op : Nat} (h : completes s b op = true) :
    ∃ y z, running s t0 b op = some y ∧ opFn op b y = .ok z ∧ untrapped y z := by
  obtain ⟨y, hy, hf⟩ := runs_some h
  cases ho : opFn op b y with
  | ok z =>
    rw [ho] at hf
    exact ⟨y, z, hy, ho, .inl (by simpa using hf)⟩
  | error e =>
    rw [ho] at hf
    cases hf

/-- A tensor descriptor of rank 2 (Table 4.2): base, format, columns, rows, row stride, and the low bits of the scale address in words. -/
def desc2 (base fmt e0 e1 s1 : Nat) (scale : Option Nat := none) : Nat :=
  base + fmt * 2 ^ 64 + 1 * 2 ^ 82 + 1 * 2 ^ 92 + e0 * 2 ^ 128 + e1 * 2 ^ 160 + s1 * 2 ^ 256 +
    ((scale.map fun a => 2 ^ 84 + a / 256 * 2 ^ 408).getD 0)


/-- The small machine with its context changed. -/
def mc (ss ds : List (Nat × Nat)) (m : List (Nat × List Byte)) (f : Context → Context) : State :=
  { State.reset with core := core0 (f (ctx0 (strand0 ss ds))) m }

/-- A 1 × 2 descriptor list of FP32 rows: a destination and two sources. -/
def mats : List (Nat × Nat) := [(0, desc2 0x3000 1 2 2 8), (1, desc2 0x3100 1 2 2 8), (2, desc2 0x3200 1 2 2 8)]

/-- A parameter block of a macro for one ME, with 1 MiB of OSP and eight slots (Table 6.2), and its operands. -/
def macroMem (m : Nat) (more : List (Nat × Nat × Nat)) : List (Nat × List Byte) :=
  [(0x2000, layout 128 ([(0, 2, 1), (2, 1, m), (4, 1, 1), (5, 1, 1), (6, 1, 2), (7, 1, 1), (10, 2, 1), (16, 4, 0x100000), (21, 1, 8)] ++ more)),
    (0x2400, layout 64 [(0, 8, 0x3100), (8, 8, 0x3200), (16, 8, 0x3000)]), (0x3100, [0, 0, 0x80, 0x3F]), (0x3200, [0, 0, 0, 0x40])]

/-- The small machine with an accumulation at slot 0. -/
def ma (a : Acc) (m : List (Nat × List Byte)) : State :=
  mc [(2, 0), (3, 1), (4, 0x2000), (5, 0x120), (6, 2 ^ 12 + 2 ^ 24 + 2 ^ 36 + 2 ^ 48)] mats m fun cx =>
    { cx with tiles := [(0, { accs := [(0, a)] })] }

/-- An accumulation of the ACC kind with one stack slot, of `kext` products, whose next beat is `next`. -/
def acc0 (kext next : Nat) (fin : Bool) : Acc :=
  { kind := .acc, depth := 1, kext := kext, gstart := 0, next := next, dirty := false, stack := [], sat := false, rdnz := false, row := 0
    col := 0, finished := fin }

/-- FP32 as both formats of MMA's class T word. -/
def ff32 : Nat := 2 ^ 47 + 2 ^ 51

/-- A table object of one 16-row FP16 page at `page`, published once (Tables 9.3 and 9.4). -/
def tabObj (page : Nat) : List Byte :=
  layout 72 [(0, 2, 1), (2, 1, 4), (4, 2, 32), (6, 2, 64), (8, 4, 1), (16, 4, 1), (24, 8, 1),
    (64, 8, page / 256 * 2 ^ 24 + 127 * 2 ^ 16 + 2 * 2 ^ 12 + 4 * 2 ^ 8 + 1)]

/-- The tables of keys and values, ATTN's block at 0x2000, its record at 0x2800, and KVPUT's block at 0x2900. -/
def attnMem : List (Nat × List Byte) :=
  [(0x2000, layout 128 [(0, 2, 1), (2, 1, 4), (4, 1, 1), (5, 1, 2), (6, 1, 2), (10, 2, 1), (16, 4, 0x100000), (21, 1, 128), (22, 1, 1),
    (23, 1, 1), (24, 2, 32), (26, 1, 16), (28, 4, 0x3F800000), (32, 4, 1), (40, 8, 0x2800)]),
    (0x2800, layout 32 [(4, 4, 1), (8, 8, 0xFFFF000000005000), (16, 8, 0xFFFF000000006000)]),
    (0x2900, layout 32 [(0, 8, 0xFFFF000000005000), (8, 8, 0xFFFF000000006000), (20, 4, 1)]), (0x5000, tabObj 0x7000), (0x6000, tabObj 0x7100)]

/-- A rank-1 INT32 descriptor. -/
def descI (base n : Nat) : Nat := base + 9 * 2 ^ 64 + 2 ^ 92 + n * 2 ^ 128

/-- The small machine with these tables, every slot of the ACM, and single rows of 32 FP32 elements in d0 and d1. -/
def mAttn : State :=
  { State.reset with
    core := core0 (ctx0 { strand0 [(2, 0x5000), (4, 0x2000), (5, 0x2900), (6, 4)]
      [(0, desc2 0x3000 1 32 1 128), (1, desc2 0x3100 1 32 1 128), (2, descI 0x2400 1), (4, desc2 0x3000 12 1 1 8), (5, desc2 0x3100 12 4 1 8),
        (6, descI 0x3000 18), (7, descI 0x3200 2)] with acmAlloc := 128 }) attnMem }

/-- The small machine with a compressed pair in d0 and d1, its source in d2, and a generation of table slot 0. -/
def mPress (g : Option Gen) : State :=
  let s := m0 [(4, 0)] [(0, desc2 0x4000 1 2 1 8 + 2 ^ 90), (1, 0x3000 * 2 ^ 64 + 2 ^ 128 + 2 ^ 192 + 2 ^ 199), (2, desc2 0x5000 1 2 1 8)]
    [(0x5000, [1])]
  { s with core := s.core.setTslot 0 { owner := 0, cur := g } }

/-- The small machine with the sampler of die 0 bound and a sampling block. -/
def mSample : State :=
  let s := m0 [(4, 0x2000)] [(0, 0x3000 + 2 ^ 64 + 2 ^ 92 + 4 * 2 ^ 128)] [(0x2000, layout 64 [(0, 2, 1), (8, 4, 0x3F800000), (12, 4, 0x3F800000)])]
  { s with core := { s.core with owners := s.core.owners ++ [(7 * 4096, 0)] } }

/-- The collective state of a context whose list holds it and a context of module 1. -/
def coll0 (op : List CollOp) : CollCtx := { members := [(0, 0), (1, 0)], gen := 1, listed := true, ops := op }

/-- An operation of strand 0 that has ended with status 0; the other member brought `rows`. -/
def op0 (op : Nat) (ps : List Nat) (rows ids : List (List Nat)) : CollOp :=
  { strand := 0, op := op, params := ps, peers := [{ rank := 1, params := ps, rows := rows, ids := ids }], fin := some 0, stalled := false }

/-- The parameter blocks of COLL and of the expert operations, homes, and an id row. -/
def collMem : List (Nat × List Byte) :=
  [(0x2000, layout 64 [(0, 2, 1), (4, 4, 1), (8, 8, 0xFFFF000000002800)]),
    (0x2100, layout 128 [(0, 2, 1), (2, 1, 1), (3, 1, 1), (4, 4, 1), (8, 4, 2), (16, 8, 0xFFFF000000002600), (24, 8, 0xFFFF000000002700),
      (32, 8, 0xFFFF000000002900), (40, 8, 0xFFFF000000002800)]),
    (0x2600, leBytes 4 0 ++ leBytes 4 1), (0x2700, leBytes 8 (2 ^ 30)), (0x3400, leBytes 4 0 ++ leBytes 4 1), (pantryBase, [5])]

/-- Link 0 bound to partition 0 and in service to module 1, which the active routing bank leads to. -/
def linked (s : State) : State :=
  { s with
    core := { s.core with owners := s.core.owners ++ [(4 * 4096, 0)] }
    nym := { s.nym with active := some { epoch := 1, entries := [(1, 0, 1)] }, links := s.nym.links.set 0 { state := 2, peerDev := 1 } } }

/-- The small machine with these blocks and collective state. -/
def mColl (op : List CollOp) : State :=
  linked (mc [(4, 0x2000), (5, 0x2100)]
    [(0, desc2 0x3000 1 2 1 8), (1, desc2 0x3100 1 2 1 8), (2, desc2 0x3400 9 2 1 8), (3, desc2 0x3200 1 1 1 4)] collMem
    fun cx => { cx with coll := coll0 op })

/-- The small machine with a flag of value 5 in its pantry and a member list. -/
def mFlag : State :=
  m0 [(2, 0xFFFF000000000000 + pantryBase), (3, 5), (4, 0x2000), (5, 1)] [] [(0x2000, layout 80 [(0, 4, 2), (64, 8, 0), (72, 4, 1)]), (pantryBase, [5])]

/-- The small machine with a link to module 1 and rows to send there; `prg` 1 says that they are sent. -/
def mRput (prg : Nat) : State :=
  linked (mc [(3, 0xFFFF000000000000 + pantryBase), (4, 5)] [(0, desc2 (2 ^ 48 + 0x3000) 1 2 1 8), (1, desc2 0x3100 1 2 1 8)] [] fun cx =>
    { cx with strands := cx.strands.map fun r => (r.1, { r.2 with prg := BitVec.ofNat 64 prg }) })

/-! ### Witnesses: instructions of strands -/

/-- Scalar and control instructions, with a branch backwards, CALL into s5, and a shift function at the end of its range. -/
theorem wit_ScalarAndControlInstructionsComplete :
    [(0x00, ins 0 0 0 0 0 0 0), (0x01, ins 0 1 2 3 0 0x12 0), (0x02, ins 1 31 2 0 0 0 (2 ^ 64 - 1)), (0x03, ins 0 1 2 3 0 5 0),
      (0x04, ins 1 7 2 0 0 0 9), (0x05, ins 0 1 2 3 0 3 0), (0x06, ins 1 0 0 0 0 0 77), (0xB0, ins 1 0 0 0 0 0 15),
      (0xC0, ins 0 1 0 0 0 0 0), (0xC1, ins 0 1 0 0 0 2 0), (0xC4, ins 0 0 0 0 0 0 0), (0x10, ins 1 0 0 0 0 0 (2 ^ 64 - 16)),
      (0x11, ins 1 5 0 0 0 0 64), (0x12, ins 0 0 2 0 0 0 0), (0x13, ins 0 0 0 0 0 0 0)].all
      (fun p => runs (m0 [(2, 5), (3, 70)] [] []) p.2 p.1 fun _ => true) = true := by decide +kernel

/-- Loads of the last bytes of the region, stores of 8 bytes, and descriptors at an aligned address. -/
theorem wit_MovesLoadsAndStoresComplete :
    [(0x07, ins 1 1 2 0 0 0 (2 ^ 64 - 8)), (0x07, ins 1 1 3 0 0 6 0), (0x08, ins 1 0 3 4 0 3 8), (0x40, ins 1 15 3 0 0 0 64),
      (0x41, ins 1 0 3 2 0 0 0), (0x42, ins 0 2 3 0 0 7 0), (0x43, ins 0 1 2 0 0 7 0), (0x27, ins 0 1 31 3 0 0 0),
      (0x23, ins 0 1 2 3 4 0 0), (0x26, ins 0 1 2 0 0 0 0), (0x25, ins 0 1 2 3 0 0 0)].all
      (fun p => completes (m0 [(2, 0x40000000), (3, 0x3000), (4, 7)] [] [(0x3000, [1, 2])]) p.2 p.1) = true := by decide +kernel

/-- Each group of FUNC values of VALU at its ends, and both of VFMA; FP64 operands are even pairs. -/
theorem wit_VectorArithmeticCompletes :
    [(0x20, ins 0 1 2 3 0 0 0), (0x20, ins 0 1 2 3 0 0x1A 0), (0x20, ins 0 2 4 6 0 0x80 0), (0x20, ins 0 2 4 6 0 0x89 0),
      (0x20, ins 0 2 3 0 0 0x8C 0), (0x20, ins 0 3 2 0 0 0x8D 0), (0x21, ins 0 1 2 3 4 0 0), (0x21, ins 0 0 2 4 30 0x80 0)].all
      (fun p => completes (m0 [] [] []) p.2 p.1) = true := by decide +kernel

/-- A pack with one table image, for VTAB. -/
def mTab : State :=
  let s := m0 [] [] []
  { s with core := { s.core with packs := [(0, { pack0 with entries := [{ addr := 0, acmAlloc := 8, tables := [some 0] }], tables := [List.replicate 8192 0] })] } }

/-- Each group of VCMP and VRED, exponentials, logarithms, tables and statistics. -/
theorem wit_RowFunctionsComplete :
    [(0x22, ins 0 1 2 3 0 6 0), (0x22, ins 0 1 2 3 0 0x10 0), (0x22, ins 0 1 2 4 0 0x86 0), (0x24, ins 0 1 2 0 0 0 0),
      (0x24, ins 0 1 2 0 0 3 0), (0x24, ins 0 2 4 0 0 0x80 0), (0x28, ins 0 1 2 0 0 0 0), (0x29, ins 0 1 2 0 0 0 0),
      (0x2A, ins 0 1 2 0 0 0 0), (0x2B, ins 0 2 4 0 0 0 0)].all (fun p => completes mTab p.2 p.1) = true := by decide +kernel

/-- Loads and stores of FP64 pairs, FP32 rows and another format, both ACM moves at the last slot of the allocation, and VTWR into a
finished accumulation. -/
theorem wit_VectorMemoryCompletes :
    [(0x30, ins 0 2 3 2 3 1 0), (0x30, ins 0 1 0 2 3 0 0), (0x30, ins 0 1 4 2 3 0 0), (0x31, ins 0 1 0 2 3 0 0), (0x31, ins 0 1 4 2 3 0 0),
      (0x32, ins 0 1 7 2 0 0 0), (0x33, ins 0 1 7 2 0 0 0)].all
      (fun p => completes (m0 [] (mats ++ [(3, desc2 0x3300 0 2 2 16), (4, desc2 0x3400 2 2 2 8)]) []) p.2 p.1) = true ∧
    completes (ma (acc0 32 1 true) []) (ins 0 1 0 2 0 0 0) 0x33 = true := by decide +kernel

/-- Tile loads and stores, and an accumulation opened, advanced by MMA and by MCONV, finished, exported, imported and reduced. -/
theorem wit_TilesAndAccumulationsComplete :
    (completes (m0 [] mats []) (ins 2 0 1 2 3 0 0) 0x44 && completes (ma (acc0 32 1 true) []) (ins 2 0 1 2 2 1 0) 0x45 &&
      completes (m0 [] mats []) (ins 1 0 2 3 0 0 (2 ^ 61 + 32)) 0x50 && completes (ma (acc0 32 0 false) []) (ins 2 0 2 0 0 0 ff32) 0x51 &&
      completes (ma (acc0 1 0 false) []) (ins 2 0 2 5 6 0 ff32) 0x52 && completes (ma (acc0 32 1 false) []) (ins 0 0 0 0 0 0 0) 0x53 &&
      completes (ma (acc0 32 1 false) []) (ins 0 0 4 7 0 0 0) 0x54 &&
      completes (ma (acc0 32 0 false) [(0x2000, layout 64 [(0, 2, 1), (2, 1, 1), (8, 4, 1)])]) (ins 0 0 4 0 0 0 0) 0x55 &&
      completes (ma (acc0 32 0 false) [(0x2000, leBytes 8 0x4000), (0x4000, layout 64 [(0, 2, 1), (2, 1, 1), (8, 4, 1)])])
        (ins 0 0 4 3 0 0 0) 0x56) = true := by decide +kernel

/-- GEMM, CONV with a 1 × 1 kernel, BGEMM of one entry, RAPPLY without a recipe, and ATTN over one key of one page. -/
theorem wit_MacrosComplete :
    (completes (m0 [(4, 0x2000)] mats (macroMem 1 [])) (ins 3 0 1 2 4 0 0) 0x60 &&
      completes (m0 [(4, 0x2000)] [(0, desc2 0x3000 1 1 1 8), (1, desc2 0x3100 1 2 1 8), (2, desc2 0x3200 1 2 1 8)] (macroMem 2 [(56, 8, 0x120)]))
        (ins 3 0 1 2 4 0 0) 0x61 &&
      completes (m0 [(4, 0x2000)] mats (macroMem 3 [(28, 4, 1), (32, 8, 0x2400)])) (ins 3 0 1 2 4 0 0) 0x63 &&
      completes (m0 [] mats []) (ins 3 0 1 0 0 0 0) 0x68 && completes mAttn (ins 3 0 1 2 4 0 0) 0x62) = true := by decide +kernel

/-- PTPUB, KVPUT, MSUM and BSORT. -/
theorem wit_PageInstructionsComplete :
    [(0x70, ins 0 0 2 0 0 0 0), (0x71, ins 3 0 1 0 5 0 0), (0x72, ins 3 4 5 0 0 0 0), (0x73, ins 3 6 7 0 6 0 0)].all
      (fun p => completes mAttn p.2 p.1) = true := by decide +kernel

/-- The draws, and SAMPLE of four logits. -/
theorem wit_DrawInstructionsComplete :
    ([(0x78, ins 0 4 2 5 6 3 0), (0x79, ins 0 4 2 5 6 3 0), (0x7A, ins 0 4 2 5 6 3 0), (0x7B, ins 3 0 0 0 0 2 0)].all
      (fun p => completes mAttn p.2 p.1) && completes mSample (ins 3 1 0 0 4 0 0) 0x7C) = true := by decide +kernel

/-- PRESS without a base, PHIST, and TGEN of an empty slot. -/
theorem wit_CompressionInstructionsComplete :
    (completes (mPress (some { num := 1 })) (ins 3 0 2 2 4 0 0) 0x80 && completes (mPress (some { num := 1 })) (ins 3 0 2 2 0 0 0) 0x81 &&
      completes (mPress none) (ins 0 1 0 0 0 0 0) 0x82) = true := by decide +kernel

/-- A machine with a flag of module 1 in s2, whose answer has come. -/
def mFar : State :=
  linked (mc [(2, 2 ^ 48 + pantryBase), (3, 5)] [] [] fun cx =>
    { cx with strands := cx.strands.map fun r => (r.1, { r.2 with arrived := [(2 ^ 48 + pantryBase, leBytes 8 5)] }) })

/-- Flags in a pantry with release, both outcomes of FCAS, flags of another module, a list of two members, a released barrier, ended
operations, RPUT with its rows sent. -/
theorem wit_SynchronisationCompletes :
    ([(0xA0, ins 0 0 2 3 0 1 0), (0xA1, ins 0 1 2 3 0 3 0), (0xA2, ins 0 1 2 3 4 3 0), (0xA2, ins 0 1 2 4 3 3 0), (0xA3, ins 0 0 2 3 0 0 0),
      (0xA5, ins 0 0 0 0 0 1 0), (0x89, ins 0 0 4 5 0 0 0)].all (fun p => completes mFlag p.2 p.1) &&
      completes (mc [] [] [] fun cx => { cx with bars := [{ launch := 0, scope := 2, group := 0, num := 0, arrived := [0], fin := some 0 }] })
        (ins 1 0 0 0 0 0 2) 0xA4 &&
      completes (mColl [op0 0x88 [] [[0, 0]] []]) (ins 3 0 1 0 4 2 0) 0x88 &&
      completes (mColl [op0 0x8B [1, 1, 1, 2] [[0, 0]] [[1, 0]]]) (ins 3 0 1 2 5 0 0) 0x8B &&
      [(0xA0, ins 0 0 2 3 0 1 0), (0xA2, ins 0 1 2 3 4 3 0), (0xA3, ins 0 0 2 3 0 0 0)].all
        (fun p => completes mFar p.2 p.1 && runs mFar p.2 p.1 fun y => !y.here (y.s 2)) &&
      completes (mColl [op0 0x8C [1, 1, 1, 2] [[0, 0]] []]) (ins 3 0 1 3 5 0 0) 0x8C && completes (mRput 1) (ins 3 0 1 3 4 0 0) 0x8A) = true := by
  decide +kernel

/-- What the instruction of the tests' strand waits for, when it executes and waits. -/
def waitsFor (s : State) (b : Body) (op : Nat) : Option Wait :=
  match running s t0 b op with
  | some y => match opFn op b y with
    | .error (.hold w (some _)) => some w
    | _ => none
  | none => none

/-- A flag that does not hold, a barrier not arrived at, collectives and expert operations not begun, and rows not acknowledged. -/
theorem wit_WaitingInstructionsWait :
    (waitsFor mFlag (ins 0 0 2 4 0 0 0) 0xA3 == some (.flag (0xFFFF000000000000 + pantryBase) 0 0x2000) &&
      waitsFor (m0 [] [] []) (ins 1 0 0 0 0 0 0xF2) 0xA4 == some (.barrier 2 15) && waitsFor (mColl []) (ins 3 0 1 0 4 2 0) 0x88 == some .coll &&
      waitsFor (mColl []) (ins 3 0 1 2 5 0 0) 0x8B == some .coll && waitsFor (mColl []) (ins 3 0 1 3 5 0 0) 0x8C == some .coll &&
      waitsFor (mRput 0) (ins 3 0 1 3 4 0 0) 0x8A == some .acks) = true := by decide +kernel

/-- A skipped SALU: predicate p1, which is false. -/
theorem wit_SkippedInstructionsOnlyAdvance :
    (match skipping (m0 [] [] []) t0 (ins 0 1 2 3 0 0 0 + 16) 0x01 with
      | some y => match checkOf 0x01 y (insOf (ins 0 1 2 3 0 0 0 + 16)) with | .ok _ => true | .error _ => false
      | none => false) = true ∧
    insParts (.salu t0 (ins 0 1 2 3 0 0 0 + 16)) = some (t0, 0x01, ins 0 1 2 3 0 0 0 + 16) := by decide +kernel

/-- The view of the tests' strand for an opcode, when it may issue. -/
def viewNow (s : State) (op : Nat) (f : X → Bool) : Bool :=
  match viewOf (s.envOf 0) s.core 0 0 op with
  | some x => x.ready && f x
  | none => false

/-- The fault of a check that has nothing done to keep. -/
def faultOf {α : Type} (r : Res α) : Nat :=
  match r with
  | .error (.fault f none) => f.code
  | _ => 0

/-- A pc outside the code region, a wrong class, and DLD of an address that is not aligned. -/
theorem wit_FaultsHoldTheContext :
    (viewNow (mc [] [] [] fun cx => { cx with strands := cx.strands.map fun r => (r.1, { r.2 with pc := 4096 }) }) 0x01
        (fun x => faultOf (fetchCheck x) == 0x0202) &&
      viewNow (m0 [] [] []) 0x01 (fun x => (match fetchCheck x with | .ok _ => true | .error _ => false) &&
        faultOf (encCheck 0x01 (insOf (ins 1 1 2 3 0 0 0))) == 0x0406) &&
      viewNow (m0 [(3, 0x3020)] [] []) 0x40 (fun x => match fetchCheck x, encCheck 0x40 (insOf (ins 1 15 3 0 0 0 0)) with
        | .ok y, .ok _ => faultOf (checkOf 0x40 y (insOf (ins 1 15 3 0 0 0 0))) == 0x0405
        | _, _ => false)) = true := by decide +kernel

/-- The small machine with NANTRAP set and both infinities in its vectors. -/
def mTrap : State :=
  mc [] [] [] fun cx =>
    { cx with
      num := { cx.num with nantrap := true }
      strands := cx.strands.map fun r => (r.1, { r.2 with v := (r.2.v.set 2 (Vector.replicate 64 0x7F800000)).set 3 (Vector.replicate 64 0xFF800000) }) }

/-- ∞ + −∞ under the NaN trap, and a product 0 × ∞ inside a GEMM, which stops at a point of its progress. -/
theorem wit_NanTrapHoldsTheContext :
    runs (mc [(4, 0x2000)] mats (macroMem 1 [] ++ [(0x3100, [0, 0, 0x80, 0x7F]), (0x3200, [0, 0, 0, 0])])
        fun cx => { cx with num := { cx.num with nantrap := true } }) (ins 3 0 1 2 4 0 0) 0x60
      (fun y => match opFn 0x60 (ins 3 0 1 2 4 0 0) y with
        | .error (.trap _ _) => true
        | _ => false) = true ∧
    runs mTrap (ins 0 1 2 3 0 0 0) 0x20 (fun y => match opFn 0x20 (ins 0 1 2 3 0 0 0) y with
      | .ok z => y.trapOn && z.nan.isSome
      | .error _ => false) = true ∧ ∃ s', exec (.valu t0 (ins 0 1 2 3 0 0 0)) mTrap = .next s' := ⟨by decide +kernel, by decide +kernel, _, rfl⟩

/-- A faulted context. -/
theorem wit_HeldContextsDoNotIssue :
    ∀ cx, lookup (mc [] [] [] fun cx => { cx with faulted := true }).core.ctxs t0.ctx.val = some cx → cx.live = false := by
  intro cx h
  cases h
  rfl

/-- A completed SALU, and another strand beside it. -/
theorem wit_CompletedStateHoldsTheView :
    runs (m0 [] [] []) (ins 0 1 2 3 0 0 0) 0x01 (fun y => !y.cx.faulted && !y.ended && y.k == 0 && y.i == 0) = true := by decide +kernel

/-- Memory without an error, and an instruction that answers a next state; the forms of the frames execute as above. -/
theorem wit_ScalarInstructionsFrame :
    (m0 [(2, 5)] [] []).fewErrors ∧ runs (m0 [(2, 5)] [] []) (ins 0 1 2 3 0 0 0) 0x01 (fun _ => true) = true ∧
    ∃ s', exec (.salu t0 (ins 0 1 2 3 0 0 0)) (m0 [(2, 5)] [] []) = .next s' :=
  ⟨fun _ hp => absurd hp List.not_mem_nil, by decide +kernel, _, rfl⟩

/-- A word with three wrong symbols is among the errors that the frames allow. -/
theorem wit_VectorInstructionsFrame :
    ({ m0 [] [] [] with core := { (m0 [] [] []).core with ecc := { errs := [(0x100, [(0, 1), (1, 1), (67, 255)])] } } } : State).fewErrors ∧
    runs { m0 [] [] [] with core := { (m0 [] [] []).core with ecc := { errs := [(0x100, [(0, 1), (1, 1), (67, 255)])] } } }
      (ins 0 1 2 3 0 0 0) 0x20 (fun _ => true) = true :=
  ⟨by intro p hp; simp only [List.mem_singleton] at hp; subst hp; decide, by decide +kernel⟩

/-- StrandsTouchNoOtherUnit: an instruction of a strand answers a next state. -/
theorem wit_StrandsTouchNoOtherUnit :
    insParts (.gemm t0 0) = some (t0, 0x60, 0) ∧ ∃ s', exec (.gemm t0 0) (m0 [] [] []) = .next s' := ⟨rfl, _, rfl⟩

/-- Stores of each of the three forms, of this module's memory, without errors. -/
theorem wit_StoresChangeOnlyTheirBytes :
    runs (m0 [(3, 0x3000)] [] []) (ins 1 0 3 4 0 3 8) 0x08 (fun y => y.here (y.s 3 + 8) &&
      (match y.store (y.s 3 + 8) (leBytes (sstSize 3) (y.s 4)) 2 with | .ok _ => true | .error _ => false)) = true ∧
    runs (m0 [(3, 0x3000)] [] []) (ins 1 0 3 4 0 0 0) 0x41 (fun y => y.here (y.s 3) && dAddr y (insOf (ins 1 0 3 4 0 0 0)) == 0x3000 &&
      (match y.store 0x3000 (leBytes 64 (y.d 4)) 2 with | .ok _ => true | .error _ => false)) = true ∧
    runs mFlag (ins 0 0 2 3 0 1 0) 0xA0 (fun y => y.here (y.s 2) && (match y.flagChk (y.s 2) true with | .ok _ => true | .error _ => false) &&
      (match y.store (y.s 2) (leBytes 8 (y.s 3)) 2 with | .ok _ => true | .error _ => false)) = true ∧
    (m0 [(3, 0x3000)] [] []).noErrors ∧ ∃ s', exec (.sst t0 (ins 1 0 3 4 0 3 8)) (m0 [(3, 0x3000)] [] []) = .next s' :=
  ⟨by decide +kernel, by decide +kernel, by decide +kernel, ⟨rfl, rfl, rfl⟩, _, rfl⟩

/-- The loads of the frame: each executes. -/
theorem wit_LoadsFrame :
    [(0x07, ins 1 1 3 0 0 0 0), (0x30, ins 0 1 0 2 2 0 0), (0x32, ins 0 1 7 2 0 0 0), (0x40, ins 1 15 3 0 0 0 0), (0x42, ins 0 2 3 0 0 7 0),
      (0xA5, ins 0 0 0 0 0 0 0), (0xC2, ins 0 1 4 0 0 0 0)].all
      (fun p => completes (m0 [(3, 0x3000), (4, blockOff 0x0B + 0x20400)] mats []) p.2 p.1) = true := by decide +kernel

/-- Registers: the own alias, another slot's narrowing counters, a table slot; and a write of the own NUMCTL. -/
theorem wit_StrandRegisterAccessCompletes :
    (let s := m0 [(3, 1), (4, blockOff 0x0B + 0x20400), (5, blockOff 0x02 + 0x10000 + 8), (6, blockOff 0x03 + 0x178)] [] []
     let u : State := { s with core := s.core.setTslot 15 { owner := 0 } }
     runs u (ins 0 1 4 0 0 0 0) 0xC2 (fun y => match y.strandReg (y.s 4) with | some (.own _) => true | _ => false) &&
     runs u (ins 0 1 5 0 0 0 0) 0xC2 (fun y => match y.strandReg (y.s 5) with | some (.slot 1 _) => true | _ => false) &&
     runs u (ins 0 1 6 0 0 0 0) 0xC2 (fun y => match y.strandReg (y.s 6) with | some (.table 15) => true | _ => false) &&
     runs u (ins 0 0 4 3 0 0 0) 0xC3 (fun y => match y.strandReg (y.s 4) with
       | some (.own g) => (y.num.write g (y.s 3)).isSome
       | _ => false)) = true := by decide +kernel

/-- The small machine with strand 0 waiting. -/
def mHeld (w : Wait) (op : Nat) (b : Body) : State :=
  mc [(2, 0xFFFF000000000000 + pantryBase)] [] [(pantryBase, [5])] fun cx =>
    { cx with strands := cx.strands.map fun r => (r.1, { r.2 with held := some { wait := w, op := op, body := b, trapOn := false } }) }

/-- Strand 0 in each of the waits. -/
theorem wit_WaitEndsTakeTheInstructionUp :
    [Wait.panels 0x100 1, .splitK 0 1, .arrive 0 1, .flag 0 0 0, .walk (0xFFFF000000005000 : W64).toNat, .memb, .tgen 15].all
      (fun w => (mHeld w 0 0).core.waitOf t0.ctx.val t0.idx.val == some w) = true := by decide +kernel

/-- An FWAIT that is held and whose flag is now at least its operand. -/
theorem wit_ResumedInstructionsComplete :
    (let s := mHeld (.flag 0 0 0) 0xA3 (ins 0 0 2 0 0 8 0)
     match lookup s.core.ctxs 0 with
     | some cx => match lookup cx.strands 0 with
       | some r => match r.held with
         | some h => cx.live && r.me.isSome && !h.trapOn && (match opFn h.op h.body {
             c := s.core, env := s.envOf 0, k := 0, i := 0, cx := cx, r := { r with held := none }
             tm := (lookup cx.tiles 0).getD {}, num := cx.num, op := h.op, trapOn := h.trapOn } with | .ok _ => true | .error _ => false)
         | none => false
       | none => false
     | none => false) = true := by decide +kernel

/-- The small machine waiting at barrier 0 of the launch, with its own arrival. -/
def mBar : State :=
  mc [] [] [] fun cx =>
    { cx with
      strands := cx.strands.map fun r => (r.1, { r.2 with held := some { wait := .barrier 2 0, op := 0xA4, body := 0, trapOn := false } })
      bars := [{ launch := 0, scope := 2, group := 0, num := 0, arrived := [0], fin := none },
        { launch := 0, scope := 2, group := 0, num := 1, arrived := [], fin := none }] }

/-- A barrier that is full and one that is not; a collective in flight whose other member reports; a NaN trap taken. -/
theorem wit_BarrierAndCollectiveEndsComplete :
    mBar.core.waitOf 0 0 = some (.barrier 2 0) ∧
    (match lookup mBar.core.ctxs 0, mBar.core.strand 0 0 with
      | some cx, some r => match cx.bars with
        | [q, u] => q.names r 2 0 && q.arrived.contains r.rank && cx.full q && !cx.full u
        | _ => false
      | _, _ => false) = true ∧
    (match lookup (mColl [{ op0 0x88 [] [] [] with fin := none, peers := [] }]).core.ctxs 0 with
      | some cx => cx.live && othersOnce cx.coll.members.length ((cx.coll.members.findIdx? (· == (0, 0))).getD 0) [{ rank := 1, params := [], rows := [], ids := [] }] &&
        cx.coll.ops.any (fun q => q.strand == 0 && q.fin.isNone)
      | none => false) = true ∧
    ((lookup (mc [] [] [] fun cx => { cx with trap := some { strand := 0, rank := 0, me := some 0, pc := 0, cc := 0, info := { cause := 1 }, da := 0, db := 0, dd := 0 } }).core.ctxs
      0).map fun cx => cx.trap.isSome) = some true := by decide +kernel

/-- A machine whose strand's d0 and d1 name a pressed pair with a metadata entry, and decode requests. -/
def mDec (m : List Byte) (q : List DecodeReq) : State :=
  let s := m0 [] [(0, desc2 0x4000 1 2 1 8 + 2 ^ 90), (1, 0x3000 * 2 ^ 64 + 2 ^ 128 + 2 ^ 192 + 2 ^ 199)] [(0x3000, m)]
  { s with core := { s.core.setTslot 0 { owner := 0, cur := some { num := 1, sealed := true } } with decodes := q } }

/-- What DECODE_REQUEST_ACCEPT and BLOCK_DELIVERED ask of a view of strand 0 and block 0 of d0. -/
def decodeView (s : State) (f : X → Td → Comp → Bool) : Bool :=
  match viewOf (s.envOf 0) s.core 0 0 0x44 with
  | some x => x.cx.live && x.r.me.isSome && (match x.dreg 0 { comp := true } with
    | .ok td => (match td.comp with | some p => f x td p | none => false)
    | .error _ => false)
  | none => false

/-- Samplers in each state, a zero block and a coded block requested, and one delivered. -/
theorem wit_SamplerAndDecodeEventsComplete :
    (samplerFault {}).state = 3 ∧ ((State.reset.core.samplers.toList.getD 0 {}).state = 1) ∧
    (let r : Sampler := { state := 0 }; (({ State.reset.core with samplers := Vector.replicate 8 r } : Core).samplers.toList.getD 7 {}).state = 0) ∧
    decodeView (mDec [] []) (fun x _ p => match decodeCheck x p 0 with
      | .ok (m, none, _) => decide (fld m 2 1 = 0 ∧ 0 < p.nblk) && x.c.busySieves (x.c.dieOf 0 0) == 0
      | _ => false) = true ∧
    decodeView (mDec (layout 16 [(0, 2, 1), (2, 1, 3), (4, 1, 1)]) []) (fun x _ p => match decodeCheck x p 0 with
      | .ok (m, some g, _) => fld m 2 1 == 3 && g.num == 1
      | _ => false) = true ∧
    decodeView (mDec [] []) (fun x _ p =>
      let q : DecodeReq := { num := 0, ctx := 0, strand := 0, pair := p, index := 0, entry := some (List.replicate 16 0) }
      (q.view x.env x.c).any fun v => v.cx.live && (match decodeBody v p 0 (List.replicate 16 0) none with | .ok _ => true | .error _ => false))
        = true := by decide +kernel

/-! ### Witnesses: Nymhel -/

/-- The small machine with packets for it, a flag of value 5, and link 0 in service to module 1. -/
def mNet (mine parked : List Packet) : State :=
  { mRput 0 with
    core := core0 (ctx0 (strand0 [] [])) [(pantryBase, [5])]
    nym := { (mRput 0).nym with mine := mine, parked := parked } }

/-- A packet of module 1 for partition 0. -/
def pkt (opc tag addr arg : Nat) (data : List Byte) : Packet :=
  { dest := 0, src := 1, epoch := 1, opc := opc, spart := 0, tag := tag, addr := addr, arg := arg, data := data }

/-- Requests: a write at the end of a region, one that is refused, a read, FSET, FADD, an FWAIT that does not hold; responses of each
kind for strand 0; and a parked FWAIT that holds. -/
theorem wit_RemoteAccessesAreServed :
    (let s := mNet [pkt 3 7 0x3000 0 []] []
     (s.core.strand 0 0).any fun r =>
       let q : Req := { tag := 7, dest := 1, who := .strand 0 0 r.launch r.rank, left := 0, wait := none }
       ({ s with core := { s.core with reqs := [q] } } : State).core.reqs.find? (fun q => q.tag == 7 && q.dest == 1) == some q) = true ∧
    (let ok := fun (p : Packet) (n : Nat) (wr : Bool) => (takePacket Packet.request [p]).isSome && (mNet [] []).remoteCheck p n wr == 0
     ok (pkt 2 0 0x3FFFFFFE 0 [1, 2]) 2 true && (mNet [] []).remoteCheck (pkt 2 0 0x40000000 0 [1]) 1 true == 0x0202 &&
     ok (pkt 1 0 0x3000 0 (leBytes 4 4096)) 4096 false && ok (pkt 5 0 pantryBase 9 (leBytes 8 6)) 8 true && flagAddr pantryBase &&
     ok (pkt 5 0 pantryBase 1 (leBytes 8 4)) 8 true && ok (pkt 5 0 pantryBase 6 (leBytes 8 0)) 8 false &&
     !flagCmp 0 (ofLE ((mNet [] []).core.mem.read pantryBase 8)) 6 && flagCmp 0 (ofLE ((mNet [] []).core.mem.read pantryBase 8)) 5 &&
     [3, 4, 6].all (fun o => (takePacket (fun q => !q.request) [pkt o 0 0x3000 5 [1]]).isSome) && ((mNet [] []).core.strand 0 0).isSome &&
     decide (mNet [] []).noErrors) = true := by decide +kernel

/-- An intact flit of channel 0 that begins a packet, with the number expected first. -/
def flit0 : List Byte := flitBytes 0 1 1 0 0xFF 0 (List.replicate 240 0)

/-- A step of the CRC keeps 32 bits. -/
theorem crcStep_lt (p c : Nat) (b : Byte) (hp : p < 2 ^ 32) (hc : c < 2 ^ 32) : crcStep p c b < 2 ^ 32 := by
  have go : ∀ (l : List Nat) (x : Nat), x < 2 ^ 32 → l.foldl (fun c _ => if c % 2 == 1 then (c / 2) ^^^ p else c / 2) x < 2 ^ 32 := by
    intro l
    induction l with
    | nil => intro x hx; exact hx
    | cons a t ih =>
      intro x hx
      rw [List.foldl_cons]
      refine ih _ ?_
      split
      · exact Nat.xor_lt_two_pow (by omega) hp
      · omega
  exact go _ _ (Nat.xor_lt_two_pow hc (by have := b.isLt; omega))

/-- The CRC has 32 bits. -/
theorem crc32_lt (l : List Byte) : crc32 l < 2 ^ 32 := by
  have go : ∀ (l : List Byte) (x : Nat), x < 2 ^ 32 → l.foldl (crcStep 0xEDB88320) x < 2 ^ 32 := by
    intro l
    induction l with
    | nil => intro x hx; exact hx
    | cons a t ih => intro x hx; exact ih _ (crcStep_lt _ _ _ (by decide) hx)
  exact Nat.xor_lt_two_pow (go l _ (by decide)) (by decide)

/-- A flit whose last word is the CRC of the others is intact (R270). -/
theorem crc_tail (b : List Byte) (h : b.length = 252) :
    crc32 (slice (b ++ leBytes 4 (crc32 b)) 0 252) = fld (b ++ leBytes 4 (crc32 b)) 252 4 := by
  have h1 : slice (b ++ leBytes 4 (crc32 b)) 0 252 = b := by simp [slice, ← h]
  have h2 : slice (b ++ leBytes 4 (crc32 b)) 252 4 = leBytes 4 (crc32 b) := by simp [slice, ← h, leBytes]
  rw [h1, fld, h2]
  have := crc32_lt b
  simp [ofLE, leBytes]
  omega

/-- The flit below is intact. -/
theorem test_flit_crc : crc32 (slice flit0 0 252) = fld flit0 252 4 := crc_tail _ (by decide +kernel)

/-- Links that train, take flits and retry; a flit in order, of a legal channel and kind; a flit that waits for a credit. -/
theorem wit_LinkEventsComplete :
    ((mNet [] []).nym.link 0).state = 2 ∧
    (({ (mNet [] []).nym with links := Vector.replicate 24 { state := 1 } } : Nym).link 23).state = 1 ∧
    flit0.length = 256 ∧ fld flit0 0 1 = 0 ∧ fld flit0 1 1 = 1 ∧ fld flit0 2 2 = ((mNet [] []).nym.link 0).rxSeq + 1 ∧
    16 ≤ ({ state := 2, tries := 16 } : Link).tries ∧
    (({ state := 2, credits := [0, 0, 0, 0, 1], waiting := [{ vc := 2, kind := 1, body := [], origin := none }] } : Link).waiting.findIdx?
      (fun w => w.vc < 3 && [0, 0, 0, 0, 1].getD w.vc 0 == 0)).isSome = true := by decide +kernel

/-- The bytes of a packet's head (Table 13.3). -/
def head (dest opc epoch : Nat) : List Byte := layout 32 [(0, 2, dest), (2, 2, 1), (4, 2, epoch), (6, 1, opc)]

/-- A packet of no opcode, one for this module under the active epoch, one of an unknown epoch; a check that passes, one that fails, and
one whose vector is missing. -/
theorem wit_PacketsAndRoutingChecksComplete :
    (let n : Nym := { (mNet [] []).nym with active := some { epoch := 1, entries := [(0, 24, 0), (1, 0, 1)] } }
     let s : State := { mNet [] [] with nym := n }
     let b : Bank := { epoch := 2, entries := [(1, 0, 1)] }
     let v : TableVec := { epoch := 2, dirs := List.replicate 24 2, entries := [(1, 24, 0)] }
     !packetOpc (packetOf (head 0 0xFF 1)).opc && !(packetOf (head 0 0xFF 1)).request && (packetOf (head 0 2 1)).request &&
     fld ((head 0 2 1).set 14 1) 0xE 2 == 1 &&
     packetOpc (packetOf (head 0 3 1)).opc && (s.wayByBank (packetOf (head 0 3 1))).isSome && (s.wayByBank (packetOf (head 0 3 9))).isNone &&
     (n.bankOf 1).isSome &&
     ({ n with vectors := [(0, v)] } : Nym).entryOk 2 (1, 0, 1) && b.linksOf == [0] &&
     !({ n with vectors := [(0, v)] } : Nym).entryOk 2 (1, 0, 2) && (n.vectorOf 0 2).isNone &&
     (b.entries.find? (fun e => e.2.1 == 0)).isSome && (s.nym.link 0).state == 2) = true := by decide +kernel

/-- A context with a collective in flight, and a strand with stores not acknowledged. -/
theorem wit_MemberEventsComplete :
    (let q : CollOp := { op0 0x88 [] [] [] with fin := none, peers := [] }
     (match lookup (mColl [q]).core.ctxs 0 with
      | some cx => cx.inFlight && decide (1 < cx.coll.members.length)
      | none => false) &&
     (let r := { strand0 [] [] with acks := 1, ackTo := 1 }
      !r.stalled && (mNet [] []).transferOf r == some 1)) = true := by decide +kernel

/-! ### Witnesses: commands of hosts -/

/-- The small machine powered and at stage 5, with contexts and packs of its own choice. -/
def up (s : State) : State :=
  { s with
    board := { s.board with pwrEn := true, on := true, rails := true, pgood := true, settled := true, resetN := true, corePower := true, hbmPower := true }
    sec := { s.sec with stage := 5, journalled := true, idok := true }
    flash := { s.flash with dirA := dirBytes 1 0 0xFF }
    dmp := { s.dmp with dies := Vector.replicate 8 { powered := true, thceil := 15 } } }

/-- The small machine at stage 5 with an idle context 0, and bytes of memory. -/
def m5 (m : List (Nat × List Byte)) (f : Context → Context) : State := up (mc [] [] m fun cx => f { cx with strands := [], launches := [] })

/-- A command of the operator by the sideband, with its opcode and ARGS. -/
def hc (opc : Nat) (parts : List (Nat × Nat × Nat)) : HostCmd :=
  { path := .mctp false 0x20, opc := opc, flags := 0, id := 1, ctx := 0xFFFF, args := layout 48 parts, frec := 0 }

/-- A machine in which that command has been read and waits to be carried out. -/
def begun (s : State) (h : HostCmd) : State := { s with started := [h] }

/-- Whether bytes of memory are fetched for a command, and a property of them. -/
def fetched (s : State) (p a n : Nat) (f : State → List Byte → Bool) : Bool :=
  match s.fetch p a n with
  | (s1, .ok b) => f s1 b
  | _ => false

/-- What `fetched` says. -/
theorem fetched_some {s : State} {p a n : Nat} {f : State → List Byte → Bool} (h : fetched s p a n f = true) :
    ∃ s1 b, s.fetch p a n = (s1, .ok b) ∧ f s1 b = true := by
  unfold fetched at h
  split at h
  · rename_i s1 b hb
    exact ⟨s1, b, hb, h⟩
  · cases h

/-- The same where the model region is not meant. -/
def ownFetched (s : State) (p a n : Nat) (f : State → List Byte → Bool) : Bool :=
  match s.fetch p a n true with
  | (s1, .ok b) => f s1 b
  | _ => false

/-- A NOP, a read of CAP_VERSION, accepted and refused writes of DMP_CAP, a partition mode, a ration in order and one that breaks R325. -/
theorem wit_HostRegisterCommandsComplete :
    let s := m5 [(0x40004000, layout 128 [(0, 4, 1)])] id
    (begun s (hc 1 [])).admits (hc 1 []) 0x01 none ∧ (hc 1 []).zero 0 48 = true ∧
    (let h := hc 2 [(0, 8, blockOff 0x10)]
     (begun s h).admits h 0x02 none ∧ h.zero 8 40 = true ∧ h.arg 0 8 < 2 ^ 48 ∧ regAt (h.arg 0 8) = some .capVersion ∧
     ((begun s h).turn h).accessCheck h.path (h.arg 0 8) 8 false = 0) ∧
    (let h := hc 3 [(0, 8, blockOff 0x01), (8, 8, 1000)]
     (begun s h).admits h 0x03 none ∧ h.zero 16 32 = true ∧ h.arg 0 8 < 2 ^ 48 ∧ regAt (h.arg 0 8) = some .cap ∧
     ((begun s h).turn h).accessCheck h.path (h.arg 0 8) 8 true = 0 ∧ ((begun s h).turn h).regCheck .cap (h.arg 8 8) = 0 ∧ ((begun s h).turn h).regCheck .cap 100 ≠ 0) ∧
    (let h := hc 3 [(0, 8, 2 ^ 64 - 2 ^ 48 + blockOff 0x01)]
     let g := hc 2 [(0, 8, 2 ^ 64 - 2 ^ 48 + blockOff 0x01)]
     (begun s h).admits h 0x03 none ∧ h.zero 16 32 = true ∧ (begun s g).admits g 0x02 none ∧ g.arg 0 8 = h.arg 0 8 ∧ h.zero 8 40 = true ∧ 2 ^ 48 ≤ h.arg 0 8) ∧
    (let h := hc 0x22 [(0, 1, 3), (1, 1, 1)]
     (begun s h).admits h 0x22 none ∧ h.arg 0 1 ≤ 7 ∧ h.arg 1 1 ≤ 1 ∧ h.zero 2 46 = true) ∧
    (let h := hc 0x21 [(0, 8, 0x40004000)]
     (begun s h).admits h 0x21 none ∧ h.zero 8 40 = true ∧ fetched ((begun s h).turn h) 0xFF (h.arg 0 8) 128 (fun s1 b => s1.rationFault b != 0) = true) ∧
    (let h := hc 0x21 [(0, 8, 0x40004400)]
     fetched ((begun (m5 [(0x40004400, State.reset.core.ration)] id) h).turn h) 0xFF (h.arg 0 8) 128 (fun s1 b => s1.rationFault b == 0) = true) := by
  decide +kernel

/-! ### An image that is accepted -/

/-- A span inside the first of two lists. -/
theorem slice_left {a b : List Byte} {o n : Nat} (h : o + n ≤ a.length) : slice (a ++ b) o n = slice a o n := by
  have h1 : o - a.length = 0 := by omega
  have h2 : n - (a.length - o) = 0 := by omega
  simp [slice, List.drop_append, List.take_append, h1, h2]

/-- A span inside the second of two lists. -/
theorem slice_right {a b : List Byte} {o n : Nat} (h : a.length ≤ o) : slice (a ++ b) o n = slice b (o - a.length) n := by
  simp [slice, List.drop_append, List.drop_eq_nil_of_le h]

/-- A whole list as a span. -/
theorem slice_all {a : List Byte} {n : Nat} (h : a.length = n) : slice a 0 n = a := by simp [slice, ← h]

/-- The header of the image of an empty context (Table 15.5), up to its CRC. -/
def imgFront : List Byte := layout 68 [(0, 2, 1), (2, 1, 1), (4, 1, 64), (5, 1, 10), (6, 1, 1), (8, 8, 65728)]

/-- The rest of it: a CRC, and zeros. -/
def imgTail (c : Nat) : List Byte := leBytes 4 c ++ List.replicate 56 0

/-- A context body of zeros, but for LOG2N of SCH_FLTRING, which is 4. -/
def zeros : List Byte := (List.replicate 24 0 ++ [4]) ++ List.replicate 65511 0

/-- Its context section. -/
def imgBody : List Byte := sectionHead 1 0 0 0 65536 ++ zeros

/-- The image with CRC `c`. -/
def imgOf (c : Nat) : List Byte := (imgFront ++ imgTail c) ++ imgBody

/-- The image of an empty context. -/
def img0 : List Byte := imgOf (crc32c (imgFront ++ imgBody))

/-- A reflected CRC-32C has 32 bits. -/
theorem crc32c_lt (l : List Byte) : crc32c l < 2 ^ 32 := by
  have go : ∀ (l : List Byte) (x : Nat), x < 2 ^ 32 → l.foldl (crcStep 0x82F63B78) x < 2 ^ 32 := by
    intro l
    induction l with
    | nil => intro x hx; exact hx
    | cons a t ih => intro x hx; exact ih _ (crcStep_lt _ _ _ (by decide) hx)
  exact Nat.xor_lt_two_pow (go l _ (by decide)) (by decide)

/-- Spans of the zeros. -/
theorem slice_zeros {m o n : Nat} (h : o + n ≤ m) : slice (List.replicate m 0) o n = List.replicate n 0 := by
  have : min n (m - o) = n := by omega
  simp [slice, this]

/-- Lengths of the parts. -/
theorem img_lengths (c : Nat) : imgFront.length = 68 ∧ (imgTail c).length = 60 ∧ (imgFront ++ imgTail c).length = 128 ∧
    (sectionHead 1 0 0 0 65536).length = 64 ∧ zeros.length = 65536 ∧ (imgOf c).length = 65728 := by
  have h1 : imgFront.length = 68 := by decide +kernel
  have h2 : (imgTail c).length = 60 := by simp [imgTail, leBytes]
  have h4 : (sectionHead 1 0 0 0 65536).length = 64 := by decide +kernel
  have h5 : zeros.length = 65536 := by rw [zeros, List.length_append, List.length_replicate]; decide
  exact ⟨h1, h2, by simp [h1, h2], h4, h5, by simp [imgOf, imgBody, h1, h2, h4, h5]⟩

/-- The spans of the image. -/
theorem img_spans (c : Nat) : slice (imgOf c) 192 65536 = zeros ∧ slice (imgOf c) 128 64 = sectionHead 1 0 0 0 65536 ∧
    (imgOf c).take 128 = imgFront ++ imgTail c ∧ (imgOf c).take 0x44 ++ (imgOf c).drop 0x80 = imgFront ++ imgBody ∧
    fld (imgOf c) 7 1 = 0 := by
  obtain ⟨h1, h2, h3, h4, h5, -⟩ := img_lengths c
  have hf : ∀ n, (imgFront ++ imgTail c ++ imgBody).take 68 = imgFront → n = 68 → (imgOf c).take n = imgFront := by
    intro n h e
    rw [e]
    exact h
  refine ⟨?_, ?_, ?_, ?_, ?_⟩
  · rw [imgOf, slice_right (by omega), h3, imgBody, slice_right (by omega), h4]
    exact slice_all h5
  · rw [imgOf, slice_right (by omega), h3, imgBody, slice_left (by omega)]
    exact slice_all h4
  · rw [imgOf]
    exact List.take_left' h3
  · rw [imgOf, List.drop_left' h3, List.append_assoc, List.take_left' h1]
  · rw [imgOf, fld, List.append_assoc, slice_left (by omega)]
    decide +kernel

/-- Fields of the zeros. -/
theorem fld_zeros {o n : Nat} (h0 : 25 ≤ o) (h : o + n ≤ 65536) (h2 : n = 1 ∨ n = 2) : fld zeros o n = 0 := by
  have l : (List.replicate 24 (0 : Byte) ++ [4]).length = 25 := by decide
  rw [fld, zeros, slice_right (by rw [l]; exact h0), l, slice_zeros (by omega)]
  rcases h2 with rfl | rfl <;> rfl

/-- The parts of the image: no strand, no pantry. -/
theorem img0_parts : imageParts img0 = some ([], []) := by
  unfold img0
  generalize crc32c (imgFront ++ imgBody) = c
  obtain ⟨e, h1, -, -, h2⟩ := img_spans c
  obtain ⟨-, -, -, -, -, l⟩ := img_lengths c
  have m0 : maskDies 0 = [] := by decide
  simp [imageParts, e, h1, h2, l, fld_zeros, strandSections, m0, pantrySections, strandsAt]

/-- Fields of the header before its CRC. -/
theorem img_front (c o n : Nat) (h : o + n ≤ 68) : slice (imgFront ++ imgTail c) o n = slice imgFront o n :=
  slice_left (by rw [(img_lengths c).1]; exact h)

/-- The image passes every check of R323 in an idle context of no pantry. -/
theorem img0_ok (cx : Context) (p : Pack) (hl : 65728 ≤ cx.imgLen) (hd : p.digest = List.replicate 32 0) (hc : cx.mask = 0 ∧ cx.poff = 0 ∧ cx.plen = 0)
    (tile : Bool) (lad : tile = false) : imageFault cx p tile img0 = 0 := by
  obtain ⟨c, hcrc⟩ : ∃ c, crc32c (imgFront ++ imgBody) = c := ⟨_, rfl⟩
  have hlt : c < 2 ^ 32 := by rw [← hcrc]; exact crc32c_lt _
  have ps : imageParts (imgOf c) = some ([], []) := by rw [← hcrc]; exact img0_parts
  have hi : img0 = imgOf c := by rw [img0, hcrc]
  rw [hi]
  obtain ⟨e, -, hh, hb, -⟩ := img_spans c
  obtain ⟨h1, h2, -⟩ := img_lengths c
  have f : ∀ o n, o + n ≤ 68 → fld (imgFront ++ imgTail c) o n = fld imgFront o n := fun o n h => by rw [fld, img_front c o n h, fld]
  have f44 : fld (imgFront ++ imgTail c) 0x44 4 = c := by
    rw [fld, slice_right (by omega), h1, imgTail, slice_left (by simp [leBytes])]
    simp [ofLE, leBytes, slice]
    omega
  have z48 : zeroAt (imgFront ++ imgTail c) 0x48 56 = true := by
    rw [zeroAt, slice_right (by omega), h1, imgTail, slice_right (by simp [leBytes])]
    simp only [leBytes, List.length_cons, List.length_nil]
    decide
  have z42 : zeroAt (imgFront ++ imgTail c) 0x42 2 = true := by
    rw [zeroAt, img_front _ _ _ (by decide)]
    decide +kernel
  have k : fld imgFront 0 2 = 1 ∧ fld imgFront 8 8 = 65728 ∧ slice imgFront 0x20 32 = List.replicate 32 0 ∧ fld imgFront 6 1 = 1 ∧
    versionFault (fld imgFront 2 1) (fld imgFront 3 1) (fld imgFront 4 1) (fld imgFront 5 1) (fld imgFront 0x10 16) = 0 := by decide +kernel
  have nl : ¬ cx.imgLen < 65728 := by omega
  have bo : bodyOk (imgOf c) [] = true := by
    simp only [bodyOk, e, List.all_nil, Bool.and_true]
    decide +kernel
  simp only [imageFault, bo, e, hh, hb, hcrc, ps, f44, z48, z42, img_front _ _ _ (by decide : 0x20 + 32 ≤ 68), f 0 2 (by decide), f 8 8 (by decide),
    f 6 1 (by decide), f 2 1 (by decide), f 3 1 (by decide), f 4 1 (by decide), f 5 1 (by decide), f 0x10 16 (by decide), k,
    fld_zeros (by decide) (by decide : 0x40 + 1 ≤ 65536) (.inl rfl), fld_zeros (by decide) (by decide : 0x42 + 2 ≤ 65536) (.inr rfl),
    fld_zeros (by decide) (by decide : 0x44 + 2 ≤ 65536) (.inr rfl), hd, hc.1, hc.2.1, hc.2.2, lad, nl]
  simp [bit]

/-- Memory that holds the image gives it to a context whose area has room. -/
theorem img0_read (c : Core) (dev : Nat) (cx : Context) (m : Mem) (hm : c.mem = m.write 0x8000 img0) (he : c.ecc = {})
    (hl : 65728 ≤ cx.imgLen) : c.readImage dev cx 0x8000 = (c, .ok img0) := by
  have len : img0.length = 65728 := (img_lengths _).2.2.2.2.2
  have all : c.mem.read 0x8000 65728 = img0 := by
    rw [hm, ← len]
    exact Mem.read_write m _ _
  have front : c.mem.read 0x8000 128 = img0.take 128 := by
    rw [← all, Mem.read_eq, Mem.read_eq, span, span, List.map_map, List.map_map, ← List.map_take, List.take_range,
      show min 128 65728 = 128 by decide]
  have clean : ∀ n, scanRange c.space c.mem c.ecc 0x8000 n = (c.mem, c.ecc, none) := by
    intro n
    simp [scanRange, errWords, he]
  have hh : img0.take 128 = imgFront ++ imgTail (crc32c (imgFront ++ imgBody)) := (img_spans _).2.2.1
  have k : fld imgFront 0 2 = 1 ∧ fld imgFront 8 8 = 65728 := by decide +kernel
  have f : ∀ o n, o + n ≤ 68 → fld (img0.take 128) o n = fld imgFront o n := fun o n h => by rw [hh, fld, img_front _ o n h, fld]
  have nl : ¬ cx.imgLen < 65728 := by omega
  simp only [Core.readImage, clean, front, f 0 2 (by decide), f 8 8 (by decide), k, nl, all]
  simp

/-! ### Witnesses: packs, contexts, bindings, scheduling -/

/-- What a loader reads in a pack of four NOPs. -/
def facts0 : PackFacts :=
  { major := 1, minor := 0, vlen := 64, grainLog2 := 10, caps := 0, codeOff := 0, codeLen := 64, entries := [(0, 8, [])], tables := []
    descs := [], uses := [] }

/-- A launch that waits. -/
def launch0 : Launch := { num := 0, entry := 0, count := 2, arg := 7, base := none, cmd := none }

/-- Packs loaded, with and without a report, contexts created in an area of 1 GiB, discarded, launched, resumed and saved, whether or not
they are resident. -/
theorem wit_PackAndContextCommandsComplete :
    (let s := m5 [] id
     [hc 0x10 [(8, 4, 64)], hc 0x10 [(8, 4, 64), (16, 8, 0x2000)]].all (fun h =>
       let s0 := (begun s h).turn h
       decide ((begun s h).admits h 0x10 none) && h.zero 13 3 && h.zero 24 24 && h.arg 8 4 != 0 && (s0.partArg h (h.arg 12 1)).toOption == some 0 &&
         freeKey s0.core.packs 256 == some 1 && ownFetched s0 0 (h.arg 0 8) (h.arg 8 4) (fun s1 bs =>
           let l : Loading := { view := s1.loadView 0 (bit s1.core.pmode 0) facts0.acmMax, addr := h.arg 0 8, img := bs, facts := facts0 }
           versionFault facts0.major facts0.minor facts0.vlen facts0.grainLog2 facts0.caps == 0 && facts0.placed (h.arg 0 8) (h.arg 8 4) &&
             packFault l == none && (h.arg 16 8 == 0 || s1.local? (h.arg 16 8) == some 0x2000 &&
               s1.core.access 0 [] 0x2000 (loadReport l).length true == 0 && !s1.core.storeRefused 0x2000 (loadReport l).length))) = true) ∧
    (let s := m5 [] id
     let h := hc 0x11 [(8, 8, 0), (16, 8, 0x20000000)]
     let s0 := (begun s h).turn h
     (begun s h).admits h 0x11 none ∧ lookup s0.core.packs (h.arg 0 1) = some pack0 ∧ s0.local? (h.arg 8 8) = some 0 ∧
     s0.core.pathPart h.path = none ∧ h.arg 1 1 ≤ 7 ∧ h.zero 3 1 = true ∧ h.zero 24 24 = true ∧ h.arg 4 2 ≤ 1023 ∧
     h.arg 4 2 + h.arg 6 2 ≤ 1024 ∧ freeKey s0.core.ctxs 1024 = some 1 ∧ s0.core.quota pack0.part ≠ 0 ∧
     s0.core.access pack0.part [] 0 (h.arg 16 8) true = 0 ∧
     imageSize pack0.acmMax (maskDies (h.arg 2 1)).length (h.arg 6 2) ≤ h.arg 16 8) ∧
    (let s := m5 [] id
     let h := hc 0x13 [(4, 1, 2)]
     let g := hc 0x12 []
     let s0 := (begun s h).turn h
     (begun s g).admits g 0x12 (some g.ctxArg) ∧ g.zero 2 46 = true ∧ (lookup ((begun s g).turn g).core.ctxs g.ctxArg).isSome = true ∧
     (begun s h).admits h 0x13 (some h.ctxArg) ∧ h.zero 5 3 = true ∧ h.zero 16 32 = true ∧ 0 < h.arg 4 1 ∧ h.arg 4 1 ≤ 128 ∧
     ((lookup s0.core.ctxs h.ctxArg).any fun cx => cx.state != .faulted &&
       ((lookup s0.core.packs cx.pack).bind fun p => p.entries[h.arg 2 2]?).isSome) = true) ∧
    (let s := m5 [] fun cx => { cx with launches := [launch0] }
     ((lookup s.core.ctxs 0).any fun cx => cx.live && cx.launches.find? (fun l => l.base.isNone) == some launch0 && cx.freeBase 2 == some 0 &&
       (lookup s.core.packs cx.pack).any (fun p => p.entries[0]?.isSome) &&
       !cx.launches.any (fun o => o.base.isSome && (pack0.entries[o.entry]?).any fun oe => (pack0.entries[0]?).any fun e => e.conflicts oe)) = true) ∧
    (let h := hc 0x14 []
     let g := hc 0x15 []
     let at' := fun (h : HostCmd) (f : Context → Context) (ok : Core → Context → Bool) =>
       decide ((begun (m5 [] f) h).admits h h.opc (some h.ctxArg)) && h.zero 2 46 &&
         (lookup ((begun (m5 [] f) h).turn h).core.ctxs h.ctxArg).any (ok ((begun (m5 [] f) h).turn h).core)
     at' h (fun cx => { cx with faulted := true }) (fun _ cx => cx.state == .faulted && cx.slot.isSome) = true ∧
     at' h (fun cx => { cx with faulted := true, slot := none, savedLen := 4096 }) (fun _ cx => cx.state == .faulted && cx.slot == none) = true ∧
     at' g id (fun _ cx => cx.slot.isSome) = true ∧
     at' g (fun cx => { cx with slot := none, savedLen := 4096 }) (fun _ cx => cx.slot == none && cx.savedLen != 0) = true ∧
     at' g (fun cx => { cx with slot := none }) (fun c cx => cx.slot == none && cx.savedLen == 0 && (lookup c.packs cx.pack).isSome) = true) := by
  refine ⟨?_, ?_, ?_, ?_, ?_⟩ <;> decide +kernel

/-- A context that its image fits. -/
def ctxR (f : Context → Context) : Context :=
  f { ctx0 (strand0 [] []) with strands := [], launches := [], mask := 0, plen := 0, imgLen := 0x20000000, slot := none }

/-- The small machine at stage 5 with that context, a pack of digest 0, and a memory. -/
def mSaved (f : Context → Context) (m : Mem) : State :=
  let s := up (m0 [] [] [])
  { s with core := { s.core with ctxs := [(0, ctxR f)], packs := [(0, { pack0 with digest := List.replicate 32 0 })], mem := m } }

/-- The command that restores from there. -/
def hRestore : HostCmd := hc 0x16 [(8, 8, 0x8000)]

/-- A restore whose image stands in memory meets the hypotheses of its statement. -/
theorem wit_RestoreContext :
    let s := mSaved id (Mem.write {} 0x8000 img0)
    let s0 := (begun s hRestore).turn hRestore
    let p := { pack0 with digest := List.replicate 32 0 }
    (begun s hRestore).admits hRestore 0x16 (some hRestore.ctxArg) ∧ hRestore.zero 2 6 = true ∧ hRestore.zero 16 32 = true ∧
    lookup s0.core.ctxs hRestore.ctxArg = some (ctxR id) ∧ (ctxR id).slot = none ∧ (ctxR id).state = .idle ∧
    s0.local? (hRestore.arg 8 8) = some 0x8000 ∧ lookup s0.core.packs (ctxR id).pack = some p ∧ s0.core.access (ctxR id).part [] 0x8000 128 false = 0 ∧
    s0.core.readImage s0.nym.devnum (ctxR id) 0x8000 = (s0.core, .ok img0) ∧ s0.core.access (ctxR id).part [] 0x8000 img0.length false = 0 ∧
    imageFault (ctxR id) p (!bit s0.core.pmode (ctxR id).part) img0 = 0 ∧ imageParts img0 = some ([], []) := by
  have len : img0.length = 65728 := (img_lengths _).2.2.2.2.2
  have key : ∀ m, (begun (mSaved id m) hRestore).admits hRestore 0x16 (some hRestore.ctxArg) ∧
      lookup ((begun (mSaved id m) hRestore).turn hRestore).core.ctxs hRestore.ctxArg = some (ctxR id) ∧ (ctxR id).state = .idle ∧
      ((begun (mSaved id m) hRestore).turn hRestore).local? (hRestore.arg 8 8) = some 0x8000 ∧
      lookup ((begun (mSaved id m) hRestore).turn hRestore).core.packs (ctxR id).pack = some { pack0 with digest := List.replicate 32 0 } ∧
      ((begun (mSaved id m) hRestore).turn hRestore).core.access (ctxR id).part [] 0x8000 128 false = 0 ∧
      ((begun (mSaved id m) hRestore).turn hRestore).core.access (ctxR id).part [] 0x8000 65728 false = 0 ∧
      bit ((begun (mSaved id m) hRestore).turn hRestore).core.pmode (ctxR id).part = true := by
    intro m
    have k : (begun (mSaved id {}) hRestore).admits hRestore 0x16 (some hRestore.ctxArg) ∧
      lookup ((begun (mSaved id {}) hRestore).turn hRestore).core.ctxs hRestore.ctxArg = some (ctxR id) ∧ (ctxR id).state = .idle ∧
      ((begun (mSaved id {}) hRestore).turn hRestore).local? (hRestore.arg 8 8) = some 0x8000 ∧
      lookup ((begun (mSaved id {}) hRestore).turn hRestore).core.packs (ctxR id).pack = some { pack0 with digest := List.replicate 32 0 } ∧
      ((begun (mSaved id {}) hRestore).turn hRestore).core.access (ctxR id).part [] 0x8000 128 false = 0 ∧
      ((begun (mSaved id {}) hRestore).turn hRestore).core.access (ctxR id).part [] 0x8000 65728 false = 0 ∧
      bit ((begun (mSaved id {}) hRestore).turn hRestore).core.pmode (ctxR id).part = true := by
          decide +kernel
    exact k
  obtain ⟨k1, k2, k3, k4, k5, k6, k7, k8⟩ := key (Mem.write {} 0x8000 img0)
  refine ⟨k1, by decide +kernel, by decide +kernel, k2, rfl, k3, k4, k5, k6, ?_, ?_, ?_, img0_parts⟩
  · exact img0_read _ _ _ {} rfl rfl (by decide)
  · rw [len]
    exact k7
  · rw [k8]
    exact img0_ok _ _ (by decide) rfl ⟨rfl, rfl, rfl⟩ _ rfl

/-- A binding list of one link that changes hands, and one that takes a region a context uses. -/
theorem wit_BindingCommandsComplete :
    (let s := m5 [(0x40004000, leBytes 8 (4 + 2 ^ 24)), (0x40004040, leBytes 8 (2 + 2 ^ 24 + 2 ^ 40))] id
     let h := hc 0x20 [(0, 8, 0x40004000), (8, 4, 1)]
     let g := hc 0x20 [(0, 8, 0x40004040), (8, 4, 1)]
     (begun s h).admits h 0x20 none ∧ h.zero 12 36 = true ∧ h.arg 0 8 % 8 = 0 ∧ 0 < h.arg 8 4 ∧ h.arg 8 4 ≤ 512 ∧ s.rebinds = [] ∧
     fetched ((begun s h).turn h) 0xFF (h.arg 0 8) (8 * h.arg 8 4) (fun s1 bs => (listUnits (wordsOf 8 (h.arg 8 4) bs)).any fun us => s1.bindFault us == 0)
       = true ∧
     fetched ((begun s g).turn g) 0xFF (g.arg 0 8) (8 * g.arg 8 4) (fun s1 bs => (listUnits (wordsOf 8 (g.arg 8 4) bs)).any fun us => s1.bindFault us != 0)
       = true) ∧
    (let r : Rebind := { cmd := (hc 0x20 []).ref, units := [(4, 0, 0)], linkWait := false, args := [] }
     let s := { m5 [] id with rebinds := [r] }
     s.rebinds.find? (fun r => (!r.linkWait || (s.onRebound r).isEmpty) && s.drained r) = some r ∧ s.core.owner 4 0 ≠ 0) ∧
    (let r : Rebind := { cmd := (hc 0x20 []).ref, units := [(4, 0, 0)], linkWait := true, args := [] }
     ({ m5 [] id with rebinds := [r] } : State).rebinds.find? (fun r => r.linkWait) = some r) := by
  decide +kernel

/-- A context that runs, one being stopped, one being saved, and one being restored whose image is accepted. -/
theorem wit_SchedulingEventsComplete :
    ((m5 [] id).dmp.pwrbrk = false ∧ ((lookup (m5 [] id).core.ctxs 0).any fun cx => cx.live) = true ∧
     [Moving.stopping, .saving].all (fun v =>
       (lookup (m5 [] fun cx => { cx with moving := v }).core.ctxs 0).any fun cx => cx.trap.isNone && cx.moving == v &&
         (lookup (m5 [] id).core.packs cx.pack).isSome) = true) ∧
    (let s := mSaved (fun cx => { cx with imgAddr := 0x8000, moving := .restoring, slot := some 0 }) (Mem.write {} 0x8000 img0)
     let cx := ctxR fun cx => { cx with imgAddr := 0x8000, moving := .restoring, slot := some 0 }
     lookup s.core.ctxs 0 = some cx ∧ cx.moving = .restoring ∧
     lookup s.core.packs cx.pack = some { pack0 with digest := List.replicate 32 0 } ∧
     s.core.readImage s.nym.devnum cx cx.imgAddr = (s.core, .ok img0) ∧
     imageFault cx { pack0 with digest := List.replicate 32 0 } (!bit s.core.pmode cx.part) img0 = 0) :=
  ⟨by decide +kernel, rfl, rfl, rfl, img0_read _ _ _ {} rfl rfl (by decide), img0_ok _ _ (by decide) rfl ⟨rfl, rfl, rfl⟩ _ rfl⟩

/-- An HEVC stream of 256 × 256 pixels: `v` 0 decodes, 1 encodes. -/
def block0 (v : Nat) : List Byte :=
  layout 128 [(0, 2, 1), (2, 1, v), (4, 1, 1), (5, 1, 90), (7, 1, 8), (8, 2, 256), (0xA, 2, 256), (0xC, 1, 1), (0x10, 8, 0x10000), (0x22, 1, 20),
    (0x28, 2, 30), (0x2A, 2, 1), (0xD, 1, if v = 0 then 2 else 0)]

/-- A frame record of 256 × 256 samples of 8 bits, 4:2:0, with a PROG flag or none (Table 17.2). -/
def frame0 (prog : Nat) : List Byte :=
  layout 256 [(0, 2, 1), (2, 1, 8), (3, 1, 1), (4, 2, 256), (6, 2, 256), (8, 8, prog), (0x40, 64, desc2 0x30000 0xC 256 256 256),
    (0x80, 64, desc2 0x40000 0xC 128 128 128), (0xC0, 64, desc2 0x44000 0xC 128 128 128)]

/-- A flag in this module's pantry. -/
def flag0 : Nat := 0xFFFF * 2 ^ 48 + 0x020000000200

/-- A submit of stream 0. -/
def sub0 : Submit := { cmd := (hc 0x31 []).ref, stream := 0, frame := 0x4200, buf := 0x20000, len := 64, ready := 0, readyVal := 0, age := some 0 }

/-- A stream of partition 0 with a pool, whose records name a flag or none, and that submit. -/
def stream0 (v : Nat) (pool : List Nat) (prog : Nat := 0) : Stream :=
  { part := 0, block := block0 v, pool := pool, held := [], refs := [], frames := 0, outseq := 0, lastPic := none, subs := [sub0]
    recs := pool.map fun _ => frame0 prog }

/-- The small machine at stage 5 with engine 0 and queue set 0 of partition 0, a stream and a frame in progress. -/
def mVid (t : Stream) (run : Option Running) (loaded : Option Nat) : State :=
  let s := m5 [(0x4000, block0 1), (0x4200, frame0 0)] id
  { s with
    core := { s.core with owners := s.core.owners ++ [(5 * 4096, 0), (6 * 4096, 0)] }
    vid := s.vid.set 0 { (s.vid.toList.getD 0 {}) with streams := [(0, t), (7, { t with subs := [] })], run := run, loaded := loaded } }

/-- A command of the host of partition 0, with its opcode and ARGS. -/
def hp (opc : Nat) (parts : List (Nat × Nat × Nat)) : HostCmd := { hc opc parts with path := .roce 0 }

/-- Whether what a submit's frame is made of is read. -/
def unitReads (s : State) (t : Stream) (b : Submit) : Bool :=
  match s.unitData t b with
  | (_, .ok _) => true
  | (_, .error _) => false

/-- Streams opened and closed, and submits of both directions taken. -/
theorem wit_VideoCommandsComplete :
    (let s := mVid (stream0 1 []) none none
     let h := hp 0x30 [(8, 8, 0x4000)]
     (begun s h).admits h 0x30 none ∧ h.arg 0 1 = 0 ∧ h.arg 1 1 = 0 ∧ h.zero 2 2 = true ∧ h.zero 4 4 = true ∧ h.zero 16 32 = true ∧
     ((begun s h).turn h).core.pathPart h.path = some 0 ∧ ((begun s h).turn h).core.owner 6 0 = 0 ∧
     fetched ((begun s h).turn h) 0 (h.arg 8 8) 128 (fun s1 b => s1.blockOk 0 b && (match s1.poolOf 0 b with
       | (s2, .ok []) => freeKey (s2.engine 0).streams 256 == some 1
       | _ => false)) = true) ∧
    (let s := mVid (stream0 0 [0x4100]) none (some 0)
     let h := hp 0x30 [(0, 1, 1)]
     let g := hp 0x31 [(16, 8, 0x20000), (24, 4, 64)]
     (begun s h).admits h 0x30 none ∧ h.arg 0 1 = 1 ∧ h.arg 1 1 = 0 ∧ h.zero 4 4 = true ∧ h.zero 8 8 = true ∧ h.zero 16 32 = true ∧
     h.arg 2 2 / 256 = 0 ∧ ((begun s h).turn h).core.pathPart h.path = some 0 ∧
     lookup (((begun s h).turn h).engine 0).streams (h.arg 2 2 % 256) = some (stream0 0 [0x4100]) ∧ (stream0 0 [0x4100]).part = 0 ∧
     (begun s g).admits g 0x31 none ∧ g.zero 2 6 = true ∧ g.arg 0 2 / 256 = 0 ∧
     lookup (((begun s g).turn g).engine 0).streams (g.arg 0 2 % 256) = some (stream0 0 [0x4100]) ∧ (stream0 0 [0x4100]).dec = true ∧
     ((begun s g).turn g).core.pathPart g.path = some 0 ∧ ((begun s g).turn g).submitOk g (stream0 0 [0x4100]) = true) ∧
    (let s := mVid (stream0 1 []) none none
     let t := stream0 1 []
     let h := hp 0x31 [(8, 8, 0x4200), (16, 8, 0x20000), (24, 4, 4096)]
     (begun s h).admits h 0x31 none ∧ h.zero 2 6 = true ∧ h.arg 0 2 / 256 = 0 ∧
     lookup (((begun s h).turn h).engine 0).streams (h.arg 0 2 % 256) = some t ∧ t.dec = false ∧
     ((begun s h).turn h).core.pathPart h.path = some t.part ∧ ((begun s h).turn h).submitOk h t = true ∧
     (match ((begun s h).turn h).frameAt t.part false (h.arg 8 8) with
      | (_, .ok b) => decide (fld b 4 2 ≤ fld t.block 8 2 ∧ fld b 6 2 ≤ fld t.block 0xA 2 ∧ fld b 2 1 ≤ fld t.block 7 1) && fld b 3 1 == fld t.block 0xC 1
      | (_, .error _) => false) = true) := by
  refine ⟨?_, ?_, ?_⟩ <;> decide +kernel

/-- Frames that start: one whose flag is uncorrectable, one with no pool entry, and, with one, on an engine with no stream, that stream
and another stream loaded, one whose data are read and one whose are not. -/
theorem wit_VideoFramesStart :
    (let b := { sub0 with ready := flag0, age := none }
     let s := mVid { stream0 0 [0x4100] with subs := [b] } none none
     let s := { s with core := { s.core with ecc := { bad := [s.core.space.off + localOf flag0 / 64] } } }
     (s.engine 0).run = none ∧ s.lan.bivActive = false ∧ s.spoilt (s.engine 0) = some (0, { stream0 0 [0x4100] with subs := [b] }, b) ∧
     (match s.acquire b with | (_, .error _) => true | _ => false) = true) ∧
    (let s := mVid (stream0 0 []) none none
     s.spoilt (s.engine 0) = none ∧ (s.engine 0).next = some (0, stream0 0 [], sub0) ∧ (stream0 0 []).dec = true ∧ (stream0 0 []).freeEntry = none) ∧
    ([none, some 0, some 7].all fun l =>
      let t := stream0 0 [0x4100]
      let s := mVid t none l
      s.spoilt (s.engine 0) == none && (s.engine 0).next == some (0, t, sub0) && t.freeEntry.isSome && (s.engine 0).loaded == l &&
        l.all (fun j => (lookup (s.engine 0).streams j).isSome) &&
        unitReads s { t with subs := [] } sub0 && !unitReads s { t with subs := [] } { sub0 with buf := 0x70000000000000 }) = true := by
  refine ⟨?_, ?_, ?_⟩ <;> decide +kernel

/-- Slices of an encoder whose code is two bytes: one that fits, with and without notices, and one that does not; and a write that is
refused. -/
theorem wit_VideoSlicesComplete (h : Config.vidCode (block0 1) [[7]] 0 = [1, 2]) :
    let r : Running := { sub := sub0, entry := none, progress := 0, data := [7], height := 256 }
    let t := stream0 1 []
    let fits := { r with sub := { sub0 with len := 4096 } }
    let away := { fits with sub := { fits.sub with buf := 0x70000000000000 } }
    let s := mVid t (some fits) (some 0)
    let n := 0 + (Config.vidCode t.block (t.fed ++ [[7]]) 0).length
    s.running 0 = some (fits, t) ∧ t.dec = false ∧ r.full = false ∧ r.denied = 0 ∧ r.slices < t.slices r.height ∧ 64 + n ≤ 4096 ∧
    s.vidCheck 0 fits.sub.buf (64 + n) = 0 ∧ bit (fld t.block 0x23 1) 0 = false ∧ r.sub.len < 64 + n ∧
    (mVid t (some r) (some 0)).running 0 = some (r, t) ∧ (mVid t (some away) (some 0)).running 0 = some (away, t) ∧
    (mVid t (some away) (some 0)).vidCheck 0 away.sub.buf (64 + n) ≠ 0 ∧
    (let u := { t with block := t.block.set 0x23 1 }
     bit (fld u.block 0x23 1) 0 = true ∧ (hp 0x31 []).path = .roce 0 ∧ u.dec = false) := by
  dsimp only
  have e : (stream0 1 []).block = block0 1 ∧ (stream0 1 []).fed ++ [[7]] = [[7]] := ⟨rfl, rfl⟩
  rw [e.1, e.2, h]
  decide +kernel

/-- Rows of a picture whose headers say 256 × 256, 8 bits, 4:2:0, in blocks of 64, with and without a PROG flag. -/
theorem wit_VideoRowsComplete (h : ∀ i, Config.vidHeader 0 [7] i = [256, 256, 8, 1, 64].getD i 0) :
    let r : Running := { sub := sub0, entry := some 0, progress := 0, data := [7], height := 256 }
    let t := fun (p : Nat) => stream0 0 [0x4100] p
    let s := fun (p : Nat) => mVid (t p) (some r) (some 0)
    (∀ p, p = 0 ∨ p = flag0 → (s p).running 0 = some (r, t p) ∧ fld ((t p).recs.getD 0 []) 8 8 = p ∧ (s p).planesCheck (t p) 0 = 0 ∧
      (t p).exceeds r.data = false ∧ 64 % ((t p).picture r.data r.height).side = 0) ∧
    r.entry = some 0 ∧ r.progress < 64 ∧ 64 ≤ r.height ∧ r.data ≠ [] ∧ r.denied = 0 ∧ flag0 ≠ 0 ∧ (s flag0).vidCheck 0 (localOf flag0) 8 = 0 := by
  have side : ∀ p, ((stream0 0 [0x4100] p).picture [7] 256).side = 64 := by
    intro p
    have b : fld (stream0 0 [0x4100] p).block 3 1 = 0 := by
      show fld (block0 0) 3 1 = 0
      decide +kernel
    simp only [Stream.picture, b, h]
    rfl
  have ex : ∀ p, (stream0 0 [0x4100] p).exceeds [7] = false := by
    intro p
    have b : fld (stream0 0 [0x4100] p).block 3 1 = 0 ∧ fld (stream0 0 [0x4100] p).block 8 2 = 256 ∧ fld (stream0 0 [0x4100] p).block 0xA 2 = 256 ∧
        fld (stream0 0 [0x4100] p).block 7 1 = 8 ∧ fld (stream0 0 [0x4100] p).block 0xC 1 = 1 := by
      show fld (block0 0) 3 1 = 0 ∧ fld (block0 0) 8 2 = 256 ∧ fld (block0 0) 0xA 2 = 256 ∧ fld (block0 0) 7 1 = 8 ∧ fld (block0 0) 0xC 1 = 1
      decide +kernel
    simp only [Stream.exceeds, b, h]
    decide
  refine ⟨?_, rfl, by decide, by decide, by decide, rfl, by decide, by decide +kernel⟩
  rintro p (rfl | rfl)
  · exact ⟨rfl, by decide +kernel, by decide +kernel, ex _, by rw [side]⟩
  · exact ⟨rfl, by decide +kernel, by decide +kernel, ex _, by rw [side]⟩

/-- Frames in progress that end: encoded ones whole, beyond their buffer and refused, and decoded ones of an empty unit and of another. -/
theorem wit_VideoFramesEnd :
    (let r : Running := { sub := { sub0 with len := 4096 }, entry := none, progress := 0, data := [7], height := 256, slices := 4 }
     let t := stream0 1 []
     (mVid t (some r) (some 0)).running 0 = some (r, t) ∧ r.denied = 0 ∧ r.full = false ∧ t.slices r.height ≤ r.slices ∧ r.sub.stream = (0 : Fin 256).val ∧
     (mVid t (some { r with full := true }) (some 0)).running 0 = some ({ r with full := true }, t) ∧ 8 ≤ r.sub.len ∧
     (mVid t (some { r with denied := 0x0202 }) (some 0)).running 0 = some ({ r with denied := 0x0202 }, t)) ∧
    (let r : Running := { sub := sub0, entry := some 0, progress := 0 }
     let t := stream0 0 [0x4100]
     (mVid t (some r) (some 0)).running 0 = some (r, t) ∧ r.data = [] ∧ r.sub.stream = (0 : Fin 256).val ∧
     (mVid t (some { r with data := [7] }) (some 0)).running 0 = some ({ r with data := [7] }, t)) := by
  decide +kernel

/-! ### Witnesses: firmware -/

/-- SHA3-256 of 64 zero bytes, by FIPS 202. -/
def digest0 : List Byte :=
  [0x07, 0x0F, 0xA1, 0xAB, 0x6F, 0xCC, 0x55, 0x7E, 0xD1, 0x4D, 0x42, 0x94, 0x1F, 0x19, 0x67, 0x69,
    0x30, 0x48, 0x55, 0x1E, 0xB9, 0x04, 0x2A, 0x8D, 0x0A, 0x05, 0x7A, 0xFB, 0xD7, 0x5E, 0x81, 0xE0]

theorem test_sha3_zeros : sha3 (List.replicate 64 0) = digest0 := by decide +kernel

/-! ### A signature under a key of zeros -/

/-- A polynomial without a coefficient other than 0. -/
def Null (p : List Int) : Prop := ∀ x ∈ p, x = 0

theorem null_zeros (n : Nat) : Null (List.replicate n 0) := fun _ h => (List.mem_replicate.1 h).2

theorem null_zip {f : Int → Int → Int} (hf : ∀ x, f x 0 = 0) {a b : List Int} (h : Null b) : Null (List.zipWith f a b) := by
  intro x hx
  obtain ⟨i, hi, rfl⟩ := List.mem_iff_getElem.1 hx
  rw [List.getElem_zipWith, h _ (List.getElem_mem _), hf]

theorem null_zip2 {f : Int → Int → Int} (hf : f 0 0 = 0) {a b : List Int} (ha : Null a) (h : Null b) : Null (List.zipWith f a b) := by
  intro x hx
  obtain ⟨i, hi, rfl⟩ := List.mem_iff_getElem.1 hx
  rw [List.getElem_zipWith, h _ (List.getElem_mem _), ha _ (List.getElem_mem _), hf]

theorem evalAt_null (x : Int) {p : List Int} (h : Null p) : evalAt x p = 0 := by
  induction p with
  | nil => rfl
  | cons a t ih =>
    have e : evalAt x (a :: t) = (a + x * evalAt x t) % mlQ := rfl
    rw [e, ih (fun y hy => h y (List.mem_cons_of_mem _ hy)), h a List.mem_cons_self]
    simp

theorem ntt_null {p : List Int} (h : Null p) : Null (ntt p) := by
  intro x hx
  obtain ⟨i, -, rfl⟩ := List.mem_map.1 hx
  exact evalAt_null _ h

theorem unNtt_null {p : List Int} (h : Null p) : unNtt p = List.replicate 256 0 := by
  have g : ∀ b, p.getD b 0 = 0 := by
    intro b
    rw [List.getD_eq_getElem?_getD]
    cases e : p[b]? with
    | none => rfl
    | some y => exact h y (List.mem_of_getElem? e)
  have q : Null ((List.range 256).map fun b => p.getD (brv b) 0) := by
    intro x hx
    obtain ⟨i, -, rfl⟩ := List.mem_map.1 hx
    exact g _
  rw [unNtt]
  simp only [evalAt_null _ q, Int.mul_zero, Int.zero_emod, List.map_const', List.length_range]

theorem matVec_null {m : List (List (List Int))} {v : List (List Int)} (h : ∀ p ∈ v, Null p) : ∀ p ∈ matVec m v, Null p := by
  intro p hp
  obtain ⟨row, -, rfl⟩ := List.mem_map.1 hp
  have go : ∀ (l : List (List Int)) (a : List Int), (∀ q ∈ l, Null q) → Null a → Null (l.foldl pAdd a) := by
    intro l
    induction l with
    | nil => exact fun a _ ha => ha
    | cons q t ih =>
      intro a hl ha
      exact ih _ (fun r hr => hl r (List.mem_cons_of_mem _ hr)) (null_zip2 rfl ha (hl q List.mem_cons_self))
  refine go _ _ ?_ (null_zeros _)
  intro q hq
  obtain ⟨i, hi, rfl⟩ := List.mem_iff_getElem.1 hq
  rw [List.getElem_zipWith]
  exact null_zip (by intro x; simp) (h _ (List.getElem_mem _))

/-- The vendor key of the tests: 1312 zero bytes. -/
def key0 : List Byte := List.replicate 1312 0

/-- 1024 fields of 18 bits that stand for coefficients of 0. -/
def zPack : List Byte := (List.replicate 4 (mlPack 18 (List.replicate 256 131072))).flatten

/-- The signature of a message under that key, whose product t1 is 0, with a response of 0. -/
def sig0 (m : List Byte) : List Byte :=
  shake 136 (mlMu (shake 136 key0 64) m ++ List.replicate 768 0) 32 ++ (zPack ++ List.replicate 84 0)

theorem shake_length (l : List Byte) : (shake 136 l 32).length = 32 := by
  first
    | (simp [shake, squeeze, blockOf, leBytes]; done)
    | (simp [shake, squeeze, blockOf, leBytes]; decide)

theorem zPack_length : zPack.length = 2304 := by decide +kernel

theorem sig0_length (m : List Byte) : (sig0 m).length = 2420 := by
  rw [sig0, List.length_append, List.length_append, shake_length, zPack_length, List.length_replicate]

/-- It verifies. -/
theorem sig0_ok (m : List Byte) : mlVerify key0 m (sig0 m) = true := by
  have s1 : ∀ o n, 32 ≤ o → slice (sig0 m) o n = slice (zPack ++ List.replicate 84 0) (o - 32) n := by
    intro o n h
    rw [sig0, slice_right (by rw [shake_length]; exact h), shake_length]
  have hh : unpackHint (slice (sig0 m) 2336 84) = some (List.replicate 4 (List.replicate 256 false)) := by
    rw [s1 _ _ (by decide)]
    decide +kernel
  have hc : slice (sig0 m) 0 32 = shake 136 (mlMu (shake 136 key0 64) m ++ List.replicate 768 0) 32 := by
    rw [sig0, slice_left (Nat.le_of_eq (shake_length _).symm), slice_all (shake_length _)]
  have hz : (List.range 4).map (fun i => (mlUnpack 18 (sig0 m) (32 + 576 * i)).map (fun (x : Nat) => 131072 - (x : Int))) =
      List.replicate 4 (List.replicate 256 0) := by
    simp only [mlUnpack, s1 _ _ (Nat.le_add_right 32 _), Nat.add_sub_cancel_left]
    decide +kernel
  have ht : (List.range 4).map (fun i => (mlUnpack 10 key0 (32 + 320 * i)).map (fun (x : Nat) => (x : Int) * 8192)) =
      List.replicate 4 (List.replicate 256 0) := by decide +kernel
  have hw : ∀ (c : List Int) (az : List (List Int)), (∀ p ∈ az, Null p) → az.length = 4 →
      List.zipWith (fun a t => unNtt (pSub a (pMul c (ntt t)))) az (List.replicate 4 (List.replicate 256 0)) =
        List.replicate 4 (List.replicate 256 0) := by
    intro c az h l
    apply List.ext_getElem
    · rw [List.length_zipWith, l, List.length_replicate]; rfl
    · intro i h1 h2
      rw [List.getElem_zipWith, List.getElem_replicate]
      exact unNtt_null (null_zip2 rfl (h _ (List.getElem_mem _)) (null_zip (by intro x; simp) (ntt_null (null_zeros _))))
  have hv : ∀ p ∈ (List.replicate 4 (List.replicate 256 (0 : Int))).map ntt, Null p := by
    intro p hp
    obtain ⟨q, hq, rfl⟩ := List.mem_map.1 hp
    rw [(List.mem_replicate.1 hq).2]
    exact ntt_null (null_zeros _)
  have e : w1Encode (List.zipWith (fun p q => List.zipWith useHint p q) (List.replicate 4 (List.replicate 256 false))
      (List.replicate 4 (List.replicate 256 0))) = List.replicate 768 0 := by decide +kernel
  have n : norm (List.replicate 4 (List.replicate 256 0)) < 130994 := by decide +kernel
  have l : key0.length = 1312 := List.length_replicate
  have len : ∀ v, (matVec (expandA (slice key0 0 32)) v).length = 4 := fun v => by rw [matVec, List.length_map, expandA, List.length_map, List.length_range]
  have go : ∀ a b c d : Bool, a = true → b = true → c = true → d = true → (a && b && c && d) = true := by decide
  rw [mlVerify, hh]
  dsimp only
  rw [hz, ht, hw _ _ (matVec_null hv) (len _), e, hc]
  exact go _ _ _ _ (beq_iff_eq.2 l) (beq_iff_eq.2 (sig0_length m)) (decide_eq_true n) (beq_self_eq_true _)
/-- The header of a firmware image of SECVER 5 with a payload of 64 zero bytes (Table 18.2). -/
def head5 : List Byte := layout 24 [(0, 2, 1), (2, 1, 1), (4, 4, 5), (0x10, 4, 64)] ++ (sha3 (List.replicate 64 0) ++ List.replicate 200 0)

/-- The header of a rollback record of MINSEC 3. -/
def head3 : List Byte := layout 64 [(0, 2, 1), (2, 1, 2), (4, 4, 3)]

/-- An object of a header and what follows the signature. -/
def signedObj (h tail : List Byte) : List Byte := h ++ (key0 ++ (sig0 h ++ tail))

/-- The image and the record. -/
def objI : List Byte := signedObj head5 (List.replicate 172 0)
def objR : List Byte := signedObj head3 (List.replicate 300 0)

theorem sha3_length (l : List Byte) : (sha3 l).length = 32 := by
  first
    | (simp [sha3, blockOf, leBytes]; done)
    | (simp [sha3, blockOf, leBytes]; decide)

theorem head5_length : head5.length = 256 := by
  rw [head5, List.length_append, List.length_append, sha3_length, List.length_replicate]
  rfl

/-- Spans of a signed object, by the length of its header. -/
theorem signed_spans {h tail : List Byte} {n : Nat} (l : h.length = n) :
    slice (signedObj h tail) 0 n = h ∧ slice (signedObj h tail) n 1312 = key0 ∧ slice (signedObj h tail) (n + 1312) 2420 = sig0 h ∧
    (∀ o k, o + k ≤ n → slice (signedObj h tail) o k = slice h o k) ∧
    (∀ o k, slice (signedObj h tail) (n + 3732 + o) k = slice tail o k) ∧ (signedObj h tail).length = n + 3732 + tail.length := by
  have k : key0.length = 1312 := List.length_replicate
  have g := sig0_length h
  subst l
  refine ⟨?_, ?_, ?_, ?_, ?_, ?_⟩
  · rw [signedObj, slice_left (by omega), slice_all rfl]
  · rw [signedObj, slice_right (by omega), Nat.sub_self, slice_left (by omega), slice_all k]
  · rw [signedObj, slice_right (by omega), Nat.add_sub_cancel_left, slice_right (by omega), k, Nat.sub_self, slice_left (by omega), slice_all g]
  · intro o m hh
    rw [signedObj, slice_left hh]
  · intro o m
    rw [signedObj, slice_right (by omega), slice_right (by omega), slice_right (by omega), k, g,
      show h.length + 3732 + o - h.length - 1312 - 2420 = o by omega]
  · simp only [signedObj, List.length_append, k, g]
    omega

/-- Their versions and lengths. -/
theorem objs_versions : objVersion objI = 5 ∧ objVersion objR = 3 ∧ objI.length = 4160 ∧ objR.length = 4096 := by
  obtain ⟨-, -, -, e4, -, e6⟩ := signed_spans (tail := List.replicate 172 0) head5_length
  obtain ⟨-, -, -, f4, -, f6⟩ := signed_spans (h := head3) (tail := List.replicate 300 0) (n := 64) (by decide +kernel)
  rw [List.length_replicate] at e6 f6
  refine ⟨?_, ?_, e6, f6⟩
  · rw [objVersion, fld, objI, e4 _ _ (by decide), ← fld]
    decide +kernel
  · rw [objVersion, fld, objR, f4 _ _ (by decide), ← fld]
    decide +kernel

/-- Both verify under the hash of their key. -/
theorem objs_verify : verify (sha3 key0) 3 true objI = 0 ∧ ∀ m, verify (sha3 key0) m false objR = 0 := by
  constructor
  · obtain ⟨e1, e2, e3, e4, e5, e6⟩ := signed_spans (tail := List.replicate 172 0) head5_length
    rw [List.length_replicate] at e6
    have hd : fld head5 0 2 = 1 ∧ fld head5 3 1 = 0 ∧ fld head5 2 1 = 1 ∧ fld head5 0x10 4 = 64 ∧ zeroAt head5 0x14 4 = true ∧ fld head5 4 4 = 5 := by
      decide +kernel
    have z : zeroAt head5 0x38 200 = true ∧ slice head5 0x18 32 = sha3 (List.replicate 64 0) := by
      have p : (layout 24 [(0, 2, 1), (2, 1, 1), (4, 4, 5), (0x10, 4, 64)]).length = 24 := by decide +kernel
      constructor
      · rw [zeroAt, head5, slice_right (by rw [p] <;> decide), slice_right (by rw [p, sha3_length] <;> decide), p, sha3_length]
        decide +kernel
      · rw [head5, slice_right (by rw [p] <;> decide), p, slice_left (Nat.le_of_eq (sha3_length _).symm), slice_all (sha3_length _)]
    have f : ∀ o k, o + k ≤ 256 → fld objI o k = fld head5 o k := fun o k h => by rw [fld, objI, e4 o k h, fld]
    have zz : ∀ o k, o + k ≤ 256 → zeroAt objI o k = zeroAt head5 o k := fun o k h => by rw [zeroAt, objI, e4 o k h, zeroAt]
    have pz : zeroAt objI 0xF94 0x6C = true := by
      rw [zeroAt, objI, e5 0 0x6C]
      decide +kernel
    have pl : objPayload objI = List.replicate 64 0 := by
      rw [objPayload, f _ _ (by decide), hd.2.2.2.1, objI, e5 0x6C 64]
      decide +kernel
    have ok : headerOk true objI = true := by
      simp only [headerOk, if_true, objZeros, pz, f 0 2 (by decide), f 3 1 (by decide), f 2 1 (by decide), f 0x10 4 (by decide), zz 0x14 4 (by decide),
        zz 0x38 200 (by decide), hd, z.1]
      rw [objI, e6]
      decide
    have v : ¬ objVersion objI < 3 := by
      rw [objs_versions.1]
      decide
    have s : mlVerify (objKey true objI) (objHead true objI) (objSig true objI) = true := by
      simp only [objKey, objHead, objSig, if_true]
      rw [objI, e1, e2, e3]
      exact sig0_ok _
    have k : objKey true objI = key0 := by
      simp only [objKey, if_true]
      rw [objI, e2]
    have d : slice objI 0x18 32 = sha3 (objPayload objI) := by rw [pl, objI, e4 _ _ (by decide), z.2]
    rw [verify, ok, s, k, ← d]
    simp [v]
  · obtain ⟨e1, e2, e3, e4, e5, e6⟩ := signed_spans (h := head3) (tail := List.replicate 300 0) (n := 64) (by decide +kernel)
    rw [List.length_replicate] at e6
    have hd : fld head3 0 2 = 1 ∧ fld head3 3 1 = 0 ∧ fld head3 2 1 = 2 ∧ zeroAt head3 8 56 = true := by decide +kernel
    have f : ∀ o k, o + k ≤ 64 → fld objR o k = fld head3 o k := fun o k h => by rw [fld, objR, e4 o k h, fld]
    have pz : zeroAt objR 0xED4 0x12C = true := by
      rw [zeroAt, objR, e5 0 0x12C]
      decide +kernel
    have z8 : zeroAt objR 8 56 = true := by rw [zeroAt, objR, e4 _ _ (by decide), ← zeroAt, hd.2.2.2]
    have ok : headerOk false objR = true := by
      simp only [headerOk, objZeros, pz, f 0 2 (by decide), f 3 1 (by decide), f 2 1 (by decide), hd, z8]
      rw [objR, e6]
      decide
    have s : mlVerify (objKey false objR) (objHead false objR) (objSig false objR) = true := by
      simp only [objKey, objHead, objSig, Bool.false_eq_true, if_false]
      rw [objR, e1, e2, e3]
      exact sig0_ok _
    have k : objKey false objR = key0 := by
      simp only [objKey, Bool.false_eq_true, if_false]
      rw [objR, e2]
    intro m
    rw [verify, ok, s, k]
    simp

/-- The small machine at stage 5 with the image in slot 0 and the record in force, and an object in memory for staging. -/
def mFw (o : List Byte) : State :=
  let s := m5 [(0x40004000, o)] id
  { s with
    silicon := { s.silicon with keyHash := sha3 key0 }
    flash := { s.flash with rollback := some objR, slots := [(0, objI)] } }

/-- A command of the operator by queue pair 0, with its opcode and ARGS. -/
def hq (opc : Nat) (parts : List (Nat × Nat × Nat)) : HostCmd := { hc opc parts with path := .roce 0 }

/-- The record in force gives MINSEC. -/
theorem mFw_minsec (s : State) (h : s.silicon.keyHash = sha3 key0 ∧ s.flash.rollback = some objR) : s.minsecNow = some 3 := by
  simp [State.minsecNow, h.1, h.2, Option.filter, objs_verify.2, objs_versions.2.1]

/-- The image in the slot verifies. -/
theorem mFw_slot (s : State) (h : s.silicon.keyHash = sha3 key0 ∧ s.flash.slots = [(0, objI)]) : s.slotCheck 0 3 = 0 := by
  simp [State.slotCheck, h.1, h.2, lookup, objs_verify.1]

/-- The boot directory of the tests reads back. -/
theorem dir0 {f : Flash} (ha : f.dirA = dirBytes 1 0 0xFF) (hb : f.dirB = []) : f.dir = some (true, { seq := 1, dflt := 0, tryS := 0xFF }) := by
  rw [Flash.dir, ha, hb]
  decide +kernel

/-- An image that verifies starts. -/
theorem start_ok {s : State} {m : Nat} {a : Bool} {d : BootDir} {o : List Byte} (hd : s.flash.dir = some (a, d)) (ht : d.tryS = 0xFF)
    (ho : s.slotCheck d.dflt m = 0) (hl : lookup s.flash.slots d.dflt = some o) : (s.startImage m).sec.stage = 2 := by
  simp [State.startImage, State.chooseSlot, State.clearTry, State.romFound, hd, ht, ho, hl]

/-- The image and the record may be staged. -/
theorem staged_ok (s : State) (h : s.silicon.keyHash = sha3 key0 ∧ s.flash.rollback = some objR ∧ s.flash.slots = [(0, objI)]) :
    s.stageFault true objI = 0 ∧ (s.flash.dir.map (fun d => d.2.dflt) = some 0 → s.stageFault false objR = 0) := by
  constructor
  · simp [State.stageFault, mFw_minsec s ⟨h.1, h.2.1⟩, h.1, objs_verify.1]
  · intro d
    obtain ⟨⟨x, y⟩, e, f⟩ := Option.map_eq_some_iff.1 d
    have f : y.dflt = 0 := f
    simp [State.stageFault, mFw_minsec s ⟨h.1, h.2.1⟩, h.1, objs_verify.2, e, f, h.2.2, lookup, objs_versions]

/-- Bytes just written are fetched. -/
theorem fetch_written {s : State} {p a n l : Nat} {m : Mem} {bs : List Byte} (hl : s.local? a = some l) (hm : s.core.mem = m.write l bs)
    (hn : bs.length = n) (he : s.core.ecc = {}) (ha : s.core.access p [] l n false = 0) : s.fetch p a n = (s, .ok bs) := by
  have clean : scanRange s.core.space s.core.mem s.core.ecc l n = (s.core.mem, s.core.ecc, none) := by simp [scanRange, errWords, he]
  have all : s.core.mem.read l n = bs := by
    rw [hm, ← hn]
    exact Mem.read_write m l bs
  simp [State.fetch, State.readMem, State.onCore, hl, ha, clean, all]

/-- The commands that stage an image and a record, and one of too few bytes. -/
def hStage (n k : Nat) : HostCmd := hc 0x40 [(0, 8, 0x40004000), (8, 4, n), (12, 1, k)]

/-- What they ask is fetched. -/
theorem stage_fetched (o : List Byte) (n k : Nat) (hn : o.length = n) (h : (n, k) ∈ [(4160, 0), (4096, 1)]) :
    ((begun (mFw o) (hStage n k)).turn (hStage n k)).fetch 0xFF ((hStage n k).arg 0 8) ((hStage n k).arg 8 4) =
      ((begun (mFw o) (hStage n k)).turn (hStage n k), .ok o) := by
  have e : (hStage n k).arg 0 8 = 0x40004000 ∧ (hStage n k).arg 8 4 = n := by
    simp only [List.mem_cons, Prod.mk.injEq, List.not_mem_nil, or_false] at h
    obtain ⟨rfl, rfl⟩ | ⟨rfl, rfl⟩ := h <;> decide +kernel
  have c : (m5 [] id).core.access 0xFF [] 0x40004000 n false = 0 := by
    simp only [List.mem_cons, Prod.mk.injEq, List.not_mem_nil, or_false] at h
    obtain ⟨rfl, rfl⟩ | ⟨rfl, rfl⟩ := h <;> decide +kernel
  rw [e.1, e.2]
  exact fetch_written (m := {}) (l := 0x40004000) rfl rfl hn rfl c

/-- An image and a record staged, with the bytes fetched; one too short; a slot activated; restarts of Lantern; reports of each form;
and the exit from bivouac mode, with and without a cause. -/
theorem wit_FirmwareCommandsComplete :
    (let s := mFw objI
     let h := hStage 4160 0
     (begun s h).admits h 0x40 none ∧ h.arg 12 1 = 0 ∧ h.zero 13 35 = true ∧
     ((begun s h).turn h).fetch 0xFF (h.arg 0 8) (h.arg 8 4) = ((begun s h).turn h, .ok objI) ∧ ((begun s h).turn h).stageFault true objI = 0 ∧
     ((begun s h).turn h).stageSlot = some 1) ∧
    (let s := mFw objR
     let h := hStage 4096 1
     (begun s h).admits h 0x40 none ∧ h.arg 12 1 = 1 ∧ h.zero 13 35 = true ∧
     ((begun s h).turn h).fetch 0xFF (h.arg 0 8) (h.arg 8 4) = ((begun s h).turn h, .ok objR) ∧ ((begun s h).turn h).stageFault false objR = 0) ∧
    (let s := mFw []
     let h := hStage 256 0
     (begun s h).admits h 0x40 none ∧ h.arg 12 1 = 0 ∧ h.zero 13 35 = true ∧
     fetched ((begun s h).turn h) 0xFF (h.arg 0 8) (h.arg 8 4) (fun s1 bs => s1.stageFault true bs != 0) = true ∧
     Region.slot 1 ≠ Region.rollback ∧ Region.slot 1 ≠ Region.carrier) ∧
    (let s := mFw []
     let h := hc 0x41 [(1, 1, 1)]
     let g := hc 0x41 [(2, 1, 1)]
     (begun s h).admits h 0x41 none ∧ h.arg 0 1 ≤ 1 ∧ h.arg 1 1 = 1 ∧ h.arg 2 1 = 0 ∧ h.zero 3 45 = true ∧
     (begun s g).admits g 0x41 none ∧ g.arg 0 1 ≤ 1 ∧ g.arg 1 1 = 0 ∧ g.arg 2 1 = 1 ∧ g.zero 3 45 = true ∧
     ((begun s h).turn h).minsecNow = some 3 ∧ ((begun s h).turn h).slotCheck (h.arg 0 1) 3 = 0 ∧ ((begun s h).turn h).sec.stage ≠ 6 ∧
     ((begun s h).turn h).sec.wantRestart = none ∧
     ((begun s g).turn g).minsecNow = some 3 ∧ ((begun s g).turn g).slotCheck (g.arg 0 1) 3 = 0 ∧ ((begun s g).turn g).sec.stage ≠ 6) ∧
    (let s : State := { mFw [] with sec := { (mFw []).sec with minsec := 3, wantRestart := some (hc 0x41 []).ref } }
     let u : State := { s with sec := { s.sec with stage := 6 } }
     s.sec.wantRestart = some (hc 0x41 []).ref ∧ s.eth.recs = [] ∧ s.sec.stage ≠ 6 ∧ (s.startImage s.sec.minsec).sec.stage = 2 ∧
     u.sec.wantRestart = some (hc 0x41 []).ref ∧ u.eth.recs = [] ∧ u.sec.stage = 6) ∧
    (let s : State := { mFw [] with flash := { (mFw []).flash with chain := [1] } }
     let h := hq 0x42 []
     let g := hq 0x42 [(40, 1, 1)]
     let m := hc 0x42 []
     (begun s h).admits h 0x42 none ∧ h.path = .roce 0 ∧ h.arg 40 1 = 0 ∧ h.zero 41 7 = true ∧ ((begun s h).turn h).sec.idok = true ∧
     (begun s g).admits g 0x42 none ∧ g.path = .roce 0 ∧ g.arg 40 1 = 1 ∧ g.zero 41 7 = true ∧ ((begun s g).turn g).sec.idok = true ∧
     ((begun s g).turn g).flash.chain.take 16384 ≠ [] ∧
     (begun s m).admits m 0x42 none ∧ (∀ qp, m.path ≠ .roce qp) ∧ m.arg 40 1 ≤ 1 ∧ m.arg 32 8 = 0 ∧ m.zero 41 7 = true ∧
     ((begun s m).turn m).sec.idok = true) ∧
    (let s : State := { mFw [] with lan := { (mFw []).lan with bivActive := true } }
     let h := hc 0x50 []
     (begun (mFw []) h).admits h 0x50 none ∧ h.zero 0 48 = true ∧ ((begun (mFw []) h).turn h).lan.bivActive = false ∧
     (begun s h).admits h 0x50 none ∧ ((begun s h).turn h).lan.bivActive = true ∧ ((begun s h).turn h).board.refclk = true ∧
     ((begun s h).turn h).board.thermtrip = false ∧
     ((some (2 : Fin 8)).map fun x : Fin 8 => x.val + 1).getD 0 ≠ 0) := by
  have dflt : ((begun (mFw objR) (hStage 4096 1)).turn (hStage 4096 1)).flash.dir.map (fun d => d.2.dflt) = some 0 := by
    rw [dir0 rfl rfl]
    rfl
  refine ⟨⟨?_, ?_, ?_, stage_fetched objI 4160 0 objs_versions.2.2.1 (by decide), (staged_ok _ ⟨rfl, rfl, rfl⟩).1, ?_⟩,
    ⟨?_, ?_, ?_, stage_fetched objR 4096 1 objs_versions.2.2.2 (by decide), (staged_ok _ ⟨rfl, rfl, rfl⟩).2 dflt⟩,
    ?_, ?_, ⟨rfl, rfl, by decide, start_ok (o := objI) (dir0 rfl rfl) rfl (mFw_slot _ ⟨rfl, rfl⟩) rfl, rfl, rfl, rfl⟩, ?_, ?_⟩
  case refine_9 =>
    refine ⟨?_, ?_, ?_, ?_, ?_, ?_, ?_, ?_, ?_, ?_, mFw_minsec _ ⟨rfl, rfl⟩, mFw_slot _ ⟨rfl, rfl⟩, ?_, ?_, mFw_minsec _ ⟨rfl, rfl⟩,
      mFw_slot _ ⟨rfl, rfl⟩, ?_⟩
    all_goals decide +kernel
  case refine_10 =>
    refine ⟨?_, rfl, ?_, ?_, ?_, ?_, rfl, ?_, ?_, ?_, ?_, ?_, fun qp h => (by cases h), ?_, ?_, ?_, ?_⟩
    all_goals decide +kernel
  all_goals decide +kernel

/-! ### Witnesses: queues, queue pairs, ports, mailboxes, management -/

/-- The small machine at stage 5 with queue pair 0 connected, its queue in unbound memory with one entry, windows of HBM, of this
module and of module 5, and a record that waits. -/
def mQueue (q : Queue) (qp : Qp) : State :=
  let s := m5 [(0x40001000, layout 64 [(0, 2, 1), (2, 1, 1), (4, 2, 7)])] id
  { s with
    eth := { s.eth with
      ports := Vector.replicate 4 { up := true, ip4 := 9, ctl := 0x10001 }
      qps := [(0, qp)], queues := [(0, q)]
      wins := [(0, (0x40000000 + 7, 16)), (1, (0xFFFF000000000000 + 7, 2 ^ 32 - 1)), (2, (5 * 2 ^ 48 + 7, 2 ^ 32 - 1))]
      recs := [{ qp := 0, cmdid := 1, status := 0, unsol := false, result := 0, info := 0, event := false }] } }

/-- A queue of 16 entries with one not yet read. -/
def queue0 : Queue := { addr := 0x40001000, ctail := 1, haddr := 0x1000, cpltail := 1 }

/-- A connected queue pair. -/
def qp0 : Qp := { state := .ready, unacked := [(3, [1])] }

/-- Doorbells accepted and refused, an entry of the right phase and one of the wrong, read at once and again, a record with room in its
ring, and the three words of a queue's configuration. -/
theorem wit_QueuesComplete :
    (let s := mQueue queue0 qp0
     s.carries 0 = true ∧ s.mayRing 0 0 = true ∧ s.through (.roce 0) (s.spellings pageBase) 8 true = true ∧
     s.through (.roce 0) (s.spellings (pageBase + 8)) 8 true = true ∧ (2 + 65536 - queue0.chead) % 65536 ≤ 2 ^ queue0.log2d ∧
     (queue0.ctail + 65536 - queue0.chead) % 65536 ≤ (2 + 65536 - queue0.chead) % 65536 ∧ 2 ^ queue0.log2d < (17 + 65536 - queue0.chead) % 65536 ∧
     (queue0.cpltail + 65536 - 1) % 65536 ≤ (queue0.cpltail + 65536 - queue0.cplhead) % 65536 ∧
     (takeRec 0 s.eth.recs).isSome = true ∧ (s.eth.qp 0).state = .ready ∧ s.serves 0 = true ∧
     (queue0.cpltail + 65536 - queue0.cplhead) % 65536 < 2 ^ queue0.clog2d ∧ queue0.stopped = false ∧ queue0.addr ≠ 0) ∧
    (let reads := fun (q : Queue) (phase : Bool) =>
       let s := mQueue q qp0
       let a := localOf q.addr + q.chead % 2 ^ q.log2d * 64
       let b := s.core.mem.read a 64
       let h := entryCmd (.roce 0) b
       s.eth.queue 0 == q && q.addr != 0 && !q.stopped && q.chead != q.ctail && s.sec.stage == 5 && !s.sec.restart &&
         s.core.access (s.core.qpOwner 0) (s.core.partPantry (s.core.qpOwner 0)) a 64 false == 0 && decide s.noErrors &&
         (bit h.flags 0 == (q.chead / 2 ^ q.log2d % 2 == 0)) == phase && !bit h.flags 2 && !entryBad b h &&
         s.gate (.roce 0) h.opc != .deny && s.allow h h.opc none == 0 && !firmwareOpc h.opc
     reads queue0 true = true ∧ reads { queue0 with stale := true } true = true ∧ reads { queue0 with chead := 16 } false = true) ∧
    (let s := mQueue queue0 qp0
     let p : Path := .mctp false 0x20
     let a := blockOff 0x08 + 0x10000 + 0x20
     s.rowReaches p a (.cmdq 1) ∧ s.regCheck (.cmdq 1) (0x40001000 + 4) = 0 ∧ s.rowReaches p (a + 8) (.cplq 1) ∧ s.regCheck (.cplq 1) 0x1000 = 0 ∧
     s.rowReaches (.roce 0) (a + 16) (.cplkey 1) ∧ s.regCheck (.cplkey 1) (2 ^ 32 + 4) = 0) := by
  refine ⟨?_, ?_, ?_⟩ <;> decide +kernel

/-- RDMA accesses inside a window and outside any; congestion; connections in each state; an acknowledgement that is late. -/
theorem wit_QueuePairsComplete :
    (let s := mQueue queue0 qp0
     s.carries 0 = true ∧ s.inWindow 0 0x40003000 0 1 true = true ∧ s.local? 0x40003000 = some 0x40003000 ∧ (areaOf 0x40003000).1 = .hbm ∧
     s.qpMem 0 0x40003000 1 true = 0 ∧ s.inWindow 0 0x50000000 0 1 true = false ∧ s.core.readsOf 0 < 16 ∧ s.inWindow 0 0x40003000 0 1 false = true ∧
     s.qpMem 0 0x40003000 1 false = 0 ∧ s.noErrors ∧ (s.eth.qp 0).state = .ready ∧ bit (s.eth.port (s.eth.qp 0).port).ctl 16 = true ∧
     spaced (s.eth.qp 0).halvedAt s.core.readWclk.1 = true ∧ (s.eth.port 0).up = true ∧ s.serves (1 % 64 * 64) = true ∧
     (span (1 % 64 * 64) 64).find? (fun n => (s.eth.qp n).state == .idle) = some 64 ∧ 4096 ∈ [256, 512, 1024, 2048, 4096] ∧
     (s.eth.qp 0).unacked ≠ [] ∧ 0 < (s.eth.qp 0).retries ∧ (s.eth.qp 0).state ≠ .idle) ∧
    (let full := (span 0 64).map fun n => (n, qp0)
     let s := { mQueue queue0 qp0 with eth := { (mQueue queue0 qp0).eth with qps := full } }
     (s.eth.port 0).up = true ∧ s.serves (64 % 64 * 64) = true ∧ (span (64 % 64 * 64) 64).find? (fun n => (s.eth.qp n).state == .idle) = none) ∧
    ((mQueue queue0 { qp0 with state := .replied }).eth.qp 0).state = .replied ∧
    (((mQueue queue0 { qp0 with retries := 0 }).eth.qp 0).retries = 0 ∧ ((mQueue queue0 { qp0 with retries := 0 }).eth.qp 0).state = .ready ∧
      ((mQueue queue0 { qp0 with retries := 0 }).eth.qp 0).unacked ≠ []) := by
  decide +kernel

/-- Frames on a port that is up and on one that is down, a port that may run, its control register set and cleared, by the sideband and by
a queue pair, and mailboxes written whole and in words, sent, full, and taken, on both sides. -/
theorem wit_PortsAndMailboxesComplete :
    (let s := mQueue queue0 qp0
     (s.eth.port 1).up = true ∧ (s.eth.port 1).ip4 ≠ 0 ∧ 0 < 4096 ∧ (s.eth.qp 0).state = .ready ∧ (s.eth.qp 0).epsn = 0 ∧ (m5 [] id).eth.port 1 = {} ∧
     s.rowReaches (.mctp false 0x20) (blockOff 0x08 + 1 * 0x40) (.portCtl 1) ∧ s.rowReaches (.roce 0) (blockOff 0x08 + 1 * 0x40) (.portCtl 1) ∧
     s.regCheck (.portCtl 1) 1 = 0 ∧ bit 1 0 = true ∧ s.regCheck (.portCtl 1) 0 = 0 ∧ bit 0 0 = false ∧
     (m5 [] id).rowReaches (.mctp false 0x20) (blockOff 0x08 + 1 * 0x40) (.portCtl 1) ∧ (m5 [] id).regCheck (.portCtl 1) 0 = 0 ∧
     ((m5 [] id).eth.port 1).up = false ∧ ((m5 [] id).eth.port 1).andone = false) ∧
    (let s := { m5 [] id with eth := { (m5 [] id).eth with ports := Vector.replicate 4 { ctl := 0x10001 } } }
     s.portMay 0 = true ∧ (s.eth.port 0).up = false) ∧
    (let s := mQueue queue0 qp0
     let full : State := { s with lan := { s.lan with boxes := Vector.replicate 32 { full := true } } }
     let reach := fun (p : Path) (m o n : Nat) (wr : Bool) =>
       s.boxesUp && s.through p (s.spellings (boxBase + m * 4096 + o)) n wr && s.boxPath p
     reach (.roce 0) 15 0 64 true = true ∧ reach (.mctp false 0x20) 15 60 4 true = true ∧ reach (.mailbox 0) 31 56 8 true = true ∧
     isSender (.roce 0) 15 = true ∧ isSender (.mctp false 0x20) 15 = true ∧ isSender (.mailbox 0) 31 = true ∧ (s.lan.box 31).full = false ∧
     (s.lan.box 15).full = false ∧ reach (.roce 0) 15 0x40 4 true = true ∧ reach (.mailbox 0) 31 0x40 4 true = true ∧ (s.eth.queue 0).addr ≠ 0 ∧
     (full.lan.box 15).full = true ∧ full.boxesUp = true ∧ full.through (.roce 0) (full.spellings (boxBase + 15 * 4096 + 0x40)) 4 true = true ∧
     isSender (.roce 0) 31 = false ∧ reach (.roce 0) 31 0x40 4 true = true ∧ (1 : W32).toNat ≤ 1 ∧ 1 < (2 : W32).toNat ∧
     reach (.roce 0) 31 0x40 4 false = true ∧ reach (.mailbox 0) 15 0x40 4 false = true ∧ isSender (.mailbox 0) 15 = false) := by
  refine ⟨?_, ?_, ?_⟩ <;> decide +kernel

/-- The endpoint and the terminus answer; a vendor message with an entry, and ones refused with the journal up and not; sensors that are
on and off, measured and not, with and without a receiver. -/
theorem wit_ManagementMessagesComplete :
    (let s := m5 [] id
     let e := layout 64 [(0, 2, 1), (4, 2, 7)]
     let h := { entryCmd (.mctp true 0x20) e with flags := (entryCmd (.mctp true 0x20) e).flags / 2 * 2 }
     1 ≤ s.sec.stage ∧ 2 ≤ s.sec.stage ∧ s.sec.stage ≠ 6 ∧ s.vendorId = 0 ∧ e.length = 64 ∧ h.frec = 0 ∧
     entryBad e (entryCmd (.mctp true 0x20) e) = false ∧ s.gate (.mctp true 0x20) h.opc ≠ .deny ∧ firmwareOpc h.opc = false ∧
     21 ∉ s.lan.sensorsOff ∧ s.journalUp = true ∧ s.vendorId ≠ 1 ∧ (s.dmp.measured 19).isSome = true ∧ (s.dmp.measured 0).isNone = true ∧
     lookup [(0, 1200)] 0 = some 1200) ∧
    (let s := { m5 [] id with lan := { (m5 [] id).lan with evReceiver := 8, sensorsOff := [3] }, sec := { (m5 [] id).sec with stage := 2 } }
     s.vendorId ≠ 1 ∧ s.journalUp = false ∧ 3 ∈ s.lan.sensorsOff ∧ 4 ∉ s.lan.sensorsOff ∧ s.lan.evReceiver ≠ 0) := by decide +kernel

/-! ### Witnesses: registers, background work, the Damper, bivouac mode, the board -/

/-- Register writes that are taken, by the sideband and by a queue pair, one whose value is refused, one with a reserved bit set, one of 4
bytes, one that names another module, in a window and in none. -/
theorem wit_RegisterWriteTakesEffect :
    let s := mQueue queue0 qp0
    let p : Path := .mctp false 0x20
    let a : W64 := BitVec.ofNat 64 (0xFFFF * 2 ^ 48 + blockOff 0x01)
    let b : W64 := BitVec.ofNat 64 (5 * 2 ^ 48 + blockOff 0x01)
    let c : W64 := BitVec.ofNat 64 (6 * 2 ^ 48 + blockOff 0x01)
    (s.names p b.toNat = false ∧ s.regsUp = true ∧ s.names (.roce 0) b.toNat = false ∧ s.through (.roce 0) [b.toNat] 8 true = true ∧
      s.carries 0 = true ∧ s.through (.roce 0) [c.toNat] 8 true = false) ∧
    ([p, .roce 0].all fun q => s.names q a.toNat && s.through q [a.toNat] 8 true && s.through q [a.toNat] 4 true && decide (s.reaches q .cap)) = true ∧
    localOf a.toNat = blockOff 0x01 ∧ regAt (blockOff 0x01) = some .cap ∧ blockOff 0x01 % 8 = 0 ∧ s.regCheck .cap 700 = 0 ∧ s.regCheck .cap 100 ≠ 0 ∧
    2 ^ 40 &&& Reg.res0 .cap ≠ 0 := by
  decide +kernel

/-- What a read of a save window answers: 0 for bytes, 1 for a word that cannot be corrected. -/
def windowOutcome (c : Core) (me o n : Nat) : Nat :=
  match c.windowRead me o n with
  | (_, .ok _) => 0
  | (_, .error _) => 1

/-- Every register of these rows is reached by the sideband and by a queue pair of the operator, with values in order at the ends of their
ranges; nothing is in use; and save windows are read and written. -/
theorem wit_SlotAndUnitRegisterWritesComplete :
    (let s := mQueue queue0 qp0
     ([(.mctp false 0x20), .roce 0] : List Path).all (fun p =>
      (([(blockOff 0x0B + 0x20008, .slot 0 .fpflags), (blockOff 0x0B + 0x20000, .slot 0 .numctl), (blockOff 0x02 + 0x40C00, .slot 0 (.histctl 3)),
        (blockOff 0x02 + 0x10000, .slot 0 .fitstat), (blockOff 0x02 + 0x10800, .slot 0 .rcpstat), (blockOff 0x0B + 0x30000, .slot 0 .fltring),
        (blockOff 0x0B + 0x30008, .slot 0 .fltstat), (blockOff 0x0D + 0x1000 + 63 * 16, .eccCnt 63), (blockOff 0x00 + 0x128, .alert),
        (blockOff 0x05 + 7 * 16 + 8, .smpCtl 7), (blockOff 0x0D, .hbmmap), (blockOff 0x03, .slotPart), (blockOff 0x07, .devnum),
        (blockOff 0x07 + 8, .rtCtl), (blockOff 0x07 + 0x28, .nymStall), (blockOff 0x01, .cap)] : List (Nat × Reg)).all fun r =>
          decide (s.rowReaches p r.1 r.2))) = true) ∧
    (let s := mQueue queue0 qp0
     let p : Path := .mctp false 0x20
     127 < 128 ∧ 1 < 2 ∧
     ([0xFBCE, 0x03FF] : List Nat).all (fun b => bits (b * 2 ^ 32 + 3) 48 16 == 0 && bits (b * 2 ^ 32 + 3) 2 30 == 0 &&
       decide (-1074 ≤ signed (bits (b * 2 ^ 32 + 3) 32 16) 16) && decide (signed (bits (b * 2 ^ 32 + 3) 32 16) 16 ≤ 1023)) = true ∧
     bits (2 ^ 63) 40 23 = 0 ∧ bit (2 ^ 63) 63 = true ∧ bits (0x40000000 + 12) 4 8 = 0 ∧ 4 ≤ (0x40000000 + 12) % 16 ∧ (0x40000000 + 12) % 16 ≤ 12 ∧
     bits 0 48 16 = 0 ∧ ((s.core.slotNum 0).head + 65536 - bits 0 16 16) % 65536 ≤ 2 ^ (s.core.slotNum 0).ringLog ∧
     (s.core.mapChanges 0xFFFFFFFFFFFF).any s.core.setInUse = false ∧
     (∀ j, j < 16 → bits 0xFFFFFFFFFFFFFF00 (4 * j) 4 < 8 ∨ bits 0xFFFFFFFFFFFFFF00 (4 * j) 4 = 15) ∧ s.nym.tables = false ∧
     s.nym.links.toList.any (fun l => l.state == 1 || l.state == 2) = false ∧ s.nym.pstate ≠ 1 ∧ s.nym.oldLive = false ∧ 0x40000000 % 4096 = 0 ∧
     ({ s.nym with pstate := 2 } : Nym).pstate = 2 ∧ 600 ≤ (2500 : W64).toNat ∧ s.regsUp = true ∧ s.core.pathPart p = none ∧ s.lan.bivActive = false) ∧
    (let c := (m5 [] id).core
     let bad : Core := { c with ecc := { c.ecc with bad := [(windowSpace 5 false).off + 0x1FFFC0 / 64] } }
     c.strandOn 5 = false ∧ 0x27FFC0 % 64 = 0 ∧ 0x27FFC0 + (List.replicate 64 (0 : Byte)).length ≤ 0x280000 ∧ 0x1FFFC0 + 128 ≤ 0x280000 ∧
     windowOutcome c 5 0x1FFFC0 128 = 0 ∧ bad.strandOn 5 = false ∧ windowOutcome bad 5 0x1FFFC0 128 = 1) := by
  refine ⟨?_, ?_, ?_⟩ <;> decide +kernel

/-- Words of memory with and without errors, a region to clear at its first and its last word, one of LPDDR5X in bivouac mode, units trained
and not, an entry to copy that reads and one that does not, and periodic telemetry. -/
theorem wit_BackgroundWorkCompletes :
    (let s := m5 [] id
     let e : State := { s with core := { s.core with ecc := { errs := [(s.core.space.off + 0x3000 / 64, [(5, 1)])] } } }
     s.scrubs 0x3000 = true ∧ s.wordAt 0x3000 = some (.main, 0x3000) ∧ errWords (WordPlace.main.space s.core) s.core.ecc 0x3000 64 = [] ∧
     e.scrubs 0x3000 = true ∧ e.wordAt 0x3000 = some (.main, 0x3000) ∧ errWords (WordPlace.main.space e.core) e.core.ecc 0x3000 64 ≠ [] ∧
     s.core.ecc.uncleared.any (fun r => r.1 ≤ s.core.space.off + 0x3000 / 64 && s.core.space.off + 0x3000 / 64 < r.2) = false ∧
     lookup s.core.ecc.errs (s.core.space.off + 0x3000 / 64) = none ∧ (1 : Byte) ≠ 0 ∧ (areaOf 0x3000).1 = .hbm) ∧
    (let at' := fun (b : Bool) (l : List (Nat × Nat × Nat)) =>
       ({ m5 [] id with bg := { (m5 [] id).bg with clearing := l }, lan := { (m5 [] id).lan with bivActive := b } } : State)
     (at' false [(2, 1, 0)]).bgRuns = true ∧ (at' false [(2, 1, 0)]).clearingNow = some (2, 1, 0) ∧ 0 + 64 < 0x40000000 ∧
     (at' false [(2, 1, 0x3FFFFFC0)]).clearingNow = some (2, 1, 0x3FFFFFC0) ∧ 0x40000000 ≤ 0x3FFFFFC0 + 64 ∧
     (at' true [(2, 1, 0), (3, 0, 64)]).bgRuns = true ∧ (at' true [(2, 1, 0), (3, 0, 64)]).clearingNow = some (3, 0, 64)) ∧
    (let s := m5 [] id
     let t : State := { s with bg := { s.bg with trained := [(0, 50)] } }
     s.trains 0 = true ∧ lookup s.bg.trained 0 = none ∧ t.trains 0 = true ∧ lookup t.bg.trained 0 = some 50 ∧ -10 < (59 : Int) - 50 ∧
     (59 : Int) - 50 < 10 ∧ s.bgRuns = true ∧ s.damperUp = true ∧ 2 ≤ s.sec.stage ∧ s.sec.stage ≠ 6 ∧
     ({ s with lan := { s.lan with telEn := true } } : State).bgRuns = true) ∧
    (let s := (m5 [] id).journal Src.lantern { kind := 6 }
     let n := (s.core.jnl.copyNext).getD 0
     let e := { s.core.ecc with bad := [s.core.space.off + ringSlot n / 64] }
     s.board.resetN = true ∧ s.sec.journalled = true ∧ s.core.jnl.ringLost = false ∧ s.core.jnl.copyNext = some n ∧
     (scanRange s.core.space s.core.mem s.core.ecc (ringSlot n) 128).2.2 = none ∧
     (scanRange s.core.space s.core.mem e (ringSlot n) 128).2.2.isSome = true) := by
  refine ⟨?_, ?_, ?_, ?_⟩ <;> decide +kernel

/-- Dies that are powered, at a voltage that has settled, cool and hot; windows of measurements whose fit is in and out of range; and
contexts that wait on members. -/
theorem wit_DamperCompletes :
    (let s := m5 [] id
     s.damperUp = true ∧ (s.dmp.die 7).powered = true ∧ s.lan.bivActive = false ∧ s.dmp.pwrbrk = false ∧
     12 ≤ validCount (sampleAll (s.dmp.die 0).sensors (List.replicate 16 60)) ∧ (s.dmp.die 0).temp < 186 ∧ s.dmp.window = [] ∧ hottest s.dmp.hub none < 190 ∧
     (190 ≤ ({ s.dmp.die 0 with temp := 190 } : Die).temp) ∧
     (let x : Die := { powered := true, rising := true, op := 3, target := 5, since := 10 }
      x.powered = true ∧ x.rising = true ∧ x.op < x.target ∧ x.since = 10)) ∧
    (let out := fun (d : Dmp) => let f := d.fit
       decide (f.1.1 * 10 < f.1.2 * 8 ∨ f.1.2 * 125 < f.1.1 * 100 ∨ 150 * f.2.2 < f.2.1 ∨ f.2.1 < -150 * f.2.2)
     out { window := [(1000, 1000000, 1)] } = true ∧ out { window := [(1000, 1000, 1)] } = false ∧
     ({ window := [(10000, 300000, 0)] } : Dmp).excess = true) ∧
    (mColl [{ op0 0 [] [] [] with fin := none }]).core.waitsOnMembers = true := by decide +kernel

/-- A module that is up, with a die too hot at its lowest ceiling, power in excess, and an image to restart from; and an entry under way. -/
theorem wit_BivouacCausesComplete :
    (let s := m5 [] id
     s.damperUp = true ∧ 2 ≤ s.sec.stage ∧ s.sec.stage ≠ 6 ∧ (s.dmp.die 3).powered = true ∧ s.board.corePower = true ∧ s.lan.bivActive = false ∧
     (let x : Die := { powered := true, thceil := 0, temp := 200 }
      x.powered = true ∧ x.thceil = 0 ∧ 200 ≤ x.temp) ∧ ((s.bivouac 1).lan.stopping = true)) ∧
    (({ mFw [] with sec := { (mFw []).sec with minsec := 3 } } : State).startImage 3).sec.stage = 2 :=
  ⟨by decide +kernel, start_ok (o := objI) (dir0 rfl rfl) rfl (mFw_slot _ ⟨rfl, rfl⟩) rfl⟩

/-- Boards before power, in reset, with the deassertion held, and at each stage of boot, in and out of bivouac mode. -/
theorem wit_BoardEventsComplete :
    (let s := m5 [] id
     let at' := fun n => ({ s with sec := { s.sec with stage := n } } : State)
     s.board.resetN = true ∧ s.sec.restart = false ∧ [0, 1, 2, 3, 4].all (fun n => (at' n).sec.stage == n) = true ∧ s.lan.bivActive = false ∧
     s.board.refclk = true ∧ ({ s with lan := { s.lan with bivActive := true } } : State).lan.bivActive = true ∧
     s.board.thermtrip = false ∧ s.board.on = true ∧ s.board.island = true ∧ s.board.brk = false ∧ s.damperUp = true ∧
     s.board.wantOn = false ∧ s.board.rawPwrbrk ≠ true ∧ s.board.pgood = true ∧ s.board.settled = true ∧ s.board.heldReset = false) ∧
    (let b : Board := { rawPwrbrk := true, refclk := false }
     b.resetN = false ∧ b.pgood = false ∧ b.on = false ∧ b.island = true ∧ b.offTime = false ∧ b.wantOn = false ∧ b.rawPwrbrk = true ∧ b.brk = false ∧
     b.refclk = false) ∧
    (let b : Board := { on := true, rails := true, pgood := true, settled := true, heldReset := true }
     b.resetN = false ∧ b.pgood = true ∧ b.settled = true ∧ b.heldReset = true) ∧
    (let b : Board := { on := true }
     b.on = true ∧ b.input = true ∧ b.overvolt = false ∧ b.refclk = true ∧ b.mgtclk = true ∧ b.ethclk = true ∧ b.pgood = false) ∧
    (let x : Sec := { trial := true, stage := 3 }
     x.trial = true ∧ 2 ≤ x.stage ∧ x.stage < 5 ∧ x.restart = false) ∧
    (let b : Board := { wantOn := true }
     b.wantOn = true ∧ b.island = true) := by decide +kernel

/-! ### Witnesses: rules of the machine as a whole -/

/-- A queue with a command in front. -/
theorem wit_StepRunsTheFrontCommand :
    ({ State.reset with pending := [.refclkReturn, .bindingComplete] } : State).pending = .refclkReturn :: [.bindingComplete] ∧ State.reset.pending = [] :=
  ⟨rfl, rfl⟩

/-- A command that changes State and leaves the command behind it. -/
theorem wit_CommandsKeepTheQueue :
    ∃ s', exec .refclkReturn { State.reset with pending := [.bindingComplete] } = .next s' ∧ s'.pending = [.bindingComplete] :=
  ⟨_, rfl, rfl⟩

/-- The order holds at reset and with power on, and a command answers. -/
theorem wit_PowerOrderIsKept : State.reset.powerOrder ∧ (m5 [] id).powerOrder ∧ ∃ s', exec .refclkReturn (m5 [] id) = .next s' := by
  refine ⟨?_, ?_, _, rfl⟩ <;> (unfold State.powerOrder State.tripSafe; decide +kernel)

/-- A module in bivouac mode that RESET_N takes out of it. -/
theorem wit_BivouacIsLeftOnlyByExitOrReset :
    let s := { m5 [] id with lan := { (m5 [] id).lan with bivActive := true } }
    s.lan.bivActive = true ∧ (match exec .resetNAssert s with
      | .next s' => !s'.lan.bivActive
      | _ => false) = true := by decide +kernel

/-- The word of SMOVI s5, 0x1234. -/
theorem wit_DecodeOfEncode :
    let b := ins 1 5 0 0 0 0 0x1234
    insParts (.smovi t0 b) = some (t0, 0x06, b) ∧ (encodeIns (.smovi t0 b)).isSome = true ∧ decodeIns t0 ((encodeIns (.smovi t0 b)).getD 0) = some (.smovi t0 b) := by
  decide +kernel

/-- Two grains of two elements, and a last one. -/
theorem wit_TreeStackGivesCanonicalSum :
    ([1, 2] : List Nat).length = 2 ∧ (∀ p ∈ ([[0x3F800000, 0], [0x40000000, 0]] : List (List Nat)), p.length = 2) ∧ 1 < 2 := by decide

/-- A uniform draw that executes. -/
theorem wit_UniformValuesAreExact : runs (m0 [] [] []) (ins 0 1 2 3 4 0 0) 0x79 (fun _ => true) = true ∧ 0xFFFFFFFF < 2 ^ 32 := by decide +kernel

/-- A launch of two strands that has room. -/
theorem wit_LaunchSetsTheRegisters :
    (let s := m5 [] fun cx => { cx with launches := [launch0] }
     ((lookup s.core.ctxs 0).any fun cx => cx.live && cx.launches.find? (fun l => l.base.isNone) == some launch0 && cx.freeBase launch0.count == some 0 &&
       (lookup s.core.packs cx.pack).any (fun p => (p.entries[launch0.entry]?).any fun e =>
         !cx.launches.any fun o => o.base.isSome && (p.entries[o.entry]?).any fun oe => e.conflicts oe)) = true) ∧ 1 < launch0.count := by
  decide +kernel

/-! ### Ill-formed commands, reset, and words -/

/-- Each check of `wellFormed` refuses a term that breaks it. -/
theorem test_ill_formed :
    let p : Path := .mctp false 0x20
    let h := hc 1 []
    [wellFormed (.nopCommand h), wellFormed (.flitReceived 0 flit0 false), wellFormed (.mailboxDataWrite p 0 0 [0, 0, 0, 0])].all id = true ∧
    [.nopCommand { h with args := [0] }, .nopCommand { h with opc := 65536 }, .nopCommand { h with flags := 256 }, .nopCommand { h with id := 65536 },
      .nopCommand { h with ctx := 65536 }, .nopCommand { h with frec := 2 ^ 64 }, .nopCommand { h with path := .roce 4096 },
      .nopCommand { h with path := .mailbox 16 }, .nopCommand { h with path := .mctp true 128 }, .flitReceived 0 [1] false,
      .tableVectorReceived 0 { epoch := 65536, dirs := List.replicate 24 0, entries := [] },
      .tableVectorReceived 0 { epoch := 1, dirs := [], entries := [] },
      .tableVectorReceived 0 { epoch := 1, dirs := List.replicate 24 3, entries := [] },
      .tableVectorReceived 0 { epoch := 1, dirs := List.replicate 24 0, entries := [(65536, 0, 0)] },
      .tableVectorReceived 0 { epoch := 1, dirs := List.replicate 24 0, entries := [(1, 32, 0)] },
      .tableVectorReceived 0 { epoch := 1, dirs := List.replicate 24 0, entries := [(1, 0, 65536)] },
      .linkTrained 0 65536 0 ⟨0, []⟩, .linkTrained 0 0 256 ⟨0, []⟩, .linkTrained 0 0 0 ⟨32, []⟩, .linkTrained 0 0 0 ⟨0, [65536]⟩, .retryRequestReceived 0 65536, .rdmaReadReceived 0 0 0 (2 ^ 31 + 1),
      .mctpVendorMessage false 128 0 (List.replicate 64 0), .mctpVendorMessage false 0 0 [], .mailboxDataWrite p 0 4096 [], .mailboxDataWrite (.roce 4096) 0 0 [],
      .mailboxDataWrite p 0 0 (List.replicate 65 0), .mailboxSend (.mailbox 16) 0 1, .mailboxTake (.mailbox 16) 0, .registerWrite p 0 9 0,
      .registerWrite (.roce 4096) 0 8 0, .sensorSample 0 [] 0, .decodeRequestAccept t0 0 (2 ^ 32)].all (fun i => !wellFormed i) = true := by decide +kernel

/-- Panels and RDMA writes of more than 2^31 bytes are refused, without the bytes. -/
theorem test_ill_formed_lengths (d : List Byte) (h : 2 ^ 31 < d.length) :
    wellFormed (.panelArrival t0 d) = false ∧ wellFormed (.rdmaWriteReceived 0 0 0 d) = false := by
  have : ¬ d.length ≤ 2 ^ 31 := Nat.not_le.2 h
  constructor <;> simp only [wellFormed] <;> exact decide_eq_false this

/-- Memory in the state after reset is canonical and lists no byte; the queue is empty; RESET_N is asserted (R407). -/
theorem test_reset : State.reset.core.mem.cells = [] ∧ State.reset.core.mem.wf = true ∧ State.reset.pending = [] ∧ State.reset.board.resetN = false := by
  decide +kernel

/-- From reset the deassertion of RESET_N starts boot at stage 0, and the first stage of boot ends in stage 1. -/
theorem test_boot_begins :
    (match step { State.reset with pending := [.resetNDeassert] } with
      | .next s => s.board.resetN && s.sec.stage == 0
      | _ => false) = true ∧
    (match step { State.reset with board := { State.reset.board with resetN := true }, pending := [.bootStageAdvance] } with
      | .next s => s.sec.stage == 1
      | _ => false) = true := by decide +kernel

/-- The table gives its rows no bits: no word spells a command, and the queue stays. -/
theorem test_table_words : decodeTableWord 8 0 = none ∧ (State.reset.withFetchWord 32 7) = State.reset := by decide +kernel

/-! Words written out field by field from Tables 5.1 to 5.5 and the opcode tables 5.7 to 5.21: OPCODE [7:0], class [9:8], PRED [15:12],
op1 [23:17], op2 [30:24], op3 [37:31], op4 [44:38], FUNC [55:48]. -/

/-- VRED.F64 of a pair under a mask, TLD, PTPUB, SAMPLE, PRESS, COLL of FUNC 3, ATTN, FWAIT and RGWR, each with its fields. -/
theorem test_decode :
    let w : List Nat := [0x80 * 2 ^ 48 + 1 * 2 ^ 47 + 7 * 2 ^ 24 + 6 * 2 ^ 17 + 0x24, 5 * 2 ^ 24 + 2 * 2 ^ 17 + 0x44,
      4 * 2 ^ 31 + 3 * 2 ^ 24 + 0x70, 2 * 2 ^ 24 + 1 * 2 ^ 17 + 0x7C, 2 * 2 ^ 24 + 0x80, 3 * 2 ^ 48 + 4 * 2 ^ 38 + 0x88, 6 * 2 ^ 38 + 0x62,
      4 * 2 ^ 48 + 3 * 2 ^ 31 + 2 * 2 ^ 24 + 0xA3, 3 * 2 ^ 31 + 2 * 2 ^ 24 + 0xC3]
    let b : Nat → Body := fun n => BitVec.ofNat 120 (w.getD n 0 / 256)
    w.map (fun x => decodeIns t0 (BitVec.ofNat 128 x)) = [some (.vred t0 (b 0)), some (.tld t0 (b 1)), some (.ptpub t0 (b 2)),
      some (.sample t0 (b 3)), some (.press t0 (b 4)), some (.coll t0 (b 5)), some (.attn t0 (b 6)), some (.fwait t0 (b 7)), some (.rgwr t0 (b 8))] ∧
    (insOf (b 0)).func = 0x80 ∧ (insOf (b 0)).mask = true ∧ (insOf (b 0)).op1 = 6 ∧ (insOf (b 0)).op2 = 7 ∧ (insOf (b 1)).op1 = 2 ∧
    (insOf (b 2)).op2 = 3 ∧ (insOf (b 2)).op3 = 4 ∧ (insOf (b 3)).op1 = 1 ∧ (insOf (b 3)).op2 = 2 ∧ (insOf (b 4)).op2 = 2 ∧
    (insOf (b 5)).func = 3 ∧ (insOf (b 5)).op4 = 4 ∧ (insOf (b 6)).op4 = 6 ∧ (insOf (b 7)).func = 4 ∧ (insOf (b 8)).op3 = 3 :=
  ⟨rfl, by decide +kernel⟩

/-! Values worked by hand. -/

/-- CRC-32 and CRC-32C of the nine ASCII digits: the check values of their polynomials. -/
theorem test_crcs : crc32 (span 0x31 9 |>.map (BitVec.ofNat 8)) = 0xCBF43926 ∧ crc32c (span 0x31 9 |>.map (BitVec.ofNat 8)) = 0xE3069283 := by
  decide +kernel

/-- FP32: 1 + 2^-24 is a tie to even, 1; 1 + 3 · 2^-24 is a tie to 1 + 2^-22; the largest number doubled overflows to infinity; the difference of
infinities gives the canonical NaN (R51, R52). -/
theorem test_fp32 :
    (fadd 0x3F800000 0x33800000).1 = 0x3F800000 ∧ (fadd 0x3F800001 0x33800000).1 = 0x3F800002 ∧ (fadd 0x7F7FFFFF 0x7F7FFFFF).1 = 0x7F800000 ∧
    (fadd 0x7F800000 0xFF800000).1 = 0x7FC00000 := by decide +kernel

/-- SALU adds modulo 2^64, and shifts take the count modulo 64 (Table 5.8). -/
theorem test_salu : salu 0 (2 ^ 64 - 1) 1 = 0 := by decide +kernel

/-- g(x) is x⁴ + 0x0F x³ + 0x36 x² + 0x78 x + 0x40 by multiplying its four factors out; a codeword has zero syndromes, and those of
one wrong symbol, data byte 7 at x^64, α^(64·j) times its value, identify it (R259, R260). -/
theorem test_symbol_code :
    codeGen = [0x0F, 0x36, 0x78, 0x40] ∧ syndromes (codeword (List.replicate 63 0x5A ++ [1])) = [0, 0, 0, 0] ∧
    oneSymbol ((List.range 4).map (fun j => gfShift 0xA5 (64 * j))) = some (7, 0xA5) := by decide +kernel

/-! Worked examples of the spec. -/

/-- R222 and Table 10.1: the words of the test vector, and the uniform value of its first. -/
theorem test_tinder : tinder 0 0 0 0 = [0x77C9C05A, 0x9022A126, 0xA387753F, 0x8EDC548C] ∧ uniform32 0x77C9C05A = 0x3EEF9382 := by decide +kernel

/-- The example of chapter 02: 250 and 3/1024 into F8e4 under RNE, RTZ and SR, with their flags (Table 2.20). -/
theorem test_round_f8e4 :
    (roundNum (floatFmt 5) 0 true 0 (.fin false 250 0)).1 = 0x78 ∧ (roundNum (floatFmt 5) 0 true 0 (.fin false 3 (-10))).1 = 0x02 ∧
    (roundNum (floatFmt 5) 1 true 0 (.fin false 3 (-10))).1 = 0x01 ∧ (roundNum (floatFmt 5) 4 true 0x9E3779B9 (.fin false 3 (-10))).1 = 0x02 ∧
    (roundNum (floatFmt 5) 4 true 0x12345678 (.fin false 3 (-10))).1 = 0x01 ∧
    (roundNum (floatFmt 5) 0 true 0 (.fin false 250 0)).2.flags = fINEXACT ∧
    (roundNum (floatFmt 5) 0 true 0 (.fin false 3 (-10))).2.flags = fINEXACT ||| fUNDERFLOW := by decide +kernel

/-- The example of chapter 03 (Table 3.10): the grains 2^40, 0.5, 0.5 and −2^40 sum to 0.5 by push_node and finish. -/
theorem test_four_grains :
    let enc := fun (m : Nat) (neg : Bool) (e : Int) => (roundNum accFmt 0 false 0 (.fin neg m e)).1
    let ps : List (List Nat) := [[enc 1 false 40], [enc 1 false (-1)], [enc 1 false (-1)]]
    let st := (ps.zipIdx.foldl (fun (r : List Node × List (Nat × Ev)) p => pushNode .acc false false r.1 ⟨0, p.2, p.1⟩ r.2) ([], [])).1
    (finishNode .acc false false st [enc 1 true 40]).1 = [enc 1 false (-1)] := by decide +kernel

/-- The example of chapter 05: the bytes of an MMA, with the fields of Table 5.23. -/
theorem test_mma_word :
    decodeIns t0 (BitVec.ofNat 128 (ofLE [0x51, 0x22, 0x10, 0x06, 0, 0, 0, 0, 0, 0, 0, 0x10, 0xFC, 0x2A, 0, 0])) =
      some (.mma t0 (BitVec.ofNat 120 (0x00002AFC100000000000000006102251 / 256))) ∧
    (let i := insOf (BitVec.ofNat 120 (0x00002AFC100000000000000006102251 / 256))
     i.pred = 2 ∧ i.psense = false ∧ i.op1 = 8 ∧ i.op2 = 6 ∧ i.ospa = 0 ∧ i.ospb = 0x8000 ∧ i.n = 32 ∧ i.afmt = 5 ∧ i.bfmt = 5) := by decide +kernel

end Sys2Proof.Tests
end

section
/-! The two statements of chapter 04: the CAP block (R114) and the registers a launch starts with (R89). -/
namespace Sys2Proof.Machine

/-! ### The CAP block -/

/-- No register of a slot lies in the CAP block. -/
theorem slotRegOf_capBlock (o : Nat) : slotRegOf (blockOff 0x10 + o) = none := by
  unfold slotRegOf blockOff
  generalize mgmtBase = m
  dsimp only
  rw [if_neg (by omega), if_neg (by omega), if_neg (by omega), if_neg (by omega), if_neg (by omega)]

/-- An address of the CAP block names the register at its offset (R98). -/
theorem regAt_capBlock {o : Nat} (h : o < 0x1000000) : regAt (blockOff 0x10 + o) = blockReg 0x10 o := by
  have hend : mgmtEnd = mgmtBase + 0x11000000 := by decide
  have hbase : mgmtBase % 0x1000000 = 0 := by decide
  have hoff : blockOff 0x10 = mgmtBase + 0x10000000 := by simp only [blockOff]
  have hblock : (blockOff 0x10 + o - mgmtBase) / 0x1000000 = 0x10 := by omega
  have hreg : (blockOff 0x10 + o) % 0x1000000 = o := by omega
  unfold regAt
  rw [slotRegOf_capBlock, if_pos (by omega), hblock, hreg]

/-- CAP_VERSION reads one word in every state (Table 4.11). -/
@[simp] theorem State.regRead_capVersion (s : State) : s.regRead .capVersion = 0x400A0100 := rfl

/-- CAP_MASK0 reads its 15 capabilities in every state (Table 4.12). -/
@[simp] theorem State.regRead_capMask_zero (s : State) : s.regRead (.capMask 0) = 2 ^ 15 - 1 := rfl

/-- CAP_MASK1 reads as zero in every state. -/
@[simp] theorem State.regRead_capMask_one (s : State) : s.regRead (.capMask 1) = 0 := rfl

/-- Bit `i` of a number is the library's. -/
theorem bit_eq_testBit (x i : Nat) : bit x i = x.testBit i := by
  rw [bit, Nat.testBit_eq_decide_div_mod_eq, Bool.beq_eq_decide_eq]

/-- Settles O58: an offset below the size of a block names the block's own register, and what those three read does not look at
the state. -/
theorem capabilitiesReadAsStated : Obligations.CapabilitiesReadAsStated := by
  refine ⟨regAt_capBlock (o := 0) (by decide), regAt_capBlock (o := 8) (by decide), regAt_capBlock (o := 16) (by decide), fun s => ?_⟩
  simp only [State.regRead_capVersion, State.regRead_capMask_zero, State.regRead_capMask_one, bit_eq_testBit, Nat.testBit_two_pow_sub_one,
    implies_true, and_true, true_and]
  decide

/-! ### A started launch -/

@[simp] theorem lookup_nil {α : Type} (k : Nat) : lookup ([] : List (Nat × α)) k = none := rfl

theorem lookup_cons {α : Type} (k' k : Nat) (v : α) (l : List (Nat × α)) :
    lookup ((k', v) :: l) k = if k' = k then some v else lookup l k := by
  by_cases h : k' = k
  · simp [lookup, h]
  · simp [lookup, h]

/-- What an association list holds at a key after an entry is set: the new value at the entry's key, and at the others what it held. -/
theorem lookup_insertKey {α : Type} (k j : Nat) (v : α) (l : List (Nat × α)) :
    lookup (insertKey k v l) j = if k = j then some v else lookup l j := by
  induction l with
  | nil => simp [insertKey, lookup_cons]
  | cons p l ih =>
    obtain ⟨k', v'⟩ := p
    rw [insertKey]
    split
    case isTrue => rw [lookup_cons]
    case isFalse =>
      split
      case isTrue heq =>
        subst heq
        simp only [lookup_cons]
        split <;> rfl
      case isFalse hne =>
        rw [lookup_cons, lookup_cons, ih]
        by_cases hj : k = j
        · rw [if_pos hj, if_pos hj, if_neg (by omega)]
        · rw [if_neg hj, if_neg hj]

/-- Entries set at the keys `b`, `b + 1`, … are found there. -/
theorem lookup_foldl_insertKey {α : Type} (f : Nat → α) (b n i : Nat) (m : List (Nat × α)) (hi : i < n) :
    lookup ((List.range n).foldl (fun m r => insertKey (b + r) (f r) m) m) (b + i) = some (f i) := by
  induction n with
  | zero => omega
  | succ n ih =>
    rw [List.range_succ, List.foldl_append, List.foldl_cons, List.foldl_nil, lookup_insertKey]
    split
    case isTrue h => rw [Nat.add_left_cancel h]
    case isFalse h => exact ih (by omega)

/-- LAUNCH_START leaves the tile memories of a context (R90). -/
@[simp] theorem Context.start_tiles (cx : Context) (p : Pack) : (cx.start p).tiles = cx.tiles := by
  unfold Context.start
  split
  · rfl
  · split
    · split <;> rfl
    · rfl

/-- The strands of a context once its first waiting launch, which has room and no conflict, is started (R85, R191). -/
theorem Context.start_strands {cx : Context} {p : Pack} {l : Launch} {e : Entry} {b : Nat}
    (hl : cx.launches.find? (fun l => l.base.isNone) = some l) (he : p.entries[l.entry]? = some e) (hb : cx.freeBase l.count = some b)
    (hc : cx.launches.any (fun o => o.base.isSome && (p.entries[o.entry]?).any fun oe => e.conflicts oe) = false) :
    (cx.start p).strands = (List.range l.count).foldl (fun m r => insertKey (b + r) (newStrand l e b r) m) cx.strands := by
  unfold Context.start
  simp [hl, he, hb, hc]

/-- The scalar registers of a new strand (Table 4.1). -/
theorem newStrand_s (l : Launch) (e : Entry) (b r n : Nat) (h : n < 32) : (newStrand l e b r).s.toList[n]? =
    some (if n = 3 then BitVec.ofNat 64 l.count else if n = 2 then BitVec.ofNat 64 r else if n = 1 then BitVec.ofNat 64 l.arg else 0) := by
  simp only [newStrand, Vector.getElem?_toList, Vector.getElem?_eq_getElem h, Vector.getElem_set, Vector.getElem_replicate, eq_comm]

/-- The predicate registers of a new strand: p0 alone is true (Table 4.1). -/
theorem newStrand_p (l : Launch) (e : Entry) (b r n : Nat) (h : n < 8) :
    (newStrand l e b r).p.toList[n]? = some (if n = 0 then true else false) := by
  simp only [newStrand, Vector.getElem?_toList, Vector.getElem?_eq_getElem h, Vector.getElem_set, Vector.getElem_replicate, eq_comm]

/-- Settles O59: the strand that a launch enters at index `b + i` is `newStrand` of rank `i`, whatever the context held. -/
theorem launchSetsTheRegisters : Obligations.LaunchSetsTheRegisters := by
  intro s k cx p l e b i _ _ _ hl he hb hc hi
  refine ⟨cx.start_tiles p, newStrand l e b i, ?_, ?_⟩
  · rw [Context.start_strands hl he hb hc]
    exact lookup_foldl_insertKey (newStrand l e b) b l.count i cx.strands hi
  · have hs := newStrand_s l e b i
    have hp := newStrand_p l e b i
    refine ⟨hs 0 (by decide), hs 1 (by decide), hs 2 (by decide), hs 3 (by decide), fun n h4 h32 => ?_, rfl, hp 0 (by decide), fun n h1 h8 => ?_,
      rfl, rfl, rfl, rfl⟩
    · rw [hs n h32, if_neg (by omega), if_neg (by omega), if_neg (by omega)]
    · rw [hp n h8, if_neg (by omega)]

end Sys2Proof.Machine
end

section
/-! The statement of chapter 10 on uniform values (R224): a value whose significand fits a format rounds to itself, and TNDU writes such
values. -/
namespace Sys2Proof.Machine

/-! ### Codes of normal numbers -/

/-- The fields of a code, one above the other (R33). -/
theorem FloatFmt.encode_eq (f : FloatFmt) (neg : Bool) (ex fr : Nat) :
    f.encode neg ex fr = fr + 2 ^ f.mbits * (ex + 2 ^ f.ebits * neg.toNat) := by
  have hsign : (if neg then 2 ^ (f.ebits + f.mbits) else 0) = 2 ^ f.mbits * (2 ^ f.ebits * neg.toNat) := by
    cases neg
    case false => rfl
    case true => rw [if_pos rfl, Bool.toNat_true, Nat.mul_one, Nat.pow_add, Nat.mul_comm]
  rw [FloatFmt.encode, hsign, Nat.mul_comm ex, Nat.mul_add]
  omega

/-- The code of a normal number decodes to its value (R33). -/
theorem FloatFmt.decode_encode_normal {f : FloatFmt} (hs : f.spec = .ieee) (neg : Bool) {ex fr : Nat} (h0 : ex ≠ 0)
    (hex : ex < 2 ^ f.ebits - 1) (hfr : fr < 2 ^ f.mbits) :
    f.decode (f.encode neg ex fr) = .fin neg (2 ^ f.mbits + fr) (ex - f.bias - f.mbits) := by
  have hm : f.encode neg ex fr / 2 ^ f.mbits = ex + 2 ^ f.ebits * neg.toNat := by
    rw [FloatFmt.encode_eq, Nat.add_mul_div_left _ _ (Nat.two_pow_pos _), Nat.div_eq_of_lt hfr, Nat.zero_add]
  have hfraction : bits (f.encode neg ex fr) 0 f.mbits = fr := by
    rw [bits, Nat.pow_zero, Nat.div_one, FloatFmt.encode_eq, Nat.add_mul_mod_self_left, Nat.mod_eq_of_lt hfr]
  have hexponent : bits (f.encode neg ex fr) f.mbits f.ebits = ex := by
    rw [bits, hm, Nat.add_mul_mod_self_left, Nat.mod_eq_of_lt (by omega)]
  have hsign : bit (f.encode neg ex fr) (f.ebits + f.mbits) = neg := by
    rw [bit, Nat.add_comm, Nat.pow_add, ← Nat.div_div_eq_div_mul, hm, Nat.add_mul_div_left _ _ (Nat.two_pow_pos _),
      Nat.div_eq_of_lt (by omega), Nat.zero_add]
    cases neg <;> rfl
  have hfinite : ¬ ex = 2 ^ f.ebits - 1 := by omega
  simp only [FloatFmt.decode, hfraction, hexponent, hsign, hs, hfinite, h0, decide_false, if_false]

/-! ### Exact rounding -/

/-- A number shifted to `b + 1` significant bits. -/
theorem shift_log2_bounds {m b : Nat} (hm : m ≠ 0) (hb : Nat.log2 m ≤ b) :
    2 ^ b ≤ m * 2 ^ (b - Nat.log2 m) ∧ m * 2 ^ (b - Nat.log2 m) < 2 ^ (b + 1) := by
  have hpos := Nat.two_pow_pos (b - Nat.log2 m)
  have lo := Nat.mul_le_mul_right (2 ^ (b - Nat.log2 m)) (Nat.log2_self_le hm)
  have hi := Nat.mul_lt_mul_of_pos_right (Nat.lt_log2_self (n := m)) hpos
  rw [← Nat.pow_add] at lo hi
  rw [show Nat.log2 m + (b - Nat.log2 m) = b by omega] at lo
  rw [show Nat.log2 m + 1 + (b - Nat.log2 m) = b + 1 by omega] at hi
  exact ⟨lo, hi⟩

/-- The 64 significant bits of a number that fits `b + 1` bits: those bits, then zeros (R46). -/
theorem sig64_of_log2_le {m b : Nat} (hb : Nat.log2 m ≤ b) (h63 : b ≤ 63) :
    sig64 m = m * 2 ^ (b - Nat.log2 m) * 2 ^ (63 - b) := by
  rw [sig64, if_pos (by omega), Nat.mul_assoc, ← Nat.pow_add, show b - Nat.log2 m + (63 - b) = 64 - (Nat.log2 m + 1) by omega]

/-- A shift that drops zeros only leaves no remainder (R46). -/
theorem keptRest_mul_two_pow (k : Nat) {n : Nat} (h : n ≤ 63) : keptRest (k * 2 ^ n) n = (k, 0) := by
  rw [keptRest, if_pos h, Nat.mul_div_cancel _ (Nat.two_pow_pos n), Nat.mul_assoc, ← Nat.pow_add, show n + (64 - n) = 64 by omega,
    Nat.mul_mod_left]

/-- Round to nearest leaves a value without a remainder where it is (Table 2.5). -/
theorem roundUp_rne_zero (neg : Bool) (k u : Nat) : roundUp 0 neg k 0 u = false := rfl

/-- `m * 2 ^ e` lies in the normal range of a format, below its largest exponent, and its significand fits. -/
structure FloatFmt.FitsNormal (f : FloatFmt) (m : Nat) (e : Int) : Prop where
  ne_zero : m ≠ 0
  significand : Nat.log2 m ≤ f.mbits
  width : f.mbits ≤ 63
  normal : 1 - f.bias ≤ e + Nat.log2 m
  below_max : e + Nat.log2 m + f.bias < f.emaxCode

/-- A value that fits a format rounds to the code with its own fields and sets no flag (R46). -/
theorem roundFin_exact {f : FloatFmt} {m : Nat} {e : Int} (sat : Bool) (u : Nat) (neg : Bool) (h : f.FitsNormal m e) :
    roundFin f 0 sat u neg m e =
      (f.encode neg (e + Nat.log2 m + f.bias).toNat (m * 2 ^ (f.mbits - Nat.log2 m) - 2 ^ f.mbits), Ev.none) := by
  obtain ⟨hm, hfit, h63, hlo, hhi⟩ := h
  obtain ⟨hklo, hkhi⟩ := shift_log2_bounds hm hfit
  have hpos : 0 < 2 ^ f.mbits := Nat.two_pow_pos _
  have hnormal : ¬ e + (Nat.log2 m : Int) < 1 - f.bias := by omega
  have hshift : (63 - (f.mbits : Int) + (e + Nat.log2 m - (e + Nat.log2 m))).toNat = 63 - f.mbits := by omega
  have hkept : keptRest (sig64 m) (63 - f.mbits) = (m * 2 ^ (f.mbits - Nat.log2 m), 0) := by
    rw [sig64_of_log2_le hfit h63, keptRest_mul_two_pow _ (by omega)]
  have hk0 : ¬ m * 2 ^ (f.mbits - Nat.log2 m) = 0 := by omega
  have hin : ¬ (e + Nat.log2 m + f.bias > f.emaxCode ∨
      (e + Nat.log2 m + f.bias = f.emaxCode ∧ m * 2 ^ (f.mbits - Nat.log2 m) - 2 ^ f.mbits > f.fmax)) := by omega
  simp only [roundFin, if_neg hm, if_neg hnormal, hshift, hkept, roundUp_rne_zero, Bool.false_eq_true, if_false, Nat.add_zero,
    if_neg (Nat.ne_of_lt hkhi), if_neg hk0, if_neg (Nat.not_lt.2 hklo), if_neg hin]
  simp only [flagIf, Ev.none, ne_eq, not_true_eq_false, decide_false, Bool.and_false, Bool.false_eq_true, if_false]
  rfl

/-- The code of such a value decodes to the value, its significand shifted to the format's width. -/
theorem decode_roundFin_exact {f : FloatFmt} {m : Nat} {e : Int} (sat : Bool) (u : Nat) (neg : Bool) (hs : f.spec = .ieee)
    (h : f.FitsNormal m e) :
    f.decode (roundFin f 0 sat u neg m e).1 =
      .fin neg (m * 2 ^ (f.mbits - Nat.log2 m)) (e - (f.mbits - Nat.log2 m : Nat)) := by
  rw [roundFin_exact sat u neg h]
  obtain ⟨hm, hfit, -, hlo, hhi⟩ := h
  obtain ⟨hklo, hkhi⟩ := shift_log2_bounds hm hfit
  have hmax : f.emaxCode = 2 ^ f.ebits - 2 := by rw [FloatFmt.emaxCode, hs]
  rw [Nat.pow_succ] at hkhi
  rw [FloatFmt.decode_encode_normal hs neg (by omega) (by omega) (by omega)]
  congr 1 <;> omega

/-! ### Uniform values -/

/-- A uniform value before its rounding: an odd number of at most 24 bits. -/
theorem uniform_numerator_bounds {w : Nat} (h : w < 2 ^ 32) : 1 ≤ 2 * (w / 2 ^ 9) + 1 ∧ 2 * (w / 2 ^ 9) + 1 ≤ 2 ^ 24 - 1 := by omega

/-- A uniform value fits FP32: its exponent is between -24 and -1. -/
theorem uniform_fitsNormal {w : Nat} (h : w < 2 ^ 32) : fp32.FitsNormal (2 * (w / 2 ^ 9) + 1) (-24) := by
  have hlog : Nat.log2 (2 * (w / 2 ^ 9) + 1) < 24 := (Nat.log2_lt (by omega)).2 (by omega)
  have hmax : fp32.emaxCode = 254 := rfl
  have hbits : fp32.mbits = 23 := rfl
  have hbias : fp32.bias = 127 := rfl
  exact ⟨by omega, by omega, by omega, by omega, by omega⟩

/-- The code of a uniform value decodes to (2 (w >> 9) + 1) · 2^-24 (R224). -/
theorem decode_uniform32 {w : Nat} (h : w < 2 ^ 32) :
    ∃ j : Nat, fp32.decode (uniform32 w) = .fin false ((2 * (w / 2 ^ 9) + 1) * 2 ^ j) (-24 - j) :=
  ⟨_, decode_roundFin_exact false 0 false rfl (uniform_fitsNormal h)⟩

theorem uniform32_ne_zero {w : Nat} (h : w < 2 ^ 32) : uniform32 w ≠ 0 := by
  intro h0
  obtain ⟨j, hj⟩ := decode_uniform32 h
  rw [h0, show fp32.decode 0 = .fin false 0 (-149) by decide, Num.fin.injEq] at hj
  exact absurd hj.2.1.symm (Nat.mul_ne_zero (by omega) (Nat.ne_of_gt (Nat.two_pow_pos j)))

theorem uniform32_ne_one {w : Nat} (h : w < 2 ^ 32) : uniform32 w ≠ 0x3F800000 := by
  intro h1
  obtain ⟨j, hj⟩ := decode_uniform32 h
  rw [h1, show fp32.decode 0x3F800000 = .fin false (2 ^ 23) (-23) by decide, Num.fin.injEq] at hj
  omega

/-- The complement of a word gives 1 minus its uniform value (R224). -/
theorem uniform_numerator_complement {w : Nat} (h : w < 2 ^ 32) :
    2 * ((2 ^ 32 - 1 - w) / 2 ^ 9) + 1 = 2 ^ 24 - (2 * (w / 2 ^ 9) + 1) := by omega

/-- TNDU writes its uniform values and creates no NaN, so no trap keeps it from completing (R226). -/
theorem exec_tndu {s : State} {t : StrandId} {b : Body} {y : X} (h : running s t b 0x79 = some y) :
    exec (.tndu t b) s = .next (s.completed t (y.setV (insOf b).op1 ((tndWords y (insOf b)).map uniform32))) :=
  guard_completed (chk := fun _ => noChk) (run := fun x i _ => .ok (x.setV i.op1 ((tndWords x i).map uniform32))) h rfl rfl
    (.inr ((X.setV_nan ..).trans (running_nan h)))

/-- Settles O57: the significand of a uniform value fits FP32, so its rounding is exact, and its value tells it from 0 and 1. -/
theorem uniformValuesAreExact : Obligations.UniformValuesAreExact := by
  refine ⟨fun w h => ?_, fun s t b y h => ⟨exec_tndu h, X.setV_num ..⟩⟩
  obtain ⟨hlo, hhi⟩ := uniform_numerator_bounds h
  exact ⟨decode_uniform32 h, hlo, hhi, uniform32_ne_zero h, uniform32_ne_one h, uniform_numerator_complement h⟩

end Sys2Proof.Machine
end

section
/-! The word of an instruction (R118): the opcode and body that an instruction spells, and the instruction that they spell. -/
namespace Sys2Proof.Machine

/-- An instruction is the one its opcode and body spell. -/
theorem instrOf_of_insParts {i : Instr} {t : StrandId} {op : BitVec 8} {b : Body} (h : insParts i = some (t, op, b)) :
    instrOf t b op.toNat = some i := by
  unfold insParts at h
  split at h <;> cases h <;> rfl

/-- What an opcode and a body spell has them as its parts. -/
theorem insParts_of_instrOf {i : Instr} {t : StrandId} {n : Nat} {b : Body} (h : instrOf t b n = some i) :
    insParts i = some (t, BitVec.ofNat 8 n, b) := by
  unfold instrOf at h
  split at h <;> cases h <;> rfl

/-- Settles O53: body and opcode are the high and low bits of the word, and the opcode table is read both ways. -/
theorem decodeOfEncode : Obligations.DecodeOfEncode := by
  constructor
  · intro i t op b w hp he
    simp only [encodeIns, hp, Option.map_some, Option.some.injEq] at he
    subst he
    have hb : (b ++ op).extractLsb' 8 120 = b := BitVec.extractLsb'_append_eq_left
    have ho : (b ++ op).extractLsb' 0 8 = op := BitVec.extractLsb'_append_eq_right
    simp only [decodeIns, hb, ho, instrOf_of_insParts hp]
  · intro t w i hd
    have hw : (w.extractLsb' 8 120 ++ w.extractLsb' 0 8 : BitVec 128) = w :=
      (BitVec.extractLsb'_append_extractLsb'_eq_extractLsb' (start₁ := 0) (start₂ := 8) (len₁ := 8) (len₂ := 120) rfl).trans BitVec.extractLsb'_eq_self
    simp only [encodeIns, insParts_of_instrOf hd, Option.map_some, BitVec.ofNat_toNat, BitVec.setWidth_eq, hw]

end Sys2Proof.Machine
end

section
/-! The canonical tree of a reduction (R73): how it goes over a homomorphism and a sum, the integer reduction (R78), and the stack of
tree nodes (R74). -/
namespace Sys2Proof.Machine

/-! ### The canonical tree -/

section
variable {α β : Type} {op : α → α → α} {op' : β → β → β}

theorem treeLevel_length : ∀ l : List α, (treeLevel op l).length = (l.length + 1) / 2
  | [] => by simp [treeLevel]
  | [_] => by simp [treeLevel]
  | a :: b :: t => by
    simp only [treeLevel, List.length_cons, treeLevel_length t]
    omega

/-- Lists of one length whose elements are related pair by pair. -/
inductive PairedBy (R : α → β → Prop) : List α → List β → Prop
  | nil : PairedBy R [] []
  | cons {a : α} {b : β} {l : List α} {m : List β} (h : R a b) (t : PairedBy R l m) : PairedBy R (a :: l) (b :: m)

theorem PairedBy.length_eq {R : α → β → Prop} {l : List α} {m : List β} (h : PairedBy R l m) : l.length = m.length := by
  induction h with
  | nil => rfl
  | cons _ _ ih => rw [List.length_cons, List.length_cons, ih]

/-- A list is paired with its image where each element is related to its own. -/
theorem PairedBy.map {R : α → β → Prop} {f : α → β} : ∀ {l : List α}, (∀ a ∈ l, R a (f a)) → PairedBy R l (l.map f)
  | [], _ => .nil
  | a :: _, h => .cons (h a List.mem_cons_self) (PairedBy.map fun b hb => h b (List.mem_cons_of_mem a hb))

/-- One level of the tree goes over operations that agree under a relation. -/
theorem treeLevel_rel {R : α → β → Prop} (h : ∀ a b a' b', R a a' → R b b' → R (op a b) (op' a' b')) {l : List α} {m : List β}
    (hl : PairedBy R l m) : PairedBy R (treeLevel op l) (treeLevel op' m) := by
  induction l using treeLevel.induct generalizing m with
  | case1 a b t ih =>
    cases hl with
    | cons ha hl =>
      cases hl with
      | cons hb hl => exact .cons (h _ _ _ _ ha hb) (ih hl)
  | case2 l hn =>
    cases hl with
    | nil => exact .nil
    | cons ha hl =>
      cases hl with
      | nil => exact .cons ha .nil
      | cons hb hl => exact absurd rfl (hn _ _ _)

/-- The whole tree does too. -/
theorem treeFold_rel {R : α → β → Prop} (h : ∀ a b a' b', R a a' → R b b' → R (op a b) (op' a' b')) (n : Nat) {l : List α} {m : List β}
    (hl : PairedBy R l m) : Option.Rel R (treeFold op n l) (treeFold op' n m) := by
  have hhead {l : List α} {m : List β} (hl : PairedBy R l m) : Option.Rel R l.head? m.head? := by
    cases hl with
    | nil => exact .none
    | cons ha _ => exact .some ha
  induction n generalizing l m with
  | zero => exact hhead hl
  | succ n ih =>
    simp only [treeFold, hl.length_eq]
    split
    · exact hhead hl
    · exact ih (treeLevel_rel h hl)

end

theorem treeLevel_sum : ∀ l : List Int, (treeLevel (· + ·) l).sum = l.sum
  | [] => rfl
  | [_] => rfl
  | a :: b :: t => by
    simp only [treeLevel, List.sum_cons, treeLevel_sum t]
    omega

/-- Exact addition over the tree is the sum of its leaves. -/
theorem treeFold_sum {n : Nat} {l : List Int} (h0 : l ≠ []) (hn : l.length ≤ n) : treeFold (· + ·) n l = some l.sum := by
  induction n generalizing l with
  | zero => exact absurd (List.length_eq_zero_iff.1 (Nat.le_zero.1 hn)) h0
  | succ n ih =>
    have hpos := List.length_pos_iff.2 h0
    have hlen := treeLevel_length (op := fun a b : Int => a + b) l
    rw [treeFold]
    split
    · obtain ⟨a, rfl⟩ := List.length_eq_one_iff.1 (show l.length = 1 by omega)
      simp
    · rw [ih (fun h => by rw [h, List.length_nil] at hlen; omega) (by omega), treeLevel_sum]

/-! ### Integer reductions -/

/-- The 32-bit encoding of an integer depends on its remainder alone. -/
theorem encInt_congr {x y : Int} (h : x % 2 ^ 32 = y % 2 ^ 32) : encInt 32 x = encInt 32 y := by rw [encInt, encInt, h]

/-- An encoding stands for its integer modulo 2^32. -/
theorem signed_encInt_emod (z : Int) : signed (encInt 32 z) 32 % 2 ^ 32 = z % 2 ^ 32 := by
  have hlt : (z % 2 ^ 32).toNat % 2 ^ 32 = (z % 2 ^ 32).toNat := by omega
  simp only [signed, encInt, hlt]
  by_cases h : 2 ^ (32 - 1) ≤ (z % 2 ^ 32).toNat
  · rw [if_pos h]
    omega
  · rw [if_neg h]
    omega

theorem encInt_signed_add (x y : Int) : encInt 32 (signed (encInt 32 x) 32 + y) = encInt 32 (x + y) :=
  encInt_congr (by rw [Int.add_emod, signed_encInt_emod, ← Int.add_emod])

/-- Without saturation an integer addition wraps (R78). -/
theorem iadd_wraps (z : Int) : (iadd false z).1 = encInt 32 z := by
  unfold iadd
  split <;> rfl

/-- Integer lanes. -/
def intLanes (ls : List (Int × Int)) : List (Val × Val) := ls.map fun p => (Val.i p.1, Val.i p.2)

/-- The exact sum of products. -/
def intDot (ls : List (Int × Int)) : Int := (ls.map fun p => p.1 * p.2).sum

theorem intDot_append (a b : List (Int × Int)) : intDot (a ++ b) = intDot a + intDot b := by simp [intDot]

/-- A fold that adds the product of each lane adds their sum. -/
theorem foldl_intLanes {f : Int → Val × Val → Int} (hf : ∀ z a b, f z (.i a, .i b) = z + a * b) (ls : List (Int × Int)) (z : Int) :
    (intLanes ls).foldl f z = z + intDot ls := by
  induction ls generalizing z with
  | nil => simp [intLanes, intDot]
  | cons p ls ih =>
    simp only [intLanes, intDot, List.map_cons, List.foldl_cons, List.sum_cons, hf] at ih ⊢
    rw [ih, Int.add_assoc]

/-- A beat adds the products of its lanes. -/
theorem beatElem_int (rdnz : Bool) (x : Int) (ls : List (Int × Int)) :
    (beatElem .int false rdnz (encInt 32 x) (intLanes ls)).1 = encInt 32 (x + intDot ls) := by
  rw [beatElem, iadd_wraps, foldl_intLanes (fun _ _ _ => rfl), encInt_signed_add]

/-- Beats of 32 lanes with enough fuel add the products of all lanes. -/
theorem beatsFrom_int (rdnz : Bool) {n : Nat} (x : Int) (ev : Ev) {ls : List (Int × Int)} (h : ls.length ≤ 32 * n) :
    (beatsFrom .int false rdnz n (encInt 32 x, ev) (intLanes ls)).1 = encInt 32 (x + intDot ls) := by
  induction n generalizing x ev ls with
  | zero =>
    obtain rfl := List.length_eq_zero_iff.1 (Nat.le_zero.1 h)
    simp [beatsFrom, intDot]
  | succ n ih =>
    rw [beatsFrom]
    split
    · rename_i he
      obtain rfl : ls = [] := by simpa [intLanes] using he
      simp [intDot]
    · have hb : (beatElem .int false rdnz (encInt 32 x) ((intLanes ls).take 32)).1 = encInt 32 (x + intDot (ls.take 32)) := by
        rw [← beatElem_int rdnz x (ls.take 32), intLanes, intLanes, List.map_take]
      have hd : (intLanes ls).drop 32 = intLanes (ls.drop 32) := by rw [intLanes, intLanes, List.map_drop]
      dsimp only
      rw [hb, hd, ih _ _ (by rw [List.length_drop]; omega), Int.add_assoc, ← intDot_append, List.take_append_drop]

/-- Every grain partial of integer lanes encodes the exact sum of its products. -/
theorem grainPartial_int (rdnz : Bool) {ls : List (Int × Int)} (h : ls.length ≤ 1024) :
    (grainPartial .int false rdnz (intLanes ls)).1 = encInt 32 (intDot ls) := by
  have := beatsFrom_int (n := 33) rdnz 0 Ev.none (show ls.length ≤ 32 * 33 by omega)
  rw [Int.zero_add] at this
  exact this

/-- The grains of integer lanes, as partials beside their exact sums, which make up the whole sum. -/
theorem grainsOf_int (rdnz : Bool) {n : Nat} {ls : List (Int × Int)} (h : ls.length ≤ 1024 * n) :
    ∃ zs : List Int, zs.sum = intDot ls ∧ (ls ≠ [] → zs ≠ []) ∧ PairedBy (fun (p : Nat × Ev) z => p.1 = encInt 32 z)
      ((grainsOf n (intLanes ls)).map (grainPartial .int false rdnz)) zs := by
  induction n generalizing ls with
  | zero =>
    obtain rfl := List.length_eq_zero_iff.1 (Nat.le_zero.1 h)
    exact ⟨[], rfl, fun h => absurd rfl h, .nil⟩
  | succ n ih =>
    rw [grainsOf]
    split
    · rename_i he
      obtain rfl : ls = [] := by simpa [intLanes] using he
      exact ⟨[], rfl, fun h => absurd rfl h, .nil⟩
    · obtain ⟨zs, hsum, -, hrel⟩ := ih (ls := ls.drop 1024) (by rw [List.length_drop]; omega)
      refine ⟨intDot (ls.take 1024) :: zs, ?_, fun _ => List.cons_ne_nil _ _, ?_⟩
      · rw [List.sum_cons, hsum, ← intDot_append, List.take_append_drop]
      · rw [List.map_cons, intLanes, ← List.map_take, ← List.map_drop]
        exact .cons (grainPartial_int rdnz (List.length_take_le 1024 ls)) hrel

/-- Settles O55: encodings of integers add modulo 2^32 in every beat and every merge, so the exact sums go over the whole tree. -/
theorem integerProductIsExact : Obligations.IntegerProductIsExact := by
  intro rdnz ls
  show (canonical .int false rdnz (intLanes ls)).1 = encInt 32 (intDot ls)
  by_cases he : (intLanes ls).isEmpty = true
  · obtain rfl : ls = [] := by simpa [intLanes] using he
    cases rdnz <;> rfl
  · have hlen : (intLanes ls).length = ls.length := List.length_map _
    obtain ⟨zs, hsum, hne, hrel⟩ := grainsOf_int rdnz (n := (intLanes ls).length / 1024 + 1) (ls := ls) (by omega)
    have htree := treeFold_rel (op := fun (a b : Nat × Ev) =>
        let r := accAdd .int false rdnz a.1 b.1; (r.1, (a.2.join b.2).join r.2)) (op' := (· + ·))
      (fun a b x y ha hb => by
        show (iadd false (signed a.1 32 + signed b.1 32)).1 = encInt 32 (x + y)
        rw [iadd_wraps, ha, hb, encInt_signed_add, Int.add_comm, encInt_signed_add, Int.add_comm]) zs.length hrel
    rw [treeFold_sum (hne (fun h => he (by rw [h]; rfl))) (Nat.le_refl _), hsum] at htree
    unfold canonical
    rw [if_neg he]
    dsimp only
    rw [hrel.length_eq]
    generalize treeFold _ _ _ = o at htree ⊢
    cases htree with
    | some h => exact h

/-! ### The stack of tree nodes -/

section
variable (k : AccKind) (sat rdnz : Bool)

/-- acc_add over whole tiles, without its events. -/
def tileSum (a b : List Nat) : List Nat := (tileAdd k sat rdnz a b).map Prod.fst

/-- The stack after push_node of one node. -/
def pushed (st : List Node) (v : Node) : List Node := (pushNode k sat rdnz st v []).1

/-- The stack after pushing tiles at a level, with indices from `i` on. -/
def pushRow (j : Nat) : Nat → List Node → List (List Nat) → List Node
  | _, st, [] => st
  | i, st, p :: ps => pushRow j (i + 1) (pushed k sat rdnz st ⟨j, i, p⟩) ps

/-- The value that finish gives. -/
def finished (st : List Node) (last : List Nat) : List Nat := (finishNode k sat rdnz st last).1

/-- What is pushed does not depend on the events so far. -/
theorem pushNode_fst (st : List Node) (v : Node) (evs : List (Nat × Ev)) : (pushNode k sat rdnz st v evs).1 = pushed k sat rdnz st v := by
  unfold pushed
  generalize ([] : List (Nat × Ev)) = evs'
  induction st generalizing v evs evs' with
  | nil => rfl
  | cons t rest ih =>
    simp only [pushNode]
    split
    · exact ih _ _ _
    · rfl

theorem foldl_pushNode (ps : List (List Nat)) (i : Nat) (st : List Node) (evs : List (Nat × Ev)) :
    ((ps.zipIdx i).foldl (fun (r : List Node × List (Nat × Ev)) p => pushNode k sat rdnz r.1 ⟨0, p.2, p.1⟩ r.2) (st, evs)).1 =
      pushRow k sat rdnz 0 i st ps := by
  induction ps generalizing i st evs with
  | nil => rfl
  | cons p ps ih =>
    rw [List.zipIdx_cons, List.foldl_cons, pushRow, ← pushNode_fst k sat rdnz st ⟨0, i, p⟩ evs, ← ih (i + 1) _
      (pushNode k sat rdnz st ⟨0, i, p⟩ evs).2]

/-- Finishing merges the top of the stack first. -/
theorem finished_cons (t : Node) (st : List Node) (last : List Nat) :
    finished k sat rdnz (t :: st) last = finished k sat rdnz st (tileSum k sat rdnz t.vals last) := by
  have hevs (v : List Nat) (evs evs' : List (Nat × Ev)) : ∀ st : List Node,
      (st.foldl (fun (r : List Nat × List (Nat × Ev)) n =>
        let q := tileAdd k sat rdnz n.vals r.1
        (q.map Prod.fst, r.2 ++ q.zipIdx.map (fun e => (e.2, e.1.2)))) (v, evs)).1 =
      (st.foldl (fun (r : List Nat × List (Nat × Ev)) n =>
        let q := tileAdd k sat rdnz n.vals r.1
        (q.map Prod.fst, r.2 ++ q.zipIdx.map (fun e => (e.2, e.1.2)))) (v, evs')).1 := by
    intro st
    induction st generalizing v evs evs' with
    | nil => rfl
    | cons t st ih => exact ih _ _ _
  exact hevs _ _ _ st

/-- A node of even index stays on top. -/
theorem pushed_even (st : List Node) (j i : Nat) (p : List Nat) : pushed k sat rdnz st ⟨j, 2 * i, p⟩ = ⟨j, 2 * i, p⟩ :: st := by
  cases st with
  | nil => rfl
  | cons t st =>
    have : ¬ (2 * i % 2 = 1 ∧ t.level = j ∧ t.index + 1 = 2 * i) := by omega
    simp only [pushed, pushNode, if_neg this]

/-- The node of odd index after it is merged with it and pushed one level up. -/
theorem pushed_odd (st : List Node) (j i : Nat) (p q : List Nat) :
    pushed k sat rdnz (⟨j, 2 * i, p⟩ :: st) ⟨j, 2 * i + 1, q⟩ = pushed k sat rdnz st ⟨j + 1, i, tileSum k sat rdnz p q⟩ := by
  have hmod : (2 * i + 1) % 2 = 1 := by omega
  have hdiv : (2 * i + 1) / 2 = i := by omega
  rw [pushed, pushNode, if_pos ⟨hmod, rfl, rfl⟩, hdiv]
  exact pushNode_fst k sat rdnz _ _ _

/-- Pushing tiles at one level and finishing is pushing the tree's next level one level up and finishing. -/
theorem finished_pushRow_succ (last : List Nat) (j : Nat) : ∀ (i : Nat) (st : List Node) (ps : List (List Nat)),
    ∃ (ps' : List (List Nat)) (last' : List Nat), treeLevel (tileSum k sat rdnz) (ps ++ [last]) = ps' ++ [last'] ∧
      finished k sat rdnz (pushRow k sat rdnz j (2 * i) st ps) last = finished k sat rdnz (pushRow k sat rdnz (j + 1) i st ps') last'
  | i, st, [] => ⟨[], last, rfl, rfl⟩
  | i, st, [p] => by
    refine ⟨[], tileSum k sat rdnz p last, rfl, ?_⟩
    rw [pushRow, pushRow, pushRow, pushed_even, finished_cons]
  | i, st, p :: q :: ps => by
    obtain ⟨ps', last', hl, hf⟩ := finished_pushRow_succ last j (i + 1) (pushed k sat rdnz st ⟨j + 1, i, tileSum k sat rdnz p q⟩) ps
    refine ⟨tileSum k sat rdnz p q :: ps', last', ?_, ?_⟩
    · rw [List.cons_append, List.cons_append, treeLevel, hl, List.cons_append]
    · rw [pushRow, pushRow, pushed_even, pushed_odd, pushRow]
      exact hf

/-- The tiles' tree is what the stack gives. -/
theorem treeFold_finished {n j : Nat} {ps : List (List Nat)} {last : List Nat} (hn : ps.length ≤ n) :
    treeFold (tileSum k sat rdnz) n (ps ++ [last]) = some (finished k sat rdnz (pushRow k sat rdnz j 0 [] ps) last) := by
  induction n generalizing j ps last with
  | zero =>
    obtain rfl := List.length_eq_zero_iff.1 (Nat.le_zero.1 hn)
    rfl
  | succ n ih =>
    cases ps with
    | nil => rfl
    | cons p ps =>
      obtain ⟨ps', last', hl, hf⟩ := finished_pushRow_succ k sat rdnz last j 0 [] (p :: ps)
      have hlen := treeLevel_length (op := tileSum k sat rdnz) (p :: ps ++ [last])
      simp only [hl, List.length_append, List.length_cons, List.length_nil] at hlen hn
      have hnot : ¬ (p :: ps ++ [last]).length ≤ 1 := by simp
      rw [treeFold, if_neg hnot, hl, ih (j := j + 1) (by omega), ← hf]

end

/-- The sum of two tiles of one size, at an element. -/
theorem tileSum_getElem? {k : AccKind} {sat rdnz : Bool} {a b : List Nat} {n e x y : Nat}
    (ha : a.length = n ∧ a[e]? = some x) (hb : b.length = n ∧ b[e]? = some y) :
    (tileSum k sat rdnz a b).length = n ∧ (tileSum k sat rdnz a b)[e]? = some (accAdd k sat rdnz x y).1 := by
  obtain ⟨hal, hax⟩ := ha
  obtain ⟨hbl, hby⟩ := hb
  simp [tileSum, tileAdd, List.getElem?_zipWith, hal, hbl, hax, hby]

/-- Settles O56: pushing pairs at one level is pushing their sums at the next, so the stack runs the tree over tiles; and the tree
goes over to each element. -/
theorem treeStackGivesCanonicalSum : Obligations.TreeStackGivesCanonicalSum := by
  intro k sat rdnz n ps last hlast hps st e he
  have hst : st = pushRow k sat rdnz 0 0 [] ps := foldl_pushNode k sat rdnz ps 0 [] []
  have hleaf : PairedBy (fun (p : List Nat) v => p.length = n ∧ p[e]? = some v) (ps ++ [last]) ((ps ++ [last]).map fun p => p.getD e 0) := by
    refine PairedBy.map fun p hp => ?_
    have hlen : p.length = n := by
      rcases List.mem_append.1 hp with hp | hp
      · exact hps p hp
      · rw [List.mem_singleton.1 hp, hlast]
    exact ⟨hlen, by simp [hlen, he]⟩
  have htree := treeFold_rel (op := tileSum k sat rdnz) (op' := fun a b => (accAdd k sat rdnz a b).1)
    (fun _ _ _ _ ha hb => tileSum_getElem? ha hb) (ps.length + 1) hleaf
  rw [treeFold_finished (j := 0) k sat rdnz (Nat.le_succ _), ← hst] at htree
  generalize treeFold _ _ _ = o at htree ⊢
  cases htree with
  | some h => exact h.2

end Sys2Proof.Machine
end

section
/-! What the parts of a command leave alone: the queue, and the units that strands, links, queues and ports do not touch. One lemma per
function on the state. -/
namespace Sys2Proof.Machine

/-- The queue, the units beside the compute side, Nymhel and the Ethernet side, and whether bivouac mode is active. -/
def State.aside (s : State) :
    List Instr × Dmp × Sec × Flash × Silicon × Board × Bg × List HostCmd × List Rebind × Bool :=
  (s.pending, s.dmp, s.sec, s.flash, s.silicon, s.board, s.bg, s.started, s.rebinds, s.lan.bivActive)

theorem State.aside_of_kept {s s' : State} (h : s'.kept = s.kept) : s'.aside = s.aside := by
  simp only [State.kept, Prod.mk.injEq] at h
  obtain ⟨hp, -, hd, hs, hf, hsi, hb, hbg, hst, hr, -, -, hl⟩ := h
  have hbiv : s'.lan.bivActive = s.lan.bivActive := (congrArg Lan.bivActive hl :)
  simp only [State.aside, hp, hd, hs, hf, hsi, hb, hbg, hst, hr, hbiv]

/-- Other parts may change. -/
@[simp] theorem State.aside_update (s : State) (c : Core) (n : Nym) (e : Eth) (v : Vector Engine 4) :
    ({ s with core := c, nym := n, eth := e, vid := v } : State).aside = s.aside := rfl

theorem State.aside_updateLan (s : State) (c : Core) (e : Eth) (l : Lan) (h : l.bivActive = s.lan.bivActive) :
    ({ s with core := c, eth := e, lan := l } : State).aside = s.aside := by
  simp only [State.aside, h]

theorem State.aside_ite {p : Prop} [Decidable p] {a b s : State} (ha : a.aside = s.aside) (hb : b.aside = s.aside) :
    (if p then a else b).aside = s.aside := by
  split
  · exact ha
  · exact hb

/-- A fold of steps that leave all this leaves it. -/
theorem State.aside_foldl {α : Type} {f : State → α → State} (h : ∀ s a, (f s a).aside = s.aside) (l : List α) (s : State) :
    (l.foldl f s).aside = s.aside := foldl_same State.aside f h l s

/-! ### Messages, telemetry, completions -/

@[simp] theorem State.send_aside (s : State) (o : Out) : (s.send o).aside = s.aside := rfl
@[simp] theorem State.onCore_aside (s : State) (f : Core → Core) : (s.onCore f).aside = s.aside := rfl
@[simp] theorem State.onNym_aside (s : State) (f : Nym → Nym) : (s.onNym f).aside = s.aside := rfl
@[simp] theorem State.onEth_aside (s : State) (f : Eth → Eth) : (s.onEth f).aside = s.aside := rfl
@[simp] theorem State.modBox_aside (s : State) (m : Nat) (f : Mailbox → Mailbox) : (s.modBox m f).aside = s.aside := rfl
@[simp] theorem State.free_aside (s : State) : s.free.2.aside = s.aside := rfl
@[simp] theorem State.unsolicited_aside (s : State) (qp id st res info : Nat) : (s.unsolicited qp id st res info).aside = s.aside := rfl
@[simp] theorem State.reportFault_aside (s : State) (p : Path) (code : Nat) (d : List Byte) : (s.reportFault p code d).aside = s.aside := rfl
@[simp] theorem State.credit_aside (s : State) (l v n : Nat) : (s.credit l v n).aside = s.aside := aside_of_kept (s.credit_kept l v n)
@[simp] theorem State.drain_aside (s : State) (l : Nat) : (s.drain l).aside = s.aside := aside_of_kept (s.drain_kept l)
@[simp] theorem State.inject_aside (s : State) (l v : Nat) (p : Packet) (o : Option (Nat × List Nat)) :
    (s.inject l v p o).aside = s.aside := aside_of_kept (s.inject_kept l v p o)
@[simp] theorem State.wire_aside (s : State) (port prio : Nat) (o : Out) : (s.wire port prio o).aside = s.aside :=
  aside_of_kept (s.wire_kept port prio o)
@[simp] theorem State.wireQp_aside (s : State) (qp : Nat) (o : Out) : (s.wireQp qp o).aside = s.aside := s.wire_aside _ _ o
@[simp] theorem State.wirePort_aside (s : State) (port : Nat) (o : Out) : (s.wirePort port o).aside = s.aside := s.wire_aside _ _ o
@[simp] theorem State.request_aside (s : State) (qp : Nat) (o : Out) (b : List Byte) : (s.request qp o b).aside = s.aside :=
  aside_of_kept (s.request_kept qp o b)
@[simp] theorem State.telFlush_aside (s : State) : s.telFlush.aside = s.aside := aside_of_kept s.telFlush_kept
@[simp] theorem State.telEvent_aside (s : State) (e : Nat) (d : List Byte) : (s.telEvent e d).aside = s.aside :=
  aside_of_kept (s.telEvent_kept e d)
@[simp] theorem State.platform_aside (s : State) (k v : Nat) : (s.platform k v).aside = s.aside := aside_of_kept (s.platform_kept k v)
@[simp] theorem State.alert_aside (s : State) (i : Nat) : (s.alert i).aside = s.aside := rfl
@[simp] theorem State.settle_aside (s : State) : s.settle.aside = s.aside :=
  aside_of_kept (s := { s with core := s.core.touch }) s.settle_kept

@[simp] theorem State.creditAll_aside (s : State) (l : Nat) (vcs : List Nat) : (s.creditAll l vcs).aside = s.aside :=
  aside_foldl (fun a _ => a.credit_aside _ _ _) _ s

@[simp] theorem State.journal_aside (s : State) (src : Src) (e : JEntry) : (s.journal src e).aside = s.aside := aside_ite rfl rfl

@[simp] theorem State.refuse_aside (s : State) (p : Path) (code a : Nat) : (s.refuse p code a).aside = s.aside := by
  cases p <;> rfl

@[simp] theorem State.qpError_aside (s : State) (p : Path) : (s.qpError p).aside = s.aside := by
  cases p <;> rfl

@[simp] theorem State.nak_aside (s : State) (p : Path) (w : String) : (s.nak p w).aside = s.aside := by
  cases p <;> simp [State.nak]

@[simp] theorem State.refuseAccess_aside (s : State) (p : Path) (code a : Nat) : (s.refuseAccess p code a).aside = s.aside := by
  cases p with
  | roce qp => exact aside_ite (by simp) (aside_ite (by simp) (by simp))
  | mailbox n => rfl
  | mctp i a => rfl

@[simp] theorem State.qpRefused_aside (s : State) (qp code a : Nat) : (s.qpRefused qp code a).aside = s.aside :=
  aside_ite (by simp) (aside_ite (by simp) (by simp))

@[simp] theorem State.turnedAway_aside (s : State) (p : Path) : (s.turnedAway p).aside = s.aside := by
  cases p with
  | roce qp => exact aside_ite (by simp) rfl
  | mailbox n => rfl
  | mctp i a => rfl

/-! ### Strands and contexts -/

@[simp] theorem State.sampler_aside (s : State) (d : Nat) (f : Sampler → Sampler) : (s.sampler d f).aside = s.aside :=
  aside_ite rfl (State.telEvent_aside _ _ _)

@[simp] theorem State.samplerTests_aside (s : State) : s.samplerTests.aside = s.aside :=
  aside_foldl (fun a _ => aside_ite (a.sampler_aside _ _) rfl) _ s

@[simp] theorem State.tellMembers_aside (s : State) (k status : Nat) : (s.tellMembers k status).aside = s.aside := by
  unfold State.tellMembers
  split
  · rfl
  · refine aside_foldl (fun a m => ?_) _ s
    refine aside_ite rfl (aside_ite rfl ?_)
    split <;> rfl

@[simp] theorem State.abortAll_aside (s : State) (k status : Nat) : (s.abortAll k status).aside = s.aside := by
  unfold State.abortAll
  split
  · exact aside_ite (s.tellMembers_aside k status) rfl
  · rfl

@[simp] theorem State.onFault_aside (s : State) (k : Nat) : (s.onFault k).aside = s.aside := by
  unfold State.onFault
  split
  · exact aside_ite (s.abortAll_aside k _) rfl
  · rfl

@[simp] theorem State.onFaults_aside (s : State) : s.onFaults.aside = s.aside := aside_foldl State.onFault_aside _ s

@[simp] theorem State.issue_aside (s : State) (t : StrandId) (b : Body) (op : Nat) (f : Body → X → Res X) :
    (s.issue t b op f).aside = s.aside := State.onFault_aside _ _

@[simp] theorem State.resumeStrand_aside (s : State) (k i : Nat) : (s.resumeStrand k i).aside = s.aside :=
  (State.samplerTests_aside _).trans (State.onFault_aside _ _)

@[simp] theorem State.wakeCtx_aside (s : State) (k : Nat) : (s.wakeCtx k).aside = s.aside := by
  have h0 : ((s.onCore (fun c => c.failBars s.nym.devnum k)).onFault k).aside = s.aside := State.onFault_aside _ _
  unfold State.wakeCtx
  dsimp only
  split
  · exact h0
  · refine (aside_foldl (fun a p => ?_) _ _).trans h0
    split
    · exact aside_ite (a.resumeStrand_aside k p.1) rfl
    · rfl

@[simp] theorem State.wakeAll_aside (s : State) : s.wakeAll.aside = s.aside := aside_foldl State.wakeCtx_aside _ s

@[simp] theorem State.schedule_aside (s : State) : s.schedule.aside = s.aside :=
  (State.samplerTests_aside _).trans ((State.wakeAll_aside _).trans (s.onCore_aside Core.schedule))

@[simp] theorem State.endOf_aside (s : State) (k : Nat) : (s.endOf k).aside = s.aside := State.schedule_aside _

@[simp] theorem State.resumeIf_aside (s : State) (t : StrandId) (f : Wait → Bool) : (s.resumeIf t f).aside = s.aside := by
  unfold State.resumeIf
  split
  · exact aside_ite (s.resumeStrand_aside _ _) rfl
  · rfl

@[simp] theorem State.discardCtx_aside (s : State) (k : Nat) : (s.discardCtx k).aside = s.aside := by
  unfold State.discardCtx
  split
  · rfl
  · exact s.abortAll_aside k _

/-! ### Links, routing and stalled transfers -/

@[simp] theorem State.linkState_aside (s : State) (l st : Nat) : (s.linkState l st).aside = s.aside :=
  aside_ite rfl (State.telEvent_aside _ _ _)

@[simp] theorem State.sendIdentity_aside (s : State) (l : Nat) : (s.sendIdentity l).aside = s.aside :=
  aside_foldl (fun a _ => a.send_aside _) _ (s.send _)

@[simp] theorem State.train_aside (s : State) (l : Nat) : (s.train l).aside = s.aside := by simp [State.train]

@[simp] theorem State.linkEnable_aside (s : State) : s.linkEnable.aside = s.aside :=
  aside_foldl (fun a _ => aside_ite (a.linkState_aside _ _) (aside_ite (a.train_aside _) rfl)) _ s

@[simp] theorem State.sendVector_aside (s : State) (l : Nat) (b : Bank) (r : Bool) : (s.sendVector l b r).aside = s.aside :=
  aside_foldl (fun a _ => a.send_aside _) _ s

@[simp] theorem State.loadRouting_aside (s : State) : s.loadRouting.aside = s.aside := by
  unfold State.loadRouting
  refine aside_ite rfl (aside_ite rfl ?_)
  dsimp only
  split
  · rfl
  · exact (aside_foldl (fun a l => a.sendVector_aside l _ _) _ _).trans rfl

@[simp] theorem State.abortStalledOps_aside (s : State) (k : Nat) : (s.abortStalledOps k).aside = s.aside := by
  unfold State.abortStalledOps
  split
  · rfl
  · exact aside_ite ((State.wakeAll_aside _).trans (s.tellMembers_aside _ _)) rfl

@[simp] theorem State.freeParts_aside (s : State) (tags : List Nat) (ops : List (Nat × Nat)) : (s.freeParts tags ops).aside = s.aside := by
  refine aside_foldl (fun a l => ?_) _ s
  refine aside_ite rfl ?_
  rw [State.creditAll_aside, State.onNym_aside]

@[simp] theorem State.abortStalledStrands_aside (s : State) (k : Nat) : (s.abortStalledStrands k).aside = s.aside := by
  unfold State.abortStalledStrands
  split
  · rfl
  · exact aside_ite rfl ((State.onFault_aside _ _).trans (aside_foldl (fun a r => a.onCore_aside _) _ s))

@[simp] theorem State.abortStalledReqs_aside (s : State) : s.abortStalledReqs.aside = s.aside := by
  refine aside_foldl (fun a q => ?_) _ s
  dsimp only
  split
  · split
    · exact State.onFault_aside _ _
    · rfl
  · exact State.qpRefused_aside _ _ _ _
  · rfl

@[simp] theorem State.abortStalled_aside (s : State) : s.abortStalled.aside = s.aside := by
  unfold State.abortStalled
  dsimp only
  rw [aside_foldl (fun a p => a.creditAll_aside _ _), State.onNym_aside, State.freeParts_aside, State.abortStalledReqs_aside,
    aside_foldl State.abortStalledStrands_aside, aside_foldl State.abortStalledOps_aside]

@[simp] theorem State.gather_aside (s : State) (l : Nat) : (s.gather l).aside = s.aside := State.creditAll_aside _ _ _
@[simp] theorem State.askRetry_aside (s : State) (l : Nat) : (s.askRetry l).aside = s.aside := rfl
@[simp] theorem State.resend_aside (s : State) (l q : Nat) : (s.resend l q).aside = s.aside :=
  aside_foldl (fun a _ => a.send_aside _) _ (s.onNym _)

/-! ### Packets -/

@[simp] theorem State.respond_aside (s : State) (p : Packet) (opc arg : Nat) (d : List Byte) (a : Nat) :
    (s.respond p opc arg d a).aside = s.aside := by
  unfold State.respond
  dsimp only
  split <;> rfl

@[simp] theorem State.refusePacket_aside (s : State) (p : Packet) (code : Nat) (d : List Byte) :
    (s.refusePacket p code d).aside = s.aside := s.respond_aside _ _ _ _ _

@[simp] theorem State.takeAbort_aside (s : State) (k st : Nat) : (s.takeAbort k st).aside = s.aside :=
  aside_ite (State.wakeAll_aside _) rfl

@[simp] theorem State.arrive_aside (s : State) (p : Packet) : (s.arrive p).aside = s.aside :=
  aside_ite (s.takeAbort_aside _ _) (aside_ite rfl (aside_ite rfl rfl))

@[simp] theorem State.moveOn_aside (s : State) (p : Packet) (l : Nat) (vcs : List Nat) (w : Nat) : (s.moveOn p l vcs w).aside = s.aside :=
  aside_ite (by simp) (aside_ite rfl (s.inject_aside _ _ _ _))

/-- A checked read of main memory changes the compute side alone. -/
@[simp] theorem State.readMem_aside (s : State) (a n : Nat) (r : Bool) : (s.readMem a n r).1.aside = s.aside := by
  unfold State.readMem
  dsimp only
  split <;> rfl

theorem State.readMem_aside' {s s1 : State} {a n : Nat} {r : Bool} {x : Except (List Byte) (List Byte)} (h : s.readMem a n r = (s1, x)) :
    s1.aside = s.aside := by
  rw [← s.readMem_aside a n r, h]

@[simp] theorem State.remoteFlag_aside (s : State) (p : Packet) : (s.remoteFlag p).aside = s.aside := by
  unfold State.remoteFlag State.remoteRead
  refine aside_ite (s.refusePacket_aside _ _ _) (aside_ite (State.respond_aside _ _ _ _ _ _) ?_)
  split
  · next h => rw [State.refusePacket_aside, State.readMem_aside' h]
  · next h =>
    rw [← State.readMem_aside' h]
    dsimp only
    split
    · exact State.respond_aside _ _ _ _ _ _
    · exact (State.respond_aside _ _ _ _ _ _).trans (aside_ite rfl rfl)
    · exact aside_ite (State.respond_aside _ _ _ _ _ _) rfl

@[simp] theorem State.serve_aside (s : State) (p : Packet) : (s.serve p).aside = s.aside := by
  unfold State.serve State.remoteRead
  refine aside_ite (s.remoteFlag_aside p) (aside_ite (aside_ite (s.refusePacket_aside _ _ _) (State.respond_aside _ _ _ _ _ _))
    (aside_ite (s.refusePacket_aside _ _ _) ?_))
  split
  · next h => rw [State.refusePacket_aside, State.readMem_aside' h]
  · next h => exact (aside_foldl (fun a i => a.respond_aside _ _ _ _ _) _ _).trans (State.readMem_aside' h)

@[simp] theorem State.qpResponse_aside (s : State) (qp : Nat) (q : Req) (p : Packet) : (s.qpResponse qp q p).aside = s.aside :=
  aside_ite (s.wireQp_aside _ _) (aside_ite (s.qpRefused_aside _ _ _) rfl)

@[simp] theorem State.strandResponse_aside (s : State) (k i l r : Nat) (q : Req) (p : Packet) :
    (s.strandResponse k i l r q p).aside = s.aside := by
  unfold State.strandResponse
  dsimp only
  split
  · exact aside_ite (State.wakeCtx_aside _ _) rfl
  · exact aside_ite (State.wakeCtx_aside _ _) rfl
  · exact aside_ite (State.wakeCtx_aside _ _) rfl
  · exact State.onFault_aside _ _

@[simp] theorem State.sieveResponse_aside (s : State) (n : Nat) (p : Packet) : (s.sieveResponse n p).aside = s.aside := by
  unfold State.sieveResponse
  split
  · rfl
  · exact aside_ite rfl (State.onFault_aside _ _)

@[simp] theorem State.response_aside (s : State) (p : Packet) : (s.response p).aside = s.aside := by
  unfold State.response
  split
  · rfl
  · dsimp only
    split
    · exact State.strandResponse_aside _ _ _ _ _ _ _
    · exact State.qpResponse_aside _ _ _ _
    · exact State.sieveResponse_aside _ _ _

@[simp] theorem State.reportStall_aside (s : State) (d : Nat) : (s.reportStall d).aside = s.aside := s.telEvent_aside _ _

@[simp] theorem State.stallOther_aside (s : State) : s.stallOther.aside = s.aside := by
  unfold State.stallOther
  split
  · exact State.reportStall_aside _ _
  · split
    · exact State.reportStall_aside _ _
    · rfl

/-! ### Queues, queue pairs, ports and mailboxes -/

@[simp] theorem State.qpRemote_aside (s : State) (qp va opc : Nat) (d : List Byte) (n : Nat) : (s.qpRemote qp va opc d n).aside = s.aside := by
  unfold State.qpRemote
  split
  · exact s.refuseAccess_aside _ _ _
  · split
    · exact (State.refuse_aside _ _ _ _).trans (s.nak_aside _ _)
    · refine aside_ite rfl ?_
      refine aside_foldl (fun a q => ?_) _ s
      rfl

@[simp] theorem State.cmdtail_aside (s : State) (qp n v a : Nat) : (s.cmdtail qp n v a).aside = s.aside := aside_ite rfl rfl
@[simp] theorem State.cplhead_aside (s : State) (qp n v a : Nat) : (s.cplhead qp n v a).aside = s.aside := aside_ite rfl rfl

@[simp] theorem State.ring_aside (s : State) (qp n o : Nat) {act : State → State} (h : (act s).aside = s.aside) :
    (s.ring qp n o act).aside = s.aside :=
  aside_ite (s.turnedAway_aside _) (aside_ite (s.refuseAccess_aside _ _ _) h)

@[simp] theorem State.doorbell_aside (s : State) (qp va l : Nat) (d : List Byte) : (s.doorbell qp va l d).aside = s.aside :=
  aside_ite (s.refuseAccess_aside _ _ _) (aside_ite (by simp) (aside_ite (by simp) (aside_ite (by simp) rfl)))

/-- A pair whose second part leaves all this. -/
theorem State.aside_ite_snd {α : Type} {p : Prop} [Decidable p] {a b : α × State} {s : State} (ha : a.2.aside = s.aside)
    (hb : b.2.aside = s.aside) : (if p then a else b).2.aside = s.aside := by
  split
  · exact ha
  · exact hb

@[simp] theorem State.boxData_aside (s : State) (p : Path) (m o : Nat) (bs : List Byte) : (s.boxData p m o bs).2.aside = s.aside :=
  aside_ite_snd rfl (aside_ite_snd rfl (aside_ite_snd rfl rfl))

@[simp] theorem State.boxGo_aside (s : State) (p : Path) (m v : Nat) : (s.boxGo p m v).2.aside = s.aside :=
  aside_ite_snd rfl (aside_ite_snd rfl (aside_ite_snd rfl (aside_ite_snd rfl (aside_ite rfl rfl))))

@[simp] theorem State.boxTake_aside (s : State) (p : Path) (m : Nat) : (s.boxTake p m).2.aside = s.aside := aside_ite rfl rfl

@[simp] theorem State.boxWrite_aside (s : State) (p : Path) (m o : Nat) (bs : List Byte) : (s.boxWrite p m o bs).2.aside = s.aside :=
  aside_ite_snd (s.boxData_aside _ _ _ _) (aside_ite_snd (aside_ite_snd rfl (aside_ite_snd rfl (s.boxGo_aside _ _ _))) rfl)

@[simp] theorem State.boxRead_aside (s : State) (p : Path) (m o n : Nat) : (s.boxRead p m o n).2.2.aside = s.aside := by
  unfold State.boxRead
  split
  · rfl
  · exact aside_ite_snd (s.boxTake_aside p m) rfl

@[simp] theorem State.boxRow_aside (s : State) (p : Path) (m o n : Nat) (wr : Bool) {act : State → Nat × State}
    (h : (act s).2.aside = s.aside) : (s.boxRow p m o n wr act).aside = s.aside :=
  aside_ite rfl (aside_ite (s.turnedAway_aside p) (aside_ite (s.refuseAccess_aside _ _ _)
    (aside_ite h ((State.refuseAccess_aside _ _ _ _).trans h))))

@[simp] theorem State.memWrite_aside (s : State) (p : Path) (a n v : Nat) : (s.memWrite p a n v).2.aside = s.aside := by
  unfold State.memWrite
  refine aside_ite_snd rfl ?_
  split
  · rfl
  · exact aside_ite_snd rfl (aside_ite_snd rfl (aside_ite_snd rfl rfl))
  · rfl
  · rfl
  · exact aside_ite_snd rfl (s.boxWrite_aside _ _ _ _)
  · rfl

@[simp] theorem State.readAt_aside (s : State) (p : Path) (a n : Nat) : (s.readAt p a n).2.2.2.aside = s.aside := by
  unfold State.readAt
  split
  · dsimp only
    split <;> rfl
  · rfl
  · split
    · rfl
    · split
      · split
        · next h => exact State.readMem_aside' h
        · next h => exact State.readMem_aside' h
      · rfl
  · rfl
  · rfl
  · rfl
  · split
    · rfl
    · exact s.boxRead_aside _ _ _ _

@[simp] theorem State.undeliverable_aside (s : State) (qp : Nat) : (s.undeliverable qp).aside = s.aside := rfl
@[simp] theorem State.sendAgain_aside (s : State) (qp : Nat) : (s.sendAgain qp).aside = s.aside :=
  aside_foldl (fun a _ => a.wireQp_aside _ _) _ s
@[simp] theorem State.retry_aside (s : State) (qp : Nat) : (s.retry qp).aside = s.aside :=
  aside_ite rfl (aside_ite rfl (State.sendAgain_aside _ _))
@[simp] theorem State.dropFrame_aside (s : State) (p : Nat) : (s.dropFrame p).aside = s.aside := rfl
@[simp] theorem State.cnp_aside (s : State) (p qp : Nat) (m : Bool) : (s.cnp p qp m).aside = s.aside :=
  aside_ite (State.wireQp_aside _ _ _) rfl
@[simp] theorem State.sequence_aside (s : State) (qp psn : Nat) : (s.sequence qp psn).aside = s.aside :=
  aside_ite (State.wireQp_aside _ _ _) (aside_ite (s.wireQp_aside _ _) (s.wireQp_aside _ _))
@[simp] theorem State.portState_aside (s : State) (n : Nat) (up : Bool) : (s.portState n up).aside = s.aside :=
  aside_ite rfl (State.telEvent_aside _ _ _)
@[simp] theorem State.portEnable_aside (s : State) (n v : Nat) : (s.portEnable n v).aside = s.aside :=
  aside_ite (aside_ite (State.telEvent_aside _ _ _) rfl) rfl
@[simp] theorem State.mctpAnswer_aside (s : State) (i : Bool) (a v : Nat) : (s.mctpAnswer i a v).aside = s.aside := aside_ite rfl rfl
@[simp] theorem State.pldmAnswer_aside (s : State) (i : Bool) (a v : Nat) : (s.pldmAnswer i a v).aside = s.aside := aside_ite rfl rfl
@[simp] theorem State.scanSensors_aside (s : State) (vs : List (Nat × Nat)) : (s.scanSensors vs).aside = s.aside := rfl
@[simp] theorem State.routing_aside (s : State) (v : Nat) : (s.routing v).aside = s.aside := by
  have h0 : (s.onNym (fun n => { n with rtAddr := v / 4096 * 4096 })).aside = s.aside := rfl
  have h1 {a b : State} {p : Prop} [Decidable p] {f : Nym → Nym} (h : a.aside = b.aside) : (if p then a.onNym f else a).aside = b.aside :=
    aside_ite h h
  exact aside_ite ((State.loadRouting_aside _).trans (h1 (h1 h0))) (h1 (h1 h0))
@[simp] theorem State.closeEngine_aside (s : State) (e code : Nat) : (s.closeEngine e code).aside = s.aside := rfl

end Sys2Proof.Machine
end

section
/-! What a command leaves of the module's mode: the queue, the board's power, the boot stage, a restart asked for, and whether bivouac mode
is active. Most commands leave all of it. -/
namespace Sys2Proof.Machine

/-- What the order of power and reset asks of the board, but for core power. -/
def Board.power (b : Board) : Bool × Bool × Bool × Bool × Bool × Bool × Bool :=
  (b.on, b.rails, b.input, b.overvolt, b.pgood, b.resetN, b.thermtrip)

/-- The queue, the board's power, core power, the boot stage, a restart asked for, and whether bivouac mode is active. -/
def State.mode (s : State) : List Instr × (Bool × Bool × Bool × Bool × Bool × Bool × Bool) × Bool × Nat × Option CmdRef × Bool :=
  let a := s.aside
  (a.1, a.2.2.2.2.2.1.power, a.2.2.2.2.2.1.corePower, a.2.2.1.stage, a.2.2.1.wantRestart, a.2.2.2.2.2.2.2.2.2)

theorem State.mode_eq (s : State) :
    s.mode = (s.pending, s.board.power, s.board.corePower, s.sec.stage, s.sec.wantRestart, s.lan.bivActive) := rfl

theorem State.mode_of_aside {s s' : State} (h : s'.aside = s.aside) : s'.mode = s.mode := by
  simp only [State.mode, h]

theorem State.mode_ite {p : Prop} [Decidable p] {a b s : State} (ha : a.mode = s.mode) (hb : b.mode = s.mode) :
    (if p then a else b).mode = s.mode := by
  split
  · exact ha
  · exact hb

theorem State.mode_foldl {α : Type} {f : State → α → State} (h : ∀ s a, (f s a).mode = s.mode) (l : List α) (s : State) :
    (l.foldl f s).mode = s.mode := foldl_same State.mode f h l s

/-- A command that answers a state of the same mode. -/
def KeepsMode (s : State) (o : Host.Outcome State Fault Refusal) : Prop := ∃ s', o = .next s' ∧ s'.mode = s.mode

theorem keepsMode_answer {s x : State} (h : x.mode = s.mode) : KeepsMode s (answer x) :=
  ⟨_, rfl, (State.mode_of_aside x.settle_aside).trans h⟩

theorem keepsMode_of_aside {s x : State} (h : x.aside = s.aside) : KeepsMode s (answer x) := keepsMode_answer (State.mode_of_aside h)

/-! ### Instructions of strands -/

/-- Every opcode of a strand issues with its meaning; END has the scheduler go on. -/
theorem exec_of_instrOf {c : Instr} {t : StrandId} {b : Body} {n : Nat} (s : State) (h : instrOf t b n = some c) :
    exec c s = answer (if n = 0x13 then (s.issue t b 0x13 endFn).endOf t.ctx.val else s.issue t b n (opFn n)) := by
  unfold instrOf at h
  split at h <;> cases h <;> rfl

/-- An instruction of a strand, but for END, issues with the meaning of its opcode. -/
theorem exec_of_insParts {c : Instr} {t : StrandId} {op : BitVec 8} {b : Body} (s : State) (h : insParts c = some (t, op, b))
    (he : op.toNat ≠ 0x13) : exec c s = answer (s.issue t b op.toNat (opFn op.toNat)) := by
  rw [exec_of_instrOf s (instrOf_of_insParts h), if_neg he]

/-- An instruction of a strand leaves the queue and the units beside the compute side, Nymhel and the Ethernet side. -/
theorem exec_strand_aside {c : Instr} {t : StrandId} {op : BitVec 8} {b : Body} {s s' : State} (h : insParts c = some (t, op, b))
    (hs : exec c s = .next s') : s'.aside = s.aside := by
  rw [exec_of_instrOf s (instrOf_of_insParts h)] at hs
  cases hs
  rw [State.settle_aside]
  exact State.aside_ite ((State.endOf_aside _ _).trans (s.issue_aside t b 0x13 endFn)) (s.issue_aside t b op.toNat _)

/-- Settles O22: an instruction changes the core, and what follows it Nymhel, the Ethernet side and telemetry alone. -/
theorem strandsTouchNoOtherUnit : Obligations.StrandsTouchNoOtherUnit := by
  intro s s' t b op c hc hs
  have h := exec_strand_aside hc hs
  simp only [State.aside, Prod.mk.injEq] at h
  obtain ⟨hp, hd, hsec, hf, hsi, hb, hbg, hst, hr, -⟩ := h
  exact ⟨hp, hd, hb, hsec, hf, hsi, hbg, hst, hr⟩

end Sys2Proof.Machine
end

section
/-! Which commands leave the module's mode: all but those on the board, boot, bivouac mode and the dies' power. -/
namespace Sys2Proof.Machine

/-! ### Parts of commands -/

@[simp] theorem State.noteFault_mode (s : State) (code : Nat) (d : List Byte) : (s.noteFault code d).mode = s.mode :=
  State.mode_ite (State.mode_of_aside (s.journal_aside _ _)) rfl

@[simp] theorem State.complete_aside (s : State) (h : HostCmd) (opc st res src : Nat) (d : List Byte) (k : Nat) (ex : List Byte) :
    (s.complete h opc st res src d k ex).aside = s.aside := State.aside_ite (s.journal_aside _ _) rfl

@[simp] theorem State.complete_mode (s : State) (h : HostCmd) (opc st res src : Nat) (d : List Byte) (k : Nat) (ex : List Byte) :
    (s.complete h opc st res src d k ex).mode = s.mode := State.mode_of_aside (s.complete_aside ..)

/-- A command whose effect leaves the mode leaves it in every case: that it runs, waits, or is refused. -/
theorem State.command_mode (s : State) (h : HostCmd) (opc : Nat) (ctx : Option Nat) {run : State → State × Fin'}
    (hr : ∀ x : State, (run x).1.mode = x.mode) : (s.command h opc ctx run).mode = s.mode := by
  have h0 : ({ s with started := s.started.erase h } : State).mode = s.mode := rfl
  unfold State.command
  refine State.mode_ite rfl ?_
  dsimp only
  split
  · rfl
  · exact (State.complete_mode ..).trans h0
  · refine State.mode_ite rfl (State.mode_ite ((State.complete_mode ..).trans h0) ?_)
    have hq := hr { s with started := s.started.erase h }
    split
    · next he => rw [he] at hq; exact (State.complete_mode ..).trans hq
    · next he => rw [he] at hq; exact hq
    · rfl

theorem keepsMode_command {s : State} {h : HostCmd} {opc : Nat} {ctx : Option Nat} {run : State → State × Fin'}
    (hr : ∀ x : State, (run x).1.mode = x.mode) : KeepsMode s (answer (s.command h opc ctx run)) :=
  keepsMode_answer (s.command_mode h opc ctx hr)

/-- A pair whose first part leaves the mode. -/
theorem State.mode_ite_fst {α : Type} {p : Prop} [Decidable p] {a b : State × α} {s : State} (ha : a.1.mode = s.mode)
    (hb : b.1.mode = s.mode) : (if p then a else b).1.mode = s.mode := by
  split
  · exact ha
  · exact hb

/-- A read of local memory for a command. -/
@[simp] theorem State.fetch_aside (s : State) (p a n : Nat) (own : Bool) : (s.fetch p a n own).1.aside = s.aside := by
  unfold State.fetch
  split
  · rfl
  · dsimp only
    split
    · rfl
    · split
      · next h => exact State.readMem_aside' h
      · next h => exact State.readMem_aside' h

theorem State.fetch_mode {s s1 : State} {p a n : Nat} {own : Bool} {r : Except (Nat × List Byte) (List Byte)}
    (h : s.fetch p a n own = (s1, r)) : s1.mode = s.mode :=
  State.mode_of_aside ((congrArg (fun q => State.aside q.1) h).symm.trans (s.fetch_aside p a n own))

/-! ### Register writes -/

@[simp] theorem State.regApply_mode (s : State) (r : Reg) (v : Nat) : (s.regApply r v).mode = s.mode := by
  cases r with
  | telCtl => exact State.mode_of_aside (State.telFlush_aside _)
  | slotPart =>
    simp only [State.regApply]
    exact State.mode_of_aside (s.onCore_aside _)
  | smpCtl d => exact State.mode_ite (State.mode_of_aside (s.sampler_aside _ _)) rfl
  | rtCtl => exact State.mode_of_aside (s.routing_aside v)
  | nymCtl => exact State.mode_of_aside (State.linkEnable_aside _)
  | nymStall => exact State.mode_ite (State.mode_of_aside s.abortStalled_aside) rfl
  | portCtl n => exact State.mode_of_aside (s.portEnable_aside n v)
  | eccCnt u => exact State.mode_ite rfl rfl
  | _ => rfl

@[simp] theorem State.regWrite_mode (s : State) (src : Src) (p : Path) (a n v deny : Nat) : (s.regWrite src p a n v deny).2.mode = s.mode := by
  have hj (e : JEntry) : (s.journal src e).mode = s.mode := State.mode_of_aside (s.journal_aside src e)
  unfold State.regWrite
  dsimp only
  split
  · exact State.mode_ite ((State.regApply_mode ..).trans (hj _)) (hj _)
  · exact hj _

@[simp] theorem State.writeAt_mode (s : State) (src : Src) (p : Path) (a n v deny : Nat) : (s.writeAt src p a n v deny).2.mode = s.mode := by
  unfold State.writeAt
  split
  · exact s.regWrite_mode ..
  · exact State.mode_of_aside (s.memWrite_aside ..)

@[simp] theorem State.refuseAccess_mode (s : State) (p : Path) (code a : Nat) : (s.refuseAccess p code a).mode = s.mode :=
  State.mode_of_aside (s.refuseAccess_aside p code a)

@[simp] theorem State.regSent_mode (s : State) (p : Path) (a n v named : Nat) : (s.regSent p a n v named).mode = s.mode :=
  State.mode_ite rfl (State.mode_ite (s.writeAt_mode ..) ((State.refuseAccess_mode ..).trans (s.writeAt_mode ..)))

@[simp] theorem State.regRow_mode (s : State) (p : Path) (a v : Nat) : (s.regRow p a v).mode = s.mode :=
  State.mode_ite (s.regSent_mode ..) (State.mode_of_aside (s.turnedAway_aside p))

theorem execRegisterWrite_keepsMode (p : Path) (a : W64) (n : Nat) (v : W64) (s : State) : KeepsMode s (execRegisterWrite p a n v s) := by
  refine keepsMode_answer (State.mode_ite (State.mode_of_aside (s.turnedAway_aside p)) (State.mode_ite (s.regSent_mode ..) ?_))
  cases p with
  | roce qp => exact State.mode_of_aside (s.qpRemote_aside ..)
  | mailbox m => exact State.mode_ite (s.refuseAccess_mode ..) rfl
  | mctp i c => exact State.mode_ite (s.refuseAccess_mode ..) rfl

theorem execSaveWindowAccess_keepsMode (p : Path) (a : W64) (w : Option (List Byte)) (n : Nat) (s : State) :
    KeepsMode s (execSaveWindowAccess p a w n s) := by
  unfold execSaveWindowAccess
  refine keepsMode_of_aside (State.aside_ite rfl (State.aside_ite (s.refuse_aside ..) ?_))
  extract_lets me o
  generalize s.core.windowRead me o _ = q
  clear_value me o
  obtain ⟨c, r⟩ := q
  cases w with
  | some bs => exact (State.send_aside _ _).trans (s.onCore_aside _)
  | none =>
    cases r with
    | error w => exact (State.refuse_aside ..).trans (State.reportFault_aside ..)
    | ok bs => exact State.send_aside ..

/-! ### Ends of waits, barriers and collectives, samplers and decode requests -/

theorem execPanelArrival_keepsMode (t : StrandId) (d : List Byte) (s : State) : KeepsMode s (execPanelArrival t d s) := by
  refine keepsMode_of_aside ?_
  split
  · exact State.aside_ite (State.resumeIf_aside _ _ _) rfl
  · rfl

theorem execBarrierComplete_keepsMode (t : StrandId) (s : State) : KeepsMode s (execBarrierComplete t s) := by
  refine keepsMode_of_aside ?_
  split
  · exact State.wakeCtx_aside _ _
  · rfl

theorem execCollectiveComplete_keepsMode (t : StrandId) (ps : List Peer) (s : State) : KeepsMode s (execCollectiveComplete t ps s) := by
  refine keepsMode_of_aside ?_
  split
  · exact State.aside_ite (State.wakeCtx_aside _ _) rfl
  · rfl

theorem execSamplerFaultDetected_keepsMode (d : Fin 8) (t : Option (StrandId × Body)) (s : State) :
    KeepsMode s (execSamplerFaultDetected d t s) := by
  refine keepsMode_of_aside (State.aside_ite ?_ rfl)
  have h1 : ((s.onCore (fun c => c.toGumbel d.val)).sampler d.val samplerFault).aside = s.aside := State.sampler_aside _ _ _
  cases t with
  | some q => exact (State.issue_aside _ _ _ _ _).trans h1
  | none => exact h1

/-! ### Packets and links -/

theorem execRemoteAccessReceived_keepsMode (s : State) : KeepsMode s (execRemoteAccessReceived s) := by
  refine keepsMode_of_aside ?_
  split
  · exact State.serve_aside _ _
  · rfl

theorem execRemoteResponseReceived_keepsMode (s : State) : KeepsMode s (execRemoteResponseReceived s) := by
  refine keepsMode_of_aside ?_
  split
  · exact State.response_aside _ _
  · rfl

theorem execRemoteFwaitAnswer_keepsMode (n : Nat) (s : State) : KeepsMode s (execRemoteFwaitAnswer n s) := by
  refine keepsMode_of_aside ?_
  split
  · rfl
  · unfold State.remoteRead
    dsimp only
    split
    · next h =>
      have hr := State.readMem_aside' h
      exact (State.refusePacket_aside ..).trans hr
    · next h =>
      have hr := State.readMem_aside' h
      exact State.aside_ite ((State.respond_aside ..).trans hr) hr

theorem execLinkTrained_keepsMode (l : Fin 24) (pd pl : Nat) (pk : PeerLink) (s : State) : KeepsMode s (execLinkTrained l pd pl pk s) := by
  refine keepsMode_of_aside (State.aside_ite rfl ?_)
  refine State.aside_ite (State.linkState_aside ..) ?_
  dsimp only
  rw [State.drain_aside, State.aside_foldl (fun a o => a.credit_aside _ _ _), State.onNym_aside, State.aside_foldl (fun a _ => a.send_aside _),
    State.linkState_aside, State.onNym_aside]

theorem execFlitReceived_keepsMode (l : Fin 24) (f : List Byte) (bad : Bool) (s : State) : KeepsMode s (execFlitReceived l f bad s) := by
  refine keepsMode_of_aside (State.aside_ite rfl (State.aside_ite (s.askRetry_aside _) (State.aside_ite (State.resend_aside _ _ _)
    (State.aside_ite (State.aside_ite (State.drain_aside _ _) rfl) (State.aside_ite rfl ?_)))))
  dsimp only
  rw [State.drain_aside, State.send_aside, State.gather_aside, State.onNym_aside]

theorem execEscapeMove_keepsMode (l : Fin 24) (s : State) : KeepsMode s (execEscapeMove l s) := by
  refine keepsMode_of_aside ?_
  dsimp only
  split
  · exact State.drain_aside _ _
  · rfl

theorem execPacketReceived_keepsMode (s : State) : KeepsMode s (execPacketReceived s) := by
  refine keepsMode_of_aside ?_
  split
  · exact State.moveOn_aside ..
  · split
    · rfl
    · dsimp only
      refine State.aside_ite (State.aside_ite ((State.refusePacket_aside ..).trans (State.creditAll_aside ..)) (State.creditAll_aside ..))
        (State.aside_ite (State.creditAll_aside ..) ?_)
      split
      · exact State.moveOn_aside ..
      · rfl

theorem execTableVectorReceived_keepsMode (l : Fin 24) (v : TableVec) (s : State) : KeepsMode s (execTableVectorReceived l v s) := by
  refine keepsMode_of_aside (State.aside_ite rfl ?_)
  dsimp only
  split
  · exact State.aside_ite rfl (State.sendVector_aside ..)
  · rfl

theorem execRoutingCheckComplete_keepsMode (s : State) : KeepsMode s (execRoutingCheckComplete s) := by
  refine keepsMode_of_aside ?_
  split
  · refine State.aside_ite rfl ?_
    split <;> rfl
  · rfl

theorem execRoutingVectorTimeout_keepsMode (l : Fin 24) (s : State) : KeepsMode s (execRoutingVectorTimeout l s) := by
  refine keepsMode_of_aside ?_
  split
  · split
    · exact State.aside_ite rfl rfl
    · rfl
  · rfl

theorem execKeepalive_keepsMode (k : Fin 1024) (s : State) : KeepsMode s (execKeepalive k s) := by
  refine keepsMode_of_aside ?_
  split
  · refine State.aside_ite (State.aside_foldl (fun a m => State.aside_ite rfl ?_) _ s) rfl
    split <;> rfl
  · rfl

theorem execMemberLost_keepsMode (k : Fin 1024) (r : Nat) (c : Fin 6) (s : State) : KeepsMode s (execMemberLost k r c s) := by
  refine keepsMode_of_aside ?_
  split
  · exact State.aside_ite ((State.wakeAll_aside _).trans (s.abortAll_aside _ _)) rfl
  · rfl

theorem execTransferStalled_keepsMode (t : StrandId) (s : State) : KeepsMode s (execTransferStalled t s) := by
  refine keepsMode_of_aside ?_
  dsimp only
  split
  · refine State.aside_ite rfl (State.aside_ite (State.reportStall_aside ..) ?_)
    split
    · exact State.reportStall_aside ..
    · exact s.stallOther_aside
  · exact s.stallOther_aside

end Sys2Proof.Machine
end

section
/-! Commands of hosts, queues, queue pairs, ports, mailboxes and management leave the module's mode. -/
namespace Sys2Proof.Machine

/-! ### Commands on registers, packs, contexts, bindings and rations -/

/-- A refusal of a command leaves the state. -/
@[simp] theorem no_fst (s : State) (code : Nat) (d : List Byte) : (no s code d).1 = s := rfl

theorem execNopCommand_keepsMode (h : HostCmd) (s : State) : KeepsMode s (execNopCommand h s) :=
  keepsMode_command fun _ => State.mode_ite_fst rfl rfl

theorem execRegrd_keepsMode (h : HostCmd) (s : State) : KeepsMode s (execRegrd h s) :=
  keepsMode_command fun x => State.mode_ite_fst rfl (State.mode_ite_fst rfl
    (State.mode_ite_fst (State.mode_of_aside (x.readAt_aside ..)) (State.mode_of_aside (x.readAt_aside ..))))

theorem execRegwr_keepsMode (h : HostCmd) (s : State) : KeepsMode s (execRegwr h s) :=
  keepsMode_command fun x => State.mode_ite_fst rfl (State.mode_ite_fst rfl (x.writeAt_mode ..))

theorem execPackLoad_keepsMode (h : HostCmd) (f : PackFacts) (s : State) : KeepsMode s (execPackLoad h f s) := by
  refine keepsMode_command fun x => State.mode_ite_fst rfl ?_
  split
  · rfl
  · rfl
  · split
    · next hf => exact State.fetch_mode hf
    · next hf =>
      have hx := State.fetch_mode hf
      refine State.mode_ite_fst hx (State.mode_ite_fst hx ?_)
      split
      · exact hx
      · split
        · exact hx
        · exact State.mode_ite_fst hx ((State.mode_of_aside (State.onCore_aside _ _)).trans hx)

theorem execContextCreate_keepsMode (h : HostCmd) (s : State) : KeepsMode s (execContextCreate h s) := by
  refine keepsMode_command fun x => ?_
  dsimp only
  split
  · refine State.mode_ite_fst rfl (State.mode_ite_fst rfl ?_)
    split
    · rfl
    · exact State.mode_ite_fst rfl (State.mode_ite_fst rfl rfl)
  · rfl
  · rfl

@[simp] theorem State.schedule_mode (s : State) : s.schedule.mode = s.mode := State.mode_of_aside s.schedule_aside
@[simp] theorem State.onCore_mode (s : State) (f : Core → Core) : (s.onCore f).mode = s.mode := rfl

/-- The scheduler's work after a change of the core. -/
theorem State.schedule_onCore_mode (s : State) (f : Core → Core) {α : Type} (r : α) : ((s.onCore f).schedule, r).1.mode = s.mode := by
  dsimp only
  exact (State.schedule_mode _).trans (s.onCore_mode f)

theorem execDiscard_keepsMode (h : HostCmd) (s : State) : KeepsMode s (execDiscard h s) := by
  refine keepsMode_command fun x => State.mode_ite_fst rfl (State.mode_ite_fst rfl ?_)
  dsimp only
  exact (x.discardCtx h.ctxArg).schedule_mode.trans (State.mode_of_aside (x.discardCtx_aside _))

theorem execLaunch_keepsMode (h : HostCmd) (s : State) : KeepsMode s (execLaunch h s) := by
  refine keepsMode_command fun x => State.mode_ite_fst rfl ?_
  split
  · rfl
  · exact State.mode_ite_fst rfl (State.mode_ite_fst rfl (State.schedule_onCore_mode ..))

theorem execResume_keepsMode (h : HostCmd) (s : State) : KeepsMode s (execResume h s) := by
  refine keepsMode_command fun x => State.mode_ite_fst rfl ?_
  split
  · rfl
  · exact State.mode_ite_fst rfl (State.mode_ite_fst (State.schedule_onCore_mode ..) (State.schedule_onCore_mode ..))

theorem execSaveContext_keepsMode (h : HostCmd) (s : State) : KeepsMode s (execSaveContext h s) := by
  refine keepsMode_command fun x => State.mode_ite_fst rfl ?_
  split
  · rfl
  · refine State.mode_ite_fst rfl (State.mode_ite_fst rfl ?_)
    split <;> rfl

theorem execRestoreContext_keepsMode (h : HostCmd) (s : State) : KeepsMode s (execRestoreContext h s) := by
  refine keepsMode_command fun x => State.mode_ite_fst rfl ?_
  split
  · rfl
  · refine State.mode_ite_fst rfl ?_
    split
    · refine State.mode_ite_fst rfl ?_
      split
      · rfl
      · refine State.mode_ite_fst rfl (State.mode_ite_fst rfl ?_)
        split
        · rfl
        · exact State.schedule_onCore_mode ..
    · rfl
    · rfl

theorem execRationSet_keepsMode (h : HostCmd) (s : State) : KeepsMode s (execRationSet h s) := by
  refine keepsMode_command fun x => State.mode_ite_fst rfl ?_
  split
  · next hf => exact State.fetch_mode hf
  · next hf => exact State.mode_ite_fst (State.fetch_mode hf) ((State.mode_of_aside (State.onCore_aside _ _)).trans (State.fetch_mode hf))

theorem execPartitionMode_keepsMode (h : HostCmd) (s : State) : KeepsMode s (execPartitionMode h s) :=
  keepsMode_command fun _ => State.mode_ite_fst rfl rfl

theorem execBinding_keepsMode (h : HostCmd) (s : State) : KeepsMode s (execBinding h s) := by
  refine keepsMode_command fun x => State.mode_ite_fst rfl ?_
  split
  · next hf => exact State.fetch_mode hf
  · next hf =>
    have hx := State.fetch_mode hf
    split
    · exact hx
    · exact State.mode_ite_fst hx (State.mode_ite_fst hx hx)

@[simp] theorem State.clearUnit_mode (s : State) (u : Nat × Nat × Nat) : (s.clearUnit u).mode = s.mode := by
  unfold State.clearUnit
  split <;> rfl

theorem execBindingComplete_keepsMode (s : State) : KeepsMode s (execBindingComplete s) := by
  refine keepsMode_answer ?_
  split
  · refine ((State.schedule_mode _).trans (State.onCore_mode _ _)).trans ?_
    refine (State.mode_foldl (fun a u => State.mode_ite rfl ?_) _ _).trans ((State.mode_of_aside (State.journal_aside _ _ _)).trans rfl)
    exact (State.onCore_mode _ _).trans (a.clearUnit_mode u)
  · rfl

theorem execLinkRebindAbort_keepsMode (s : State) : KeepsMode s (execLinkRebindAbort s) := by
  refine keepsMode_answer ?_
  split
  · next r _ =>
    have h1 : ((s.onRebound r).foldl (fun (a : State) k => a.abortAll k (statusWord 2 noRank)) s).wakeAll.mode = s.mode :=
      State.mode_of_aside ((State.wakeAll_aside _).trans (State.aside_foldl (fun a k => a.abortAll_aside k _) _ s))
    exact h1
  · rfl

theorem execPreemptionPointReached_keepsMode (k : Fin 1024) (s : State) : KeepsMode s (execPreemptionPointReached k s) :=
  keepsMode_of_aside ((State.wakeCtx_aside _ _).trans ((State.onCore_aside _ _).trans (State.aside_ite rfl rfl)))

/-! ### Doorbells, rings and RDMA -/

@[simp] theorem State.cmdtailRing_aside (s : State) (qp n v a : Nat) : (s.ring qp n 0 (fun s => s.cmdtail qp n v a)).aside = s.aside :=
  s.ring_aside qp n 0 (s.cmdtail_aside ..)

theorem execMailboxTake_keepsMode (p : Path) (m : Fin 32) (s : State) : KeepsMode s (execMailboxTake p m s) :=
  keepsMode_of_aside (s.boxRow_aside p _ _ _ _ ((State.send_aside _ _).trans (s.boxTake_aside ..)))

theorem execRdmaWriteReceived_keepsMode (qp : Fin 4096) (va : W64) (k : W32) (d : List Byte) (s : State) :
    KeepsMode s (execRdmaWriteReceived qp va k d s) := by
  refine keepsMode_answer (State.mode_ite rfl (State.mode_ite (State.mode_of_aside (s.wireQp_aside ..))
    (State.mode_ite (State.mode_of_aside (s.nak_aside ..)) (State.mode_ite rfl ?_))))
  split
  · exact State.mode_of_aside (s.qpRemote_aside ..)
  · split
    · exact State.mode_ite (State.mode_of_aside (s.doorbell_aside ..)) (State.mode_ite (s.refuseAccess_mode ..) (State.mode_ite (s.refuseAccess_mode ..)
        (State.mode_ite (State.mode_of_aside (s.boxWrite_aside ..)) ((State.refuseAccess_mode ..).trans (State.mode_of_aside (s.boxWrite_aside ..))))))
    · exact s.regSent_mode ..
    · exact State.mode_ite rfl (State.mode_ite (s.refuseAccess_mode ..) (State.mode_of_aside ((State.refuse_aside ..).trans (s.nak_aside ..))))

theorem execRdmaReadReceived_keepsMode (qp : Fin 4096) (va : W64) (k : W32) (n : Nat) (s : State) :
    KeepsMode s (execRdmaReadReceived qp va k n s) := by
  refine keepsMode_of_aside (State.aside_ite rfl (State.aside_ite (s.wireQp_aside ..) (State.aside_ite (s.nak_aside ..)
    (State.aside_ite (s.wireQp_aside ..) ?_))))
  split
  · exact s.qpRemote_aside ..
  · split
    · exact State.aside_ite (s.refuseAccess_aside ..) (State.aside_ite (s.refuseAccess_aside ..)
        (State.aside_ite ((State.wireQp_aside ..).trans (s.boxRead_aside ..)) ((State.refuseAccess_aside ..).trans (s.boxRead_aside ..))))
    · exact State.aside_ite (s.wireQp_aside ..) (s.refuseAccess_aside ..)
    · refine State.aside_ite (s.refuseAccess_aside ..) (State.aside_ite ((State.refuse_aside ..).trans (s.nak_aside ..)) ?_)
      split
      · next hr => rw [State.refuse_aside, State.nak_aside, State.reportFault_aside, State.readMem_aside' hr]
      · next hr => rw [State.wireQp_aside, State.readMem_aside' hr]

@[simp] theorem State.enter_mode (s : State) (h : HostCmd) (bad : Bool) : (s.enter h bad).mode = s.mode := by
  unfold State.enter
  refine State.mode_ite (s.complete_mode ..) ?_
  split
  · exact s.complete_mode ..
  · exact State.mode_ite (s.complete_mode ..) rfl

@[simp] theorem State.readEntry_mode (s : State) (n : Nat) : (s.readEntry n).mode = s.mode := by
  unfold State.readEntry
  refine State.mode_ite rfl (State.mode_ite ((State.complete_mode ..).trans rfl) (State.mode_ite ((State.complete_mode ..).trans rfl) (State.mode_ite rfl (State.mode_ite rfl ?_))))
  exact (State.enter_mode ..).trans rfl

theorem execCompletionRecordWrite_keepsMode (n : Fin 4096) (s : State) : KeepsMode s (execCompletionRecordWrite n s) := by
  refine keepsMode_of_aside ?_
  dsimp only
  split
  · rfl
  · next r rest _ =>
    refine State.aside_ite rfl ?_
    have h1 (x : State) : (match r.frec with
        | some f => x.request n.val (.hostWrite n.val f.1 (s.eth.queue n.val).rkey f.2) f.2
        | none => x).aside = x.aside := by
      split
      · exact x.request_aside ..
      · rfl
    exact State.aside_ite ((State.request_aside ..).trans ((State.request_aside ..).trans (h1 _))) ((State.request_aside ..).trans (h1 _))

/-! ### Connections, frames and ports -/

theorem execReq_keepsMode (p : Fin 4) (sv : W64) (r m : Nat) (c : Caller) (s : State) : KeepsMode s (execReq p sv r m c s) := by
  refine keepsMode_of_aside (State.aside_ite rfl ?_)
  split
  · exact State.aside_ite (State.wirePort_aside ..) (s.wirePort_aside ..)
  · exact s.wirePort_aside ..

theorem execFrameReceived_keepsMode (p : Fin 4) (f : FrameKind) (s : State) : KeepsMode s (execFrameReceived p f s) := by
  refine keepsMode_of_aside (State.aside_ite rfl ?_)
  cases f with
  | roce qp psn m => exact State.aside_ite rfl (State.aside_ite rfl ((State.sequence_aside ..).trans (s.cnp_aside ..)))
  | ack qp psn m => exact State.aside_ite rfl ((State.onEth_aside ..).trans (s.cnp_aside ..))
  | again qp psn rnr => exact State.aside_ite rfl (State.aside_ite (State.sendAgain_aside ..) (State.retry_aside ..))
  | roceBad qp => exact State.aside_ite rfl (s.wireQp_aside ..)
  | arp ip => exact State.aside_ite (s.wirePort_aside ..) rfl
  | neighbour ip => exact State.aside_ite (s.wirePort_aside ..) rfl
  | echo v6 ip => exact State.aside_ite (s.wirePort_aside ..) rfl
  | pfc prios => rfl
  | fecBad => rfl
  | other => rfl

theorem execPfcPauseExpiry_keepsMode (p : Fin 4) (q : Fin 8) (s : State) : KeepsMode s (execPfcPauseExpiry p q s) :=
  keepsMode_of_aside ((State.aside_foldl (fun a _ => a.wire_aside _ _ _) _ _).trans rfl)

theorem execMctpVendorMessage_keepsMode (i : Bool) (a : Nat) (v : W32) (e : List Byte) (s : State) : KeepsMode s (execMctpVendorMessage i a v e s) := by
  refine keepsMode_answer (State.mode_ite rfl (State.mode_ite ?_ (s.enter_mode ..)))
  exact State.mode_of_aside ((State.send_aside ..).trans (State.aside_ite (State.journal_aside ..) rfl))

theorem execPldmSensorUpdate_keepsMode (vs : List (Nat × Nat)) (cr : List Nat) (s : State) : KeepsMode s (execPldmSensorUpdate vs cr s) :=
  keepsMode_of_aside (State.aside_ite ((State.aside_foldl (fun a n => a.platform_aside 0 n) _ _).trans (s.scanSensors_aside vs)) rfl)

end Sys2Proof.Machine
end

section
/-! Video, the Damper's loops, background work and firmware commands leave the module's mode. -/
namespace Sys2Proof.Machine

/-! ### Video engines -/

@[simp] theorem State.modEngine_aside (s : State) (e : Nat) (f : Engine → Engine) : (s.modEngine e f).aside = s.aside := rfl
@[simp] theorem State.setRun_aside (s : State) (e : Nat) (r : Running) : (s.setRun e r).aside = s.aside := rfl
@[simp] theorem State.endFrame_aside (s : State) (e : Nat) (r : Running) (t : Stream) : (s.endFrame e r t).aside = s.aside := rfl
@[simp] theorem State.closeStream_aside (s : State) (e i : Nat) (t : Stream) : (s.closeStream e i t).aside = s.aside := rfl
@[simp] theorem State.subDone_aside (s : State) (p : Nat) (b : Submit) (st r : Nat) (d : List Byte) : (s.subDone p b st r d).aside = s.aside := rfl
@[simp] theorem State.vidStore_aside (s : State) (p a : Nat) (bs : List Byte) : (s.vidStore p a bs).aside = s.aside := State.aside_ite rfl rfl
@[simp] theorem State.vidSpoil_aside (s : State) (p a n : Nat) : (s.vidSpoil p a n).aside = s.aside := State.aside_ite rfl rfl
@[simp] theorem State.saveStream_aside (s : State) (t : Stream) : (s.saveStream t).aside = s.aside := s.vidSpoil_aside ..

@[simp] theorem State.vidRead_aside (s : State) (p a n : Nat) : (s.vidRead p a n).1.aside = s.aside := by
  unfold State.vidRead
  dsimp only
  split
  · rfl
  · split
    · next h => exact State.readMem_aside' h
    · next h => exact State.readMem_aside' h

theorem State.vidRead_aside' {s s1 : State} {p a n : Nat} {r : Except (Nat × List Byte) (List Byte)} (h : s.vidRead p a n = (s1, r)) :
    s1.aside = s.aside := by rw [← s.vidRead_aside p a n, h]

theorem State.fetch_aside' {s s1 : State} {p a n : Nat} {own : Bool} {r : Except (Nat × List Byte) (List Byte)}
    (h : s.fetch p a n own = (s1, r)) : s1.aside = s.aside := by rw [← s.fetch_aside p a n own, h]

@[simp] theorem State.frameAt_aside (s : State) (p : Nat) (dec : Bool) (a : Nat) : (s.frameAt p dec a).1.aside = s.aside := by
  unfold State.frameAt
  split
  · rfl
  · split
    · next h => exact State.fetch_aside' h
    · next h => exact State.fetch_aside' h

theorem State.frameAt_aside' {s s1 : State} {p a : Nat} {dec : Bool} {r : Except (Nat × List Byte) (List Byte)}
    (h : s.frameAt p dec a = (s1, r)) : s1.aside = s.aside := by rw [← s.frameAt_aside p dec a, h]

/-- A fold over pairs whose first parts keep all this. -/
theorem State.aside_foldl_fst {α β : Type} {f : State × β → α → State × β} (h : ∀ q a, (f q a).1.aside = q.1.aside) (l : List α)
    (q : State × β) : (l.foldl f q).1.aside = q.1.aside := foldl_same (fun q => q.1.aside) f h l q

@[simp] theorem State.poolOf_aside (s : State) (p : Nat) (b : List Byte) : (s.poolOf p b).1.aside = s.aside := by
  unfold State.poolOf
  dsimp only
  split
  · rfl
  · split
    · next h => exact State.fetch_aside' h
    · next h =>
      refine (State.aside_foldl_fst (fun q a => ?_) _ _).trans (State.fetch_aside' h)
      split
      · rfl
      · exact q.1.frameAt_aside ..

theorem State.poolOf_aside' {s s1 : State} {p : Nat} {b : List Byte} {r : Except (Nat × List Byte) (List (Nat × List Byte))}
    (h : s.poolOf p b = (s1, r)) : s1.aside = s.aside := by rw [← s.poolOf_aside p b, h]

@[simp] theorem State.streamCmd_mode (s : State) (h : HostCmd) : (s.streamCmd h).mode = s.mode := by
  refine s.command_mode h _ _ fun x => State.mode_ite_fst rfl (State.mode_ite_fst ?_ (State.mode_ite_fst rfl ?_))
  · dsimp only
    split
    · exact State.mode_ite_fst (State.mode_of_aside (x.closeStream_aside ..)) rfl
    · rfl
  · split
    · next hf => exact State.mode_ite_fst (State.fetch_mode hf) (State.fetch_mode hf)
    · next hf =>
      have hx := State.fetch_mode hf
      refine State.mode_ite_fst hx ?_
      split
      · next hp => exact (State.mode_of_aside (State.poolOf_aside' hp)).trans hx
      · next hp _ => exact (State.mode_of_aside (State.poolOf_aside' hp)).trans hx
      · next hp _ => exact (State.mode_of_aside ((State.modEngine_aside ..).trans (State.poolOf_aside' hp))).trans hx

theorem execSubmit_keepsMode (h : HostCmd) (s : State) : KeepsMode s (execSubmit h s) := by
  refine keepsMode_command fun x => State.mode_ite_fst rfl ?_
  split
  · rfl
  · next t _ =>
    refine State.mode_ite_fst rfl ?_
    have hfr (q) (h : (if t.dec then (x, .ok []) else x.frameAt t.part false (h.arg 8 8)) = q) : q.1.mode = x.mode := by
      rw [← h]
      exact State.mode_ite_fst rfl (State.mode_of_aside (x.frameAt_aside ..))
    dsimp only
    split
    · next h => exact hfr _ h
    · next h => exact State.mode_ite_fst (hfr _ h) ((State.mode_of_aside (State.modEngine_aside ..)).trans (hfr _ h))

@[simp] theorem State.acquire_aside (s : State) (b : Submit) : (s.acquire b).1.aside = s.aside := by
  unfold State.acquire
  split
  · rfl
  · split
    · next h => exact State.readMem_aside' h
    · next h => exact State.readMem_aside' h

@[simp] theorem State.frameData_aside (s : State) (p : Nat) (b : List Byte) : (s.frameData p b).1.aside = s.aside := by
  refine State.aside_foldl_fst (fun q row => ?_) _ _
  split
  · rfl
  · split
    · next h => exact State.vidRead_aside' h
    · next h => exact State.vidRead_aside' h

theorem State.frameData_aside' {s s1 : State} {p : Nat} {b : List Byte} {r : Except (Nat × List Byte) (List Nat × Bool)}
    (h : s.frameData p b = (s1, r)) : s1.aside = s.aside := by rw [← s.frameData_aside p b, h]

@[simp] theorem State.unitData_aside (s : State) (t : Stream) (b : Submit) : (s.unitData t b).1.aside = s.aside := by
  unfold State.unitData
  split
  · split
    · next h => exact State.vidRead_aside' h
    · next h => exact State.vidRead_aside' h
  · split
    · next h => exact State.frameAt_aside' h
    · next h =>
      split
      · next hq => exact (State.frameData_aside' hq).trans (State.frameAt_aside' h)
      · next hq => exact (State.frameData_aside' hq).trans (State.frameAt_aside' h)

theorem State.unitData_aside' {s s1 : State} {t : Stream} {b : Submit} {r : Except (Nat × List Byte) (List Nat × Nat × Bool)}
    (h : s.unitData t b = (s1, r)) : s1.aside = s.aside := by rw [← s.unitData_aside t b, h]

theorem execFrameStart_keepsMode (e : Fin 4) (s : State) : KeepsMode s (execFrameStart e s) := by
  refine keepsMode_of_aside (State.aside_ite rfl ?_)
  split
  · exact (State.subDone_aside ..).trans ((State.modEngine_aside ..).trans (s.acquire_aside _))
  · rfl
  · next i t b _ _ =>
    refine State.aside_ite ?_ ?_
    · simp only [State.subDone_aside, State.modEngine_aside, State.acquire_aside]
    extract_lets s2
    have h2 : s2.aside = s.aside := by
      dsimp only [s2]
      split
      · split
        · rw [State.modEngine_aside, State.acquire_aside]
        · cases lookup (s.engine e.val).streams _ <;> simp
      · rw [State.modEngine_aside, State.acquire_aside]
    clear_value s2
    split
    · next hu => exact (State.subDone_aside ..).trans ((State.unitData_aside' hu).trans h2)
    · next hu => exact (State.modEngine_aside ..).trans ((State.unitData_aside' hu).trans h2)

theorem execSliceComplete_keepsMode (e : Fin 4) (n : Nat) (s : State) : KeepsMode s (execSliceComplete e n s) := by
  refine keepsMode_of_aside ?_
  split
  · refine State.aside_ite rfl ?_
    extract_lets bytes n code s1 s2
    refine State.aside_ite rfl (State.aside_ite rfl ?_)
    have h2 : s2.aside = s.aside := by simp only [s2, s1, State.setRun_aside, State.vidStore_aside]
    clear_value s2
    refine State.aside_ite ?_ h2
    split
    · exact (State.unsolicited_aside ..).trans h2
    · exact h2
  · rfl

@[simp] theorem State.encodeDone_aside (s : State) (e : Nat) (r : Running) (t : Stream) : (s.encodeDone e r t).aside = s.aside :=
  State.aside_ite rfl (State.aside_ite (State.aside_ite (s.vidStore_aside ..) rfl) (State.aside_ite rfl rfl))

@[simp] theorem State.decodeRow_aside (s : State) (t : Stream) (data : List Nat) (pic : Picture) (depth : Nat) (p : Nat × Td × Nat × Nat)
    (last : Option Td) (i : Nat) : (s.decodeRow t data pic depth p last i).aside = s.aside := by
  unfold State.decodeRow
  dsimp only
  rw [State.vidStore_aside]
  split
  · split
    · rfl
    · split
      · next h => exact State.vidRead_aside' h
      · next h => exact State.vidRead_aside' h
  · rfl

@[simp] theorem State.decodeRows_aside (s : State) (t : Stream) (n : Nat) (data : List Nat) (pic : Picture) (lo hi : Nat) :
    (s.decodeRows t n data pic lo hi).aside = s.aside :=
  State.aside_foldl (fun a _ => State.aside_foldl (fun a _ => a.decodeRow_aside ..) _ a) _ s

theorem execDecodeRowComplete_keepsMode (e : Fin 4) (rows : Nat) (s : State) :
    KeepsMode s (execDecodeRowComplete e rows s) := by
  refine keepsMode_of_aside ?_
  split
  · split
    · next r t _ _ n _ =>
      extract_lets pic prog c1 code s1
      have h1 : s1.aside = s.aside := s.decodeRows_aside t n r.data pic r.progress rows
      clear_value s1 prog c1 code pic
      exact State.aside_ite rfl (State.aside_ite rfl (State.aside_ite h1 ((s1.vidStore_aside ..).trans h1)))
    · rfl
  · rfl

@[simp] theorem State.outputs_aside (s : State) (t : Stream) (l : List Nat) : (s.outputs t l).1.aside = s.aside := by
  refine State.aside_foldl_fst (fun q i => ?_) _ _
  split
  · exact q.1.vidStore_aside ..
  · rfl

@[simp] theorem State.decodeDone_aside (s : State) (e n : Nat) (r : Running) (t : Stream) (late : Bool) :
    (s.decodeDone e n r t late).aside = s.aside :=
  State.aside_ite rfl (State.aside_ite rfl (State.aside_ite rfl ((State.subDone_aside ..).trans ((State.endFrame_aside ..).trans
    ((State.outputs_aside ..).trans (s.decodeRows_aside ..))))))

theorem execFrameComplete_keepsMode (e : Fin 4) (i : Fin 256) (s : State) : KeepsMode s (execFrameComplete e i s) := by
  refine keepsMode_of_aside ?_
  split
  · split
    · exact s.decodeDone_aside ..
    · exact s.encodeDone_aside ..
  · rfl

theorem execVideoWatchdog_keepsMode (e : Fin 4) (i : Fin 256) (s : State) : KeepsMode s (execVideoWatchdog e i s) := by
  refine keepsMode_of_aside ?_
  split
  · split
    · exact (State.modEngine_aside ..).trans (s.decodeDone_aside ..)
    · rfl
  · rfl

end Sys2Proof.Machine
end

section
/-! The Damper's loops, background work and firmware commands, and so every command that leaves the module's mode. -/
namespace Sys2Proof.Machine

/-! ### The Damper -/

@[simp] theorem State.onDmp_mode (s : State) (f : Dmp → Dmp) : (s.onDmp f).mode = s.mode := rfl

@[simp] theorem State.noteSensors_mode (s : State) (a b : Vector Sensor 16) : (s.noteSensors a b).mode = s.mode :=
  State.mode_ite ((State.mode_of_aside (State.telEvent_aside ..)).trans (s.noteFault_mode ..)) rfl

theorem execVoltageSettled_keepsMode (d : Fin 8) (s : State) : KeepsMode s (execVoltageSettled d s) :=
  keepsMode_answer (State.mode_ite rfl rfl)

theorem execCalibrationFit_keepsMode (s : State) : KeepsMode s (execCalibrationFit s) := by
  refine keepsMode_answer (State.mode_ite rfl (State.mode_ite ?_ rfl))
  exact (State.mode_of_aside (State.telEvent_aside ..)).trans ((State.noteFault_mode ..).trans (s.onDmp_mode _))

theorem execPowerExcessAlert_keepsMode (s : State) : KeepsMode s (execPowerExcessAlert s) :=
  keepsMode_answer (State.mode_ite ((State.mode_of_aside ((State.alert_aside _ _).trans (State.telEvent_aside ..))).trans (s.noteFault_mode ..)) rfl)

theorem execSensorSample_keepsMode (d : Fin 9) (r : List Int) (h : Int) (s : State) : KeepsMode s (execSensorSample d r h s) :=
  keepsMode_answer (State.mode_ite rfl (State.mode_ite ((State.noteSensors_mode ..).trans (s.onDmp_mode _))
    (State.mode_ite rfl ((State.noteSensors_mode ..).trans (s.onDmp_mode _)))))

theorem execThermalCeilingStep_keepsMode (d : Fin 8) (s : State) : KeepsMode s (execThermalCeilingStep d s) :=
  keepsMode_answer (State.mode_ite rfl (State.mode_ite rfl (State.mode_ite rfl rfl)))

/-! ### Background work -/

theorem execScrubRead_keepsMode (a : W64) (s : State) : KeepsMode s (execScrubRead a s) := by
  refine keepsMode_answer (State.mode_ite rfl ?_)
  split <;> rfl

theorem execRegionClearWrite_keepsMode (s : State) : KeepsMode s (execRegionClearWrite s) := by
  refine keepsMode_answer ?_
  split
  · exact State.mode_ite rfl rfl
  · rfl

theorem execMemorySymbolError_keepsMode (a : W64) (i : Option (Fin 68)) (v : Byte) (s : State) : KeepsMode s (execMemorySymbolError a i v s) := by
  refine keepsMode_answer ?_
  split
  · rfl
  · exact State.mode_ite rfl rfl
  · exact State.mode_ite rfl rfl

theorem execSensorTrim_keepsMode (d : Fin 9) (i : Fin 16) (v : Int) (s : State) : KeepsMode s (execSensorTrim d i v s) :=
  keepsMode_answer (State.mode_ite rfl (State.mode_ite rfl (State.mode_ite rfl rfl)))

@[simp] theorem State.telPeriod_aside (s : State) : s.telPeriod.aside = s.aside := (State.telFlush_aside _).trans rfl

/-! ### Firmware commands -/

@[simp] theorem State.program_mode (s : State) (rom : Bool) (r : Region) (o : Option (List Byte)) : (s.program rom r o).mode = s.mode :=
  State.mode_ite rfl rfl

theorem execFirmwareStage_keepsMode (h : HostCmd) (e w : Bool) (s : State) : KeepsMode s (execFirmwareStage h e w s) := by
  refine keepsMode_command fun x => State.mode_ite_fst rfl ?_
  split
  · next hf => exact State.fetch_mode hf
  · next hf =>
    have hx := State.fetch_mode hf
    refine State.mode_ite_fst hx ?_
    split
    · exact hx
    · exact State.mode_ite_fst hx (State.mode_ite_fst ((State.program_mode ..).trans hx) ((State.program_mode ..).trans hx))

theorem execAttestationReport_keepsMode (h : HostCmd) (s : State) : KeepsMode s (execAttestationReport h s) := by
  refine keepsMode_command fun x => State.mode_ite_fst rfl (State.mode_ite_fst rfl ?_)
  extract_lets w n sec s1 head rep chain res
  have h1 : s1.mode = x.mode := rfl
  clear_value s1 rep
  split
  · have h2 (qp : Nat) (o : Out) (b : List Byte) : (s1.request qp o b).mode = x.mode := (State.mode_of_aside (s1.request_aside ..)).trans h1
    exact State.mode_ite (h2 ..) ((State.mode_of_aside (State.request_aside ..)).trans (h2 ..))
  · exact h1

/-! ### The board -/

@[simp] theorem State.tapLoad_mode (s : State) (i : TapIns) : (s.tapLoad i).mode = s.mode := State.mode_ite rfl rfl

theorem execRationPeriodBoundary_keepsMode (s : State) : KeepsMode s (execRationPeriodBoundary s) := by
  unfold execRationPeriodBoundary
  extract_lets s1 s2
  have h2 : s2.mode = s.mode := State.mode_of_aside ((State.wakeAll_aside s1).trans (s.onCore_aside _))
  clear_value s2
  exact keepsMode_answer (State.mode_ite ((State.mode_of_aside (State.telEvent_aside ..)).trans h2) h2)

theorem execPwrbrkAssert_keepsMode (s : State) : KeepsMode s (execPwrbrkAssert s) :=
  keepsMode_answer (State.mode_ite rfl (State.mode_ite ((State.mode_of_aside (State.telEvent_aside ..)).trans rfl) rfl))

/-! ### Every command that leaves the mode -/

/-- Whether a command may change power, the boot stage, a restart asked for, or bivouac mode. -/
def movesMode : Instr → Bool
  | .firmwareActivate _ | .lanternRestart | .bivouacExit _ _ | .powerExcessPersistent | .thermalPersistent _ | .thermtrip
  | .inputRailOutOfRange | .computeDieLost _ | .memoryTrainingFailed _ | .hubUncorrectableError | .lanternWatchdogRestart _
  | .bivouacPowerDownComplete | .resetNAssert | .resetNDeassert | .bootStageAdvance | .trialWatchdog | .pwrEnAssert | .railsGood
  | .pwrEnDeassert | .standbyStart | .standbyStop | .inputOvervoltage | .refclkLoss | .heldResetNRelease | .minimumOffTimeElapsed
  | .inputSwitchClosure => true
  | _ => false

/-- An instruction of a strand leaves the mode. -/
theorem exec_strand_keepsMode {c : Instr} {t : StrandId} {op : BitVec 8} {b : Body} (s : State) (h : insParts c = some (t, op, b)) :
    KeepsMode s (exec c s) :=
  have he := exec_of_instrOf s (instrOf_of_insParts h)
  ⟨_, he, State.mode_of_aside (exec_strand_aside h he)⟩

/-- Every other command leaves the mode. -/
theorem exec_keepsMode {c : Instr} (hc : movesMode c = false) (s : State) : KeepsMode s (exec c s) := by
  cases hp : insParts c with
  | some q => exact exec_strand_keepsMode s hp
  | none =>
    cases c with
    | firmwareActivate | lanternRestart | bivouacExit | powerExcessPersistent | thermalPersistent | thermtrip | inputRailOutOfRange
    | computeDieLost | memoryTrainingFailed | hubUncorrectableError | lanternWatchdogRestart | bivouacPowerDownComplete | resetNAssert
    | resetNDeassert | bootStageAdvance | trialWatchdog | pwrEnAssert | railsGood | pwrEnDeassert | standbyStart | standbyStop
    | inputOvervoltage | refclkLoss | heldResetNRelease | minimumOffTimeElapsed | inputSwitchClosure => cases hc
    | fpflagsClear | numctlWrite | histctlClr | fitstatClr | rcpstatClr | fltringWrite | tailWrite | ecccntClr | lanAlertClear | samplerTest
    | hbmmapWrite | slotpartWrite | devnumWrite | routingLoad | routingActivate | routingRetire | stallAbort | capWrite | queueConfigWrite
    | portctlWrite => exact keepsMode_answer (s.regRow_mode ..)
    | splitKFlagReady | arriveFlagReady | fwaitSatisfied | walkBegin | membWaitComplete | tgenDrainComplete =>
      exact keepsMode_of_aside (s.resumeIf_aside ..)
    | panelArrival => exact execPanelArrival_keepsMode ..
    | barrierComplete => exact execBarrierComplete_keepsMode ..
    | collectiveComplete => exact execCollectiveComplete_keepsMode ..
    | samplerFaultDetected => exact execSamplerFaultDetected_keepsMode ..
    | samplerSelftestComplete | powerOnSelftestComplete => exact keepsMode_of_aside (State.aside_ite (s.sampler_aside ..) rfl)
    | decodeRequestAccept | blockDelivered => exact keepsMode_of_aside ((State.onFaults_aside _).trans (s.onCore_aside _))
    | startAdmission | uartRxByte => exact keepsMode_of_aside rfl
    | nanTrapRecord => exact keepsMode_of_aside ((State.onFault_aside ..).trans (s.onCore_aside _))
    | remoteAccessReceived => exact execRemoteAccessReceived_keepsMode s
    | remoteResponseReceived => exact execRemoteResponseReceived_keepsMode s
    | remoteFwaitAnswer => exact execRemoteFwaitAnswer_keepsMode ..
    | nopCommand => exact execNopCommand_keepsMode ..
    | regrd => exact execRegrd_keepsMode ..
    | regwr => exact execRegwr_keepsMode ..
    | packLoad => exact execPackLoad_keepsMode ..
    | contextCreate => exact execContextCreate_keepsMode ..
    | discard => exact execDiscard_keepsMode ..
    | launch => exact execLaunch_keepsMode ..
    | launchStart => exact keepsMode_of_aside ((State.wakeCtx_aside ..).trans (s.onCore_aside _))
    | resume => exact execResume_keepsMode ..
    | saveContext => exact execSaveContext_keepsMode ..
    | restoreContext => exact execRestoreContext_keepsMode ..
    | binding => exact execBinding_keepsMode ..
    | bindingComplete => exact execBindingComplete_keepsMode s
    | linkRebindAbort => exact execLinkRebindAbort_keepsMode s
    | rationSet => exact execRationSet_keepsMode ..
    | partitionMode => exact execPartitionMode_keepsMode ..
    | videoStreamOpen | videoStreamClose => exact keepsMode_answer (s.streamCmd_mode _)
    | submit => exact execSubmit_keepsMode ..
    | frameStart => exact execFrameStart_keepsMode ..
    | sliceComplete => exact execSliceComplete_keepsMode ..
    | decodeRowComplete => exact execDecodeRowComplete_keepsMode ..
    | frameComplete => exact execFrameComplete_keepsMode ..
    | videoWatchdog => exact execVideoWatchdog_keepsMode ..
    | firmwareStage => exact execFirmwareStage_keepsMode ..
    | attestationReport => exact execAttestationReport_keepsMode ..
    | doorbellCmdtail => exact keepsMode_of_aside (s.ring_aside _ _ _ (s.cmdtail_aside ..))
    | doorbellCplhead => exact keepsMode_of_aside (s.ring_aside _ _ _ (s.cplhead_aside ..))
    | commandEntryRead => exact keepsMode_answer (State.mode_ite rfl (s.readEntry_mode _))
    | staleEntryReread => exact keepsMode_answer (State.mode_ite (s.readEntry_mode _) rfl)
    | completionRecordWrite => exact execCompletionRecordWrite_keepsMode ..
    | rdmaWriteReceived => exact execRdmaWriteReceived_keepsMode ..
    | rdmaReadReceived => exact execRdmaReadReceived_keepsMode ..
    | cnpReceived | rateIncrease | rej | rdmaRetryExhausted => exact keepsMode_of_aside (State.aside_ite rfl rfl)
    | req => exact execReq_keepsMode ..
    | rtu => exact keepsMode_of_aside (State.aside_ite (State.telFlush_aside _) rfl)
    | dreq => exact keepsMode_of_aside (State.aside_ite rfl (State.wirePort_aside ..))
    | frameReceived => exact execFrameReceived_keepsMode ..
    | portUp => exact keepsMode_of_aside (State.aside_ite (State.portState_aside ..) rfl)
    | pcsAlignmentLost => exact keepsMode_of_aside (s.portState_aside ..)
    | ackTimeout => exact keepsMode_of_aside (s.retry_aside _)
    | pfcPauseExpiry => exact execPfcPauseExpiry_keepsMode ..
    | mailboxDataWrite => exact keepsMode_of_aside (s.boxRow_aside _ _ _ _ _ (s.boxData_aside ..))
    | mailboxSend => exact keepsMode_of_aside (s.boxRow_aside _ _ _ _ _ (s.boxGo_aside ..))
    | mailboxTake => exact execMailboxTake_keepsMode ..
    | mctpVendorMessage => exact execMctpVendorMessage_keepsMode ..
    | setEndpointId => exact keepsMode_of_aside (State.aside_ite (State.mctpAnswer_aside ..) rfl)
    | getEndpointId | getMessageTypeSupport => exact keepsMode_of_aside (s.mctpAnswer_aside ..)
    | getMctpVersionSupport | getEndpointUuid => exact keepsMode_of_aside (State.mctpAnswer_aside ..)
    | getTid | getPldmTypes | getPldmCommands | getPdrRepositoryInfo => exact keepsMode_of_aside (s.pldmAnswer_aside ..)
    | getPldmVersion | getPdr => exact keepsMode_of_aside (State.pldmAnswer_aside ..)
    | getSensorReading | getStateSensorReadings | dynamicAddressAssignment => exact keepsMode_of_aside (State.aside_ite rfl rfl)
    | setNumericSensorEnable | setEventReceiver => exact keepsMode_of_aside (State.aside_ite (State.pldmAnswer_aside ..) rfl)
    | pldmSensorUpdate => exact execPldmSensorUpdate_keepsMode ..
    | registerWrite => exact execRegisterWrite_keepsMode ..
    | saveWindowAccess => exact execSaveWindowAccess_keepsMode ..
    | routingCheckComplete => exact execRoutingCheckComplete_keepsMode s
    | routingVectorTimeout => exact execRoutingVectorTimeout_keepsMode ..
    | linkTrained => exact execLinkTrained_keepsMode ..
    | flitReceived => exact execFlitReceived_keepsMode ..
    | retryRequestReceived => exact keepsMode_of_aside (State.aside_ite (s.resend_aside ..) rfl)
    | linkRetrain => exact keepsMode_of_aside (State.aside_ite (s.train_aside _) rfl)
    | escapeMove => exact execEscapeMove_keepsMode ..
    | packetReceived => exact execPacketReceived_keepsMode s
    | tableVectorReceived => exact execTableVectorReceived_keepsMode ..
    | keepalive => exact execKeepalive_keepsMode ..
    | memberLost => exact execMemberLost_keepsMode ..
    | abortReceived => exact keepsMode_of_aside (s.takeAbort_aside ..)
    | transferStalled => exact execTransferStalled_keepsMode ..
    | followCeiling => exact keepsMode_answer (State.mode_ite rfl rfl)
    | followRelease | droopRecovered | droopLimitExpiry => exact keepsMode_answer rfl
    | preemptionPointReached => exact execPreemptionPointReached_keepsMode ..
    | contextSaveComplete | contextRestoreComplete => exact keepsMode_of_aside ((State.schedule_aside _).trans (s.onCore_aside _))
    | scrubRead => exact execScrubRead_keepsMode ..
    | regionClearWrite => exact execRegionClearWrite_keepsMode s
    | measuredSample | droopDetected => exact keepsMode_answer (State.mode_ite (s.onDmp_mode _) rfl)
    | memoryRetrain | estimateLoopTick | hoursTick => exact keepsMode_answer (State.mode_ite rfl rfl)
    | sensorTrim => exact execSensorTrim_keepsMode ..
    | journalFlashCopy => exact keepsMode_of_aside (State.aside_ite (s.onCore_aside _) rfl)
    | telemetryPeriodic => exact keepsMode_of_aside (State.aside_ite s.telPeriod_aside rfl)
    | voltageSettled => exact execVoltageSettled_keepsMode ..
    | calibrationFit => exact execCalibrationFit_keepsMode s
    | powerExcessAlert => exact execPowerExcessAlert_keepsMode s
    | sensorSample => exact execSensorSample_keepsMode ..
    | thermalCeilingStep => exact execThermalCeilingStep_keepsMode ..
    | rationPeriodBoundary => exact execRationPeriodBoundary_keepsMode s
    | pwrbrkAssert => exact execPwrbrkAssert_keepsMode s
    | pwrbrkRelease => exact keepsMode_answer (State.mode_ite rfl ((State.onDmp_mode ..).trans rfl))
    | rawPwrbrkNEdge => exact keepsMode_answer (State.mode_ite rfl rfl)
    | refclkReturn | mgtclkLoss | mgtclkReturn | ethclkReturn => exact keepsMode_answer rfl
    | ethclkLoss => exact keepsMode_answer ((State.mode_of_aside (State.aside_foldl (fun a p => a.portState_aside p false) _ _)).trans rfl)
    | idcode => exact keepsMode_answer (State.mode_ite ((State.mode_of_aside (State.send_aside ..)).trans (s.tapLoad_mode _)) rfl)
    | bypass | samplePreload | extest | extestPulse | extestTrain => exact keepsMode_answer (s.tapLoad_mode _)
    | memorySymbolError => exact execMemorySymbolError_keepsMode ..
    | _ => cases hp

end Sys2Proof.Machine
end

section
/-! The order of power and reset (R404 to R407), and bivouac mode (R399), over every command. -/
namespace Sys2Proof.Machine

/-! ### Boot, restarts, and bivouac mode -/

/-- What boot, restarts and bivouac mode do to a module: the queue and the board's power stay, and core power rises without a latched trip
only. -/
structure State.Powers (s s' : State) : Prop where
  pending : s'.pending = s.pending
  power : s'.board.power = s.board.power
  core : s'.board.corePower = true → s.board.corePower = true ∨ s.board.thermtrip = false

/-- The same without the exit from bivouac mode. -/
structure State.Boots (s s' : State) : Prop extends s.Powers s' where
  bivouac : s.lan.bivActive = true → s'.lan.bivActive = true

theorem State.Powers.resetN {s s' : State} (h : s.Powers s') : s'.board.resetN = s.board.resetN := congrArg (fun q => q.2.2.2.2.2.1) h.power

theorem State.Powers.thermtrip {s s' : State} (h : s.Powers s') : s'.board.thermtrip = s.board.thermtrip :=
  congrArg (fun q => q.2.2.2.2.2.2) h.power

theorem State.Powers.trans {a b c : State} (h : a.Powers b) (k : b.Powers c) : a.Powers c where
  pending := k.pending.trans h.pending
  power := k.power.trans h.power
  core hc := (k.core hc).elim h.core fun ht => .inr (h.thermtrip ▸ ht)

theorem State.Boots.trans {a b c : State} (h : a.Boots b) (k : b.Boots c) : a.Boots c :=
  ⟨h.toPowers.trans k.toPowers, fun hb => k.bivouac (h.bivouac hb)⟩

theorem State.Boots.of_mode {s s' : State} (h : s'.mode = s.mode) : s.Boots s' := by
  simp only [State.mode_eq, Prod.mk.injEq] at h
  obtain ⟨hp, hb, hc, -, -, hv⟩ := h
  exact ⟨⟨hp, hb, fun h => .inl (hc ▸ h)⟩, fun h => hv ▸ h⟩

/-- A state with other fields that leaves the queue, the board and bivouac mode. -/
theorem State.Boots.of_kept {s s' : State} (hp : s'.pending = s.pending) (hb : s'.board = s.board) (hv : s'.lan.bivActive = s.lan.bivActive) :
    s.Boots s' := ⟨⟨hp, congrArg _ hb, fun h => .inl (hb ▸ h)⟩, fun h => hv ▸ h⟩

theorem State.Boots.refl (s : State) : s.Boots s := .of_mode rfl

theorem State.Boots.ite {p : Prop} [Decidable p] {a b s : State} (ha : s.Boots a) (hb : s.Boots b) : s.Boots (if p then a else b) := by
  split
  · exact ha
  · exact hb

/-- While RESET_N is released inside, none of it breaks the order. -/
theorem State.Powers.order {s s' : State} (h : s.Powers s') (hr : s.board.resetN = true) (ho : s.powerOrder) : s'.powerOrder := by
  have hp := h.power
  simp only [Board.power, Prod.mk.injEq] at hp
  obtain ⟨hon, hrails, hin, hov, hpg, hrn, htt⟩ := hp
  obtain ⟨hgood, hreset, -, htrip⟩ := ho
  refine ⟨?_, ?_, fun _ => hrn.trans hr, fun ht => ?_⟩
  · rw [hpg, hon, hrails, hin, hov]; exact hgood
  · rw [hrn, hpg]; exact hreset
  · rw [htt] at ht
    rw [Bool.eq_false_iff]
    intro hc
    rcases h.core hc with h1 | h1
    · exact absurd (htrip ht) (by rw [h1]; decide)
    · exact absurd ht (by rw [h1]; decide)

theorem State.powerOrder_of_mode {s s' : State} (h : s'.mode = s.mode) (ho : s.powerOrder) : s'.powerOrder := by
  simp only [State.mode_eq, Board.power, Prod.mk.injEq] at h
  obtain ⟨-, ⟨hon, hrails, hin, hov, hpg, hrn, htt⟩, hc, hst, hw, hv⟩ := h
  simpa only [State.powerOrder, State.tripSafe, hon, hrails, hin, hov, hpg, hrn, htt, hc, hst, hw, hv] using ho

@[simp] theorem State.linkEnable_mode (s : State) : s.linkEnable.mode = s.mode := State.mode_of_aside s.linkEnable_aside

theorem State.powerDown_boots (s : State) : s.Boots s.powerDown := by
  refine .trans (b := { s with dmp := s.dmp.allDies Die.powerDown, board := { s.board with corePower := false, hbmPower := false }
                               lan := { s.lan with stopping := false } }) ⟨⟨rfl, rfl, fun h => (nomatch h)⟩, id⟩ ?_
  exact .of_mode ((State.linkEnable_mode _).trans (State.onCore_mode _ _))

theorem State.powerUp_boots (s : State) : s.Boots s.powerUp := by
  unfold State.powerUp
  dsimp only
  split
  · exact .refl s
  · next ht =>
    refine .trans ?_ (.of_mode (State.linkEnable_mode _))
    exact ⟨⟨rfl, rfl, fun _ => .inr (by simpa using ht)⟩, id⟩

@[simp] theorem State.dropContexts_aside (s : State) (code : Nat) : (s.dropContexts code).aside = s.aside := by
  unfold State.dropContexts
  dsimp only
  rw [State.onCore_aside, State.aside_foldl State.discardCtx_aside, State.aside_foldl (fun a k => a.abortAll_aside k _)]

@[simp] theorem State.bootJournal_mode (s : State) (ring : Bool) : (s.bootJournal ring).mode = s.mode := by
  unfold State.bootJournal
  refine State.mode_ite rfl ?_
  dsimp only
  rw [State.mode_foldl (fun a f => State.mode_of_aside (a.journal_aside _ _)), State.mode_of_aside (State.journal_aside _ _ _)]
  rfl

@[simp] theorem State.bivouacDeny_mode (s : State) (h : HostCmd) : (s.bivouacDeny h).mode = s.mode :=
  State.mode_ite rfl ((State.complete_mode ..).trans rfl)

@[simp] theorem State.bivouacUnbind_mode (s : State) (r : Rebind) : (s.bivouacUnbind r).mode = s.mode :=
  (State.onCore_mode _ _).trans (State.mode_of_aside (s.journal_aside _ _))

theorem State.bivouac_boots (s : State) (cause : Nat) : s.Boots (s.bivouac cause) := by
  unfold State.bivouac
  split
  · exact .refl s
  extract_lets s0 s1 kept lan sec s2 s3 s4 s5 s6 s7
  have h1 : s1.mode = s.mode := (State.mode_of_aside (s0.journal_aside _ _)).trans (s.bootJournal_mode _)
  split
  · exact .of_mode h1
  have h2 : s.Boots s2 := (State.Boots.of_mode h1).trans ⟨⟨rfl, rfl, .inl⟩, fun _ => rfl⟩
  have h3 : s3.mode = s2.mode := State.mode_foldl State.bivouacDeny_mode _ _
  have h4 : s4.mode = s3.mode := (State.mode_foldl State.bivouacUnbind_mode _ _).trans rfl
  have h5 : s5.mode = s4.mode := (State.onCore_mode _ _).trans (State.mode_of_aside (s4.dropContexts_aside 1))
  have h6 : s6.mode = s5.mode := State.mode_foldl (fun a e => State.mode_of_aside (a.closeEngine_aside _ _)) _ _
  have h7 : s7.mode = s6.mode := State.mode_foldl (fun a p => State.mode_ite rfl (State.mode_of_aside (a.portState_aside p false))) _ _
  have h8 : (((s7.alert 2).telEvent 7 (leBytes 1 cause)).platform 2 cause).mode = s7.mode := State.mode_of_aside (by simp)
  clear_value s2 s3 s4 s5 s6 s7
  exact h2.trans (.of_mode (h8.trans (h7.trans (h6.trans (h5.trans (h4.trans h3))))))

theorem State.recover_boots (s : State) : s.Boots s.recover := by
  have h1 : s.Boots (if s.board.corePower then (s.dropContexts 1).powerDown else s) :=
    .ite ((State.Boots.of_mode (State.mode_of_aside (s.dropContexts_aside 1))).trans (State.powerDown_boots _)) (.refl s)
  exact h1.trans (.of_kept rfl rfl rfl)

@[simp] theorem State.writeDir_mode (s : State) (rom : Bool) (d t : Nat) : (s.writeDir rom d t).mode = s.mode := by
  unfold State.writeDir
  split <;> exact s.program_mode ..

@[simp] theorem State.romFound_mode (s : State) (l : List Nat) : (s.romFound l).mode = s.mode := rfl

theorem State.romWrite_mode (s : State) (r : Region) {w : State → State} (hw : ∀ x : State, (w x).mode = x.mode) : (s.romWrite r w).mode = s.mode :=
  State.mode_ite ((State.program_mode ..).trans rfl) ((hw _).trans (s.onCore_mode _))

@[simp] theorem State.clearTry_mode (s : State) (a : Bool) (d : BootDir) : (s.clearTry a d).mode = s.mode :=
  State.mode_ite rfl (s.romWrite_mode _ fun x => x.writeDir_mode ..)

theorem State.startImage_boots (s : State) (m : Nat) : s.Boots (s.startImage m) := by
  unfold State.startImage
  split
  · exact s.recover_boots
  · next a d _ =>
    have h1 : ((s.clearTry a d).romFound (s.chooseSlot m d).2).mode = s.mode := s.clearTry_mode a d
    dsimp only
    generalize (s.clearTry a d).romFound (s.chooseSlot m d).2 = s1 at h1 ⊢
    refine (State.Boots.of_mode h1).trans ?_
    split
    · exact s1.recover_boots
    · split
      · exact s1.recover_boots
      · exact .of_kept rfl rfl rfl

@[simp] theorem State.loadCarrier_mode (s : State) : s.loadCarrier.mode = s.mode := State.mode_ite rfl ((State.noteFault_mode ..).trans rfl)

@[simp] theorem State.applyRollback_mode (s : State) : s.applyRollback.mode = s.mode := by
  unfold State.applyRollback
  split
  · have hw (o : List Byte) : (s.romWrite .rollback (fun x => x.program true .rollback (some o))).mode = s.mode :=
      s.romWrite_mode _ fun x => x.program_mode ..
    exact State.mode_ite rfl (State.mode_ite (State.mode_ite ((State.program_mode ..).trans (hw _)) (hw _)) (s.program_mode ..))
  · rfl

theorem State.bootImage_boots (s : State) (byReset : Bool) : s.Boots (s.bootImage byReset) := by
  unfold State.bootImage
  extract_lets s0 sec s1
  have h0 : s0.mode = s.mode := State.mode_ite s.applyRollback_mode rfl
  have h1 : s.Boots s1 := (State.Boots.of_mode h0).trans (.of_kept rfl rfl rfl)
  clear_value s1
  refine h1.trans ?_
  split
  · extract_lets s3 x
    have h3 : s1.Boots s3 := by
      refine State.Boots.trans ?_ (State.startImage_boots _ _)
      exact .of_kept rfl rfl rfl
    clear_value s3
    have hx : x.stage = s3.sec.stage ∧ x.wantRestart = s3.sec.wantRestart := ⟨rfl, rfl⟩
    clear_value x
    refine h3.trans (.ite (.of_mode ?_) (.refl s3))
    rw [State.loadCarrier_mode, State.mode_eq, State.mode_eq, hx.1, hx.2]
  · exact (State.Boots.of_mode (s1.romFound_mode _)).trans (State.recover_boots _)
  · exact (State.Boots.of_mode (s1.romFound_mode _)).trans (State.recover_boots _)

theorem State.restartLantern_boots (s : State) : s.Boots s.restartLantern := by
  unfold State.restartLantern
  have h := s.startImage_boots s.sec.minsec
  exact .ite (h.trans (.of_kept rfl rfl rfl)) (h.trans (.of_kept rfl rfl rfl))

theorem State.nextStage_boots (s : State) : s.Boots s.nextStage := by
  have stage (x : State) (n : Nat) : x.Boots { x with sec := { x.sec with stage := n } } := .of_kept rfl rfl rfl
  have atEnd (x : State) (n : Nat) : x.Boots { x with sec := { x.sec with stage := n, restart := false } } := .of_kept rfl rfl rfl
  unfold State.nextStage
  refine .ite (.refl s) (.ite (.ite (atEnd s 7) (.ite (atEnd s 5) (stage s _))) ?_)
  split
  · exact .of_kept rfl rfl rfl
  · exact s.bootImage_boots _
  · exact (stage s 3).trans (.of_mode (State.bootJournal_mode _ _))
  · exact .ite (stage s 7) (.ite (s.powerUp_boots.trans (stage _ 4)) (s.bivouac_boots 4))
  · exact stage s 5
  · exact .refl s

@[simp] theorem State.remakeRollback_mode (s : State) : s.remakeRollback.mode = s.mode := by
  unfold State.remakeRollback
  split
  · have hw (o : List Byte) : (s.romWrite .rollback (fun x => x.program true .rollback (some o))).mode = s.mode :=
      s.romWrite_mode _ fun x => x.program_mode ..
    refine State.mode_ite ?_ (hw _)
    exact (State.program_mode ..).trans (hw _)
  · rfl

/-! ### The commands that move the mode -/

theorem answer_boots {s x : State} (h : s.Boots x) : s.Boots x.settle := h.trans (.of_mode (State.mode_of_aside x.settle_aside))

/-- A command that boots, restarts or enters bivouac mode; in the order of power it does so while RESET_N is released inside, or leaves
the mode. -/
def MovesMode (s : State) (o : Host.Outcome State Fault Refusal) : Prop :=
  ∃ s', o = .next s' ∧ s.Boots s' ∧ (s.powerOrder → s.board.resetN = true ∨ s'.mode = s.mode)

theorem MovesMode.of_boots {s x : State} (hr : s.powerOrder → s.board.resetN = true) (h : s.Boots x) : MovesMode s (answer x) :=
  ⟨_, rfl, answer_boots h, fun ho => .inl (hr ho)⟩

theorem MovesMode.of_mode {s x : State} (h : x.mode = s.mode) : MovesMode s (answer x) :=
  have h' := (State.mode_of_aside x.settle_aside).trans h
  ⟨_, rfl, .of_mode h', fun _ => .inr h'⟩

theorem MovesMode.ite {p : Prop} [Decidable p] {s a b : State} (ha : p → MovesMode s (answer a)) (hb : ¬ p → MovesMode s (answer b)) :
    MovesMode s (answer (if p then a else b)) := by
  split
  · next h => exact ha h
  · next h => exact hb h

/-- A stage of boot above 0 needs RESET_N released inside. -/
theorem State.powerOrder.resetN_of_stage {s : State} (ho : s.powerOrder) (h : s.sec.stage ≠ 0) : s.board.resetN = true := ho.2.2.1 (.inl h)

/-- A cause of bivouac mode, from a state of the same mode. -/
theorem MovesMode.bivouac {s x : State} (h : x.mode = s.mode) (cause : Nat) : MovesMode s (answer (x.bivouac cause)) := by
  by_cases hs : x.sec.stage < 2 ∨ x.sec.stage = 6
  · rw [show x.bivouac cause = x from if_pos hs]
    exact .of_mode h
  · have hb := State.Boots.of_mode h
    refine .of_boots (fun ho => ?_) (hb.trans (x.bivouac_boots cause))
    rw [← hb.resetN]
    exact (State.powerOrder_of_mode h ho).resetN_of_stage (by omega)

theorem MovesMode.bivouac_if (p : Prop) [Decidable p] (s : State) (cause : Nat) : MovesMode s (answer (if p then s.bivouac cause else s)) :=
  .ite (fun _ => .bivouac rfl cause) fun _ => .of_mode rfl

theorem execRefclkLoss_moves (s : State) : MovesMode s (execRefclkLoss s) := by
  unfold execRefclkLoss
  extract_lets s1
  have h1 : s1.mode = s.mode := rfl
  clear_value s1
  exact .ite (fun _ => .bivouac h1 4) fun _ => .of_mode h1

/-- A command that comes to its turn runs at stage 5, 6 or 7 (R368, R369, R397). -/
theorem State.stage_of_gate_run {s : State} {p : Path} {opc : Nat} (h : s.gate p opc = .run) : s.sec.stage ≠ 0 := by
  unfold State.gate at h
  intro h0
  simp [h0] at h

/-- A command leaves the mode, or comes to its turn and leaves the mode that its effect leaves. -/
theorem State.command_mode_cases (s : State) (h : HostCmd) (opc : Nat) (ctx : Option Nat) (run : State → State × Fin') :
    (s.command h opc ctx run).mode = s.mode ∨
      (s.gate h.path opc = .run ∧ (s.command h opc ctx run).mode = (run (s.turn h)).1.mode) := by
  unfold State.command
  split
  · exact .inl rfl
  dsimp only
  split
  · exact .inl rfl
  · exact .inl ((State.complete_mode ..).trans rfl)
  · next hg =>
    split
    · exact .inl rfl
    split
    · exact .inl ((State.complete_mode ..).trans rfl)
    have ht : s.turn h = { s with started := s.started.erase h } := rfl
    split
    · next hq => exact .inr ⟨hg, (State.complete_mode ..).trans (by rw [ht, hq])⟩
    · next hq => exact .inr ⟨hg, by rw [ht, hq]⟩
    · exact .inl rfl

theorem execFirmwareActivate_moves (h : HostCmd) (s : State) : MovesMode s (execFirmwareActivate h s) := by
  unfold execFirmwareActivate
  rcases s.command_mode_cases h 0x41 none _ with hm | ⟨hg, hm⟩
  · exact .of_mode hm
  · refine .of_boots (fun ho => ho.resetN_of_stage (State.stage_of_gate_run hg)) (State.Boots.trans ?_ (.of_mode hm))
    have ht : s.Boots (s.turn h) := .of_kept rfl rfl rfl
    refine ht.trans ?_
    dsimp only
    split
    · exact .refl _
    split
    · exact .refl _
    split
    · exact .refl _
    · have hw (d t : Nat) : (s.turn h).Boots ((s.turn h).writeDir false d t) := .of_mode (State.writeDir_mode ..)
      exact (State.Boots.ite (hw _ _) (hw _ _)).trans (.of_kept rfl rfl rfl)

theorem execLanternRestart_moves (s : State) : MovesMode s (execLanternRestart s) := by
  unfold execLanternRestart
  split
  · exact .of_mode rfl
  · next q hq =>
    have hr (ho : s.powerOrder) : s.board.resetN = true := ho.2.2.1 (.inr (.inr (.inl (by rw [hq]; rfl))))
    refine MovesMode.ite (fun _ => .of_mode rfl) fun _ => .of_boots hr (.ite ?_ s.restartLantern_boots)
    exact (State.Boots.of_mode s.remakeRollback_mode).trans (.of_kept rfl rfl rfl)

theorem execTrialWatchdog_moves (s : State) : MovesMode s (execTrialWatchdog s) := by
  refine MovesMode.ite (fun hs => ?_) fun _ => .of_mode rfl
  refine .of_boots (fun ho => ho.resetN_of_stage (by omega)) ((s.startImage_boots s.sec.minsec).trans (.of_kept rfl rfl rfl))

theorem execLanternWatchdogRestart_moves (third : Bool) (s : State) : MovesMode s (execLanternWatchdogRestart third s) := by
  refine MovesMode.ite (fun _ => .of_mode rfl) fun hs => MovesMode.ite (fun _ => .bivouac rfl 8) fun _ => ?_
  exact .of_boots (fun ho => ho.resetN_of_stage (by omega)) s.restartLantern_boots

theorem execBootStageAdvance_moves (s : State) : MovesMode s (execBootStageAdvance s) := by
  by_cases hr : s.board.resetN = true
  · exact .of_boots (fun _ => hr) s.nextStage_boots
  · unfold execBootStageAdvance
    rw [show s.nextStage = s from if_pos hr]
    exact .of_mode rfl

theorem execMemoryTrainingFailed_moves (u : Fin 24) (s : State) : MovesMode s (execMemoryTrainingFailed u s) :=
  MovesMode.ite (fun _ => .of_mode rfl) fun _ => MovesMode.ite (fun _ => .bivouac rfl 5) fun _ => .bivouac (s.onCore_mode _) 6

/-! ### Power, reset and the exit from bivouac mode -/

/-- A command that keeps the queue and the order of power and reset. -/
def KeepsOrder (s : State) (o : Host.Outcome State Fault Refusal) : Prop :=
  ∃ s', o = .next s' ∧ s'.pending = s.pending ∧ (s.powerOrder → s'.powerOrder)

/-- A command that does not leave bivouac mode. -/
def KeepsBivouac (s : State) (o : Host.Outcome State Fault Refusal) : Prop :=
  ∃ s', o = .next s' ∧ (s.lan.bivActive = true → s'.lan.bivActive = true)

theorem keepsOrder_answer {s x : State} (hp : x.pending = s.pending) (ho : s.powerOrder → x.powerOrder) : KeepsOrder s (answer x) :=
  have hm := State.mode_of_aside x.settle_aside
  ⟨_, rfl, (State.Boots.of_mode hm).pending.trans hp, fun h => State.powerOrder_of_mode hm (ho h)⟩

theorem keepsBivouac_answer {s x : State} (h : x.lan.bivActive = s.lan.bivActive) : KeepsBivouac s (answer x) :=
  ⟨_, rfl, fun hb => (State.Boots.of_mode (State.mode_of_aside x.settle_aside)).bivouac (h ▸ hb)⟩

theorem KeepsMode.keepsOrder {s : State} {o : Host.Outcome State Fault Refusal} (h : KeepsMode s o) : KeepsOrder s o :=
  let ⟨s', he, hm⟩ := h
  ⟨s', he, (State.Boots.of_mode hm).pending, State.powerOrder_of_mode hm⟩

theorem KeepsMode.keepsBivouac {s : State} {o : Host.Outcome State Fault Refusal} (h : KeepsMode s o) : KeepsBivouac s o :=
  let ⟨s', he, hm⟩ := h
  ⟨s', he, (State.Boots.of_mode hm).bivouac⟩

theorem MovesMode.keepsOrder {s : State} {o : Host.Outcome State Fault Refusal} (h : MovesMode s o) : KeepsOrder s o :=
  let ⟨s', he, hb, hr⟩ := h
  ⟨s', he, hb.pending, fun ho => (hr ho).elim (fun hr => hb.order hr ho) fun hm => State.powerOrder_of_mode hm ho⟩

theorem MovesMode.keepsBivouac {s : State} {o : Host.Outcome State Fault Refusal} (h : MovesMode s o) : KeepsBivouac s o :=
  let ⟨s', he, hb, _⟩ := h
  ⟨s', he, hb.bivouac⟩

theorem KeepsOrder.ite {p : Prop} [Decidable p] {s a b : State} (ha : p → KeepsOrder s (answer a)) (hb : ¬ p → KeepsOrder s (answer b)) :
    KeepsOrder s (answer (if p then a else b)) := by
  split
  · next h => exact ha h
  · next h => exact hb h

/-- A state with nothing booted and core power off, and RESET_N asserted inside while power is not good, is in order. -/
theorem State.powerOrder_of_down {s : State}
    (hg : s.board.pgood = true → s.board.on = true ∧ s.board.rails = true ∧ s.board.input = true ∧ s.board.overvolt = false)
    (hr : s.board.resetN = true → s.board.pgood = true) (hs : s.sec.stage = 0) (hv : s.lan.bivActive = false) (hw : s.sec.wantRestart = none)
    (hc : s.board.corePower = false) : s.powerOrder :=
  ⟨hg, hr, by simp [hs, hv, hw, hc], fun _ => hc⟩

theorem execResetNAssert_keepsOrder (s : State) : KeepsOrder s (execResetNAssert s) :=
  KeepsOrder.ite (fun _ => keepsOrder_answer rfl fun ho => State.powerOrder_of_down ho.1 (fun h => (nomatch h)) rfl rfl rfl rfl)
    fun _ => (keepsMode_answer rfl).keepsOrder

/-- A boot that starts with power good keeps the order: its stage is 0 and RESET_N is released inside. -/
theorem State.startBoot_order {s : State} (hg : s.board.pgood = true) (ho : s.powerOrder) : s.startBoot.powerOrder :=
  ⟨ho.1, fun _ => hg, fun _ => rfl, ho.2.2.2⟩

theorem execResetNDeassert_keepsOrder (s : State) : KeepsOrder s (execResetNDeassert s) :=
  KeepsOrder.ite (fun _ => (keepsMode_answer rfl).keepsOrder) fun _ => KeepsOrder.ite
    (fun h => keepsOrder_answer rfl (State.startBoot_order h.1)) fun _ => (keepsMode_answer rfl).keepsOrder

theorem execHeldResetNRelease_keepsOrder (s : State) : KeepsOrder s (execHeldResetNRelease s) := by
  refine KeepsOrder.ite (fun _ => (keepsMode_answer rfl).keepsOrder) fun hg => KeepsOrder.ite (fun _ => keepsOrder_answer rfl fun ho => ?_)
    fun _ => (keepsMode_answer rfl).keepsOrder
  exact State.startBoot_order (Classical.not_not.mp hg) (State.powerOrder_of_mode (s := s) rfl ho)

/-- Power lost: whatever becomes of the contacts afterwards, nothing of the order is at stake while power is not good. -/
theorem State.unpower_order (s : State) (f : Board → Board) (hp : ∀ b, (f b).pgood = b.pgood) (hr : ∀ b, (f b).resetN = b.resetN)
    (hc : ∀ b, (f b).corePower = b.corePower) : (s.unpower.onBoard f).powerOrder :=
  State.powerOrder_of_down (fun h => by simp [State.onBoard, hp, State.unpower] at h) (fun h => by simp [State.onBoard, hr, State.unpower] at h)
    rfl rfl rfl (hc _)

theorem execPwrEnDeassert_keepsOrder (s : State) : KeepsOrder s (execPwrEnDeassert s) :=
  KeepsOrder.ite (fun _ => keepsOrder_answer rfl fun ho => ⟨ho.1, ho.2.1, ho.2.2.1, fun h => (nomatch h)⟩)
    fun _ => keepsOrder_answer rfl fun _ => s.unpower_order _ (fun _ => rfl) (fun _ => rfl) fun _ => rfl

theorem execStandbyStop_keepsOrder (s : State) : KeepsOrder s (execStandbyStop s) :=
  keepsOrder_answer rfl fun _ => s.unpower_order _ (fun _ => rfl) (fun _ => rfl) fun _ => rfl

theorem execInputOvervoltage_keepsOrder (s : State) : KeepsOrder s (execInputOvervoltage s) :=
  keepsOrder_answer rfl fun _ => s.unpower_order _ (fun _ => rfl) (fun _ => rfl) fun _ => rfl

/-- Contacts that may rise or clear keep the order. -/
theorem State.onBoard_order {s : State} {f : Board → Board} (h : ∀ b, (b.on = true → (f b).on = true) ∧ (b.rails = true → (f b).rails = true) ∧
    (b.input = true → (f b).input = true) ∧ (b.overvolt = false → (f b).overvolt = false) ∧ (f b).pgood = b.pgood ∧ (f b).resetN = b.resetN ∧
    (f b).thermtrip = b.thermtrip ∧ (f b).corePower = b.corePower) (ho : s.powerOrder) : (s.onBoard f).powerOrder := by
  obtain ⟨hon, hrails, hin, hov, hg, hr, ht, hc⟩ := h s.board
  obtain ⟨h1, h2, h3, h4⟩ := ho
  refine ⟨fun h => ?_, ?_, ?_, ?_⟩
  · obtain ⟨a1, a2, a3, a4⟩ := h1 (hg ▸ h)
    exact ⟨hon a1, hrails a2, hin a3, hov a4⟩
  · simpa only [State.onBoard, hr, hg] using h2
  · simpa only [State.onBoard, hr, hc] using h3
  · simpa only [State.tripSafe, State.onBoard, ht, hc] using h4

/-- A PWR_EN that waited raises the switch alone. -/
theorem Board.turnOn_eq (b : Board) : b.turnOn = b ∨ b.turnOn = { b with pwrEn := true, on := true, wantOn := false } := by
  unfold Board.turnOn
  split
  · exact .inr rfl
  · exact .inl rfl

theorem execPwrEnAssert_keepsOrder (s : State) : KeepsOrder s (execPwrEnAssert s) :=
  KeepsOrder.ite (fun _ => (keepsMode_answer rfl).keepsOrder) fun _ => KeepsOrder.ite
    (fun _ => keepsOrder_answer rfl fun ho => State.onBoard_order (fun _ => by simp) ho) fun _ => (keepsMode_answer rfl).keepsOrder

theorem execMinimumOffTimeElapsed_keepsOrder (s : State) : KeepsOrder s (execMinimumOffTimeElapsed s) := by
  refine keepsOrder_answer rfl fun ho => State.onBoard_order (fun b => ?_) ho
  rcases Board.turnOn_eq { b with offTime := false } with h | h <;> simp [h]

theorem execStandbyStart_keepsOrder (s : State) : KeepsOrder s (execStandbyStart s) := by
  refine keepsOrder_answer rfl fun ho => State.onBoard_order (fun b => ?_) ho
  rcases Board.turnOn_eq { b with input := true, island := true } with h | h <;> simp [h]

theorem execInputSwitchClosure_keepsOrder (s : State) : KeepsOrder s (execInputSwitchClosure s) :=
  keepsOrder_answer rfl fun ho => State.onBoard_order (fun _ => by simp) ho

theorem execRailsGood_keepsOrder (s : State) : KeepsOrder s (execRailsGood s) := by
  refine KeepsOrder.ite (fun h => keepsOrder_answer rfl fun ho => ?_) fun _ => (keepsMode_answer rfl).keepsOrder
  obtain ⟨hon, hin, hov, -⟩ := h
  exact ⟨fun _ => ⟨hon, rfl, hin, by simpa using hov⟩, fun _ => rfl, ho.2.2.1, ho.2.2.2⟩

@[simp] theorem State.loseContexts_aside (s : State) : s.loseContexts.aside = s.aside := State.aside_foldl (fun a _ => a.onCore_aside _) _ s

/-- A thermal trip takes core power and leaves the rest. -/
theorem execThermtrip_keepsOrder (s : State) : KeepsOrder s (execThermtrip s) := by
  refine KeepsOrder.ite (fun _ => (keepsMode_answer rfl).keepsOrder) fun _ => ?_
  have h1 : (s.loseContexts.onCore (fun c => c.loseChip.clearGens)).mode = s.mode :=
    (State.onCore_mode _ _).trans (State.mode_of_aside s.loseContexts_aside)
  dsimp only
  generalize s.loseContexts.onCore (fun c => c.loseChip.clearGens) = s1 at h1 ⊢
  have h2 := State.linkEnable_mode ((s1.onBoard (fun b => { b with thermtrip := true, corePower := false })).onDmp fun d => d.allDies Die.powerDown)
  refine keepsOrder_answer ((State.Boots.of_mode h2).pending.trans (State.Boots.of_mode h1).pending) fun ho => State.powerOrder_of_mode h2 ?_
  obtain ⟨a1, a2, a3, -⟩ := State.powerOrder_of_mode h1 ho
  refine ⟨a1, a2, ?_, fun _ => rfl⟩
  rintro (h | h | h | h)
  · exact a3 (.inl h)
  · exact a3 (.inr (.inl h))
  · exact a3 (.inr (.inr (.inl h)))
  · cases h

theorem State.bringUp_powers (s : State) : s.Powers s.bringUp := by
  have h0 : s.Powers (if s.lan.stopping then s.powerDown else s) := (State.Boots.ite s.powerDown_boots (.refl s)).toPowers
  unfold State.bringUp
  extract_lets s0 lan sec s1 c jnl c1
  have h1 : s0.Powers { s1 with core := c1 } := ⟨rfl, rfl, .inl⟩
  exact (h0.trans h1).trans (State.powerUp_boots _).toPowers

theorem execBivouacExit_keepsOrder (h : HostCmd) (cause : Option (Fin 8)) (s : State) : KeepsOrder s (execBivouacExit h cause s) := by
  unfold execBivouacExit
  rcases s.command_mode_cases h 0x50 none _ with hm | ⟨hg, hm⟩
  · exact (keepsMode_answer hm).keepsOrder
  · suffices hp : s.Powers _ from keepsOrder_answer hp.pending fun ho => hp.order (ho.resetN_of_stage (State.stage_of_gate_run hg)) ho
    refine State.Powers.trans ?_ (State.Boots.of_mode hm).toPowers
    have ht : s.Powers (s.turn h) := ⟨rfl, rfl, .inl⟩
    refine ht.trans ?_
    dsimp only
    have hb := (s.turn h).bringUp_powers
    split
    · exact (State.Boots.refl _).toPowers
    split
    · exact (State.Boots.refl _).toPowers
    split
    · exact hb.trans (State.Boots.of_mode ((State.mode_of_aside (State.journal_aside ..)).trans (State.complete_mode ..))).toPowers
    · exact hb.trans ((State.Boots.of_mode (State.complete_mode ..)).trans (State.bivouac_boots _ _)).toPowers

/-- A powered-down compute side stays in order: core power is off, and nothing else moves. -/
theorem execBivouacPowerDownComplete_keepsOrder (s : State) : KeepsOrder s (execBivouacPowerDownComplete s) := by
  refine KeepsOrder.ite (fun _ => keepsOrder_answer s.powerDown_boots.pending fun ho => ?_) fun _ => (keepsMode_answer rfl).keepsOrder
  by_cases hr : s.board.resetN = true
  · exact s.powerDown_boots.toPowers.order hr ho
  · have hc : s.board.corePower = false := Bool.eq_false_iff.mpr fun hc => hr (ho.2.2.1 (.inr (.inr (.inr hc))))
    refine State.powerOrder_of_mode (s := s) ?_ ho
    refine (State.linkEnable_mode _).trans ((State.onCore_mode _ _).trans ?_)
    rw [State.mode_eq, State.mode_eq, hc]
    rfl

/-! ### Every command -/

@[simp] theorem State.settle_mode (s : State) : s.settle.mode = s.mode := State.mode_of_aside s.settle_aside

theorem State.bivActive_ite {p : Prop} [Decidable p] {a b s : State} (ha : a.lan.bivActive = s.lan.bivActive)
    (hb : b.lan.bivActive = s.lan.bivActive) : (if p then a else b).lan.bivActive = s.lan.bivActive := by
  split
  · exact ha
  · exact hb

theorem execThermtrip_keepsBivouac (s : State) : KeepsBivouac s (execThermtrip s) := by
  refine keepsBivouac_answer (State.bivActive_ite rfl ?_)
  have h2 (x : State) : x.linkEnable.lan.bivActive = x.lan.bivActive := congrArg (fun q => q.2.2.2.2.2) x.linkEnable_mode
  have h1 : s.loseContexts.lan.bivActive = s.lan.bivActive := congrArg (fun q => q.2.2.2.2.2) (State.mode_of_aside s.loseContexts_aside)
  exact (h2 _).trans h1

/-- Every command that may move the mode keeps the queue and the order of power and reset. -/
theorem exec_keepsOrder (c : Instr) (s : State) : KeepsOrder s (exec c s) := by
  cases hc : movesMode c with
  | false => exact (exec_keepsMode hc s).keepsOrder
  | true =>
    cases c with
    | firmwareActivate => exact (execFirmwareActivate_moves ..).keepsOrder
    | lanternRestart => exact (execLanternRestart_moves s).keepsOrder
    | bivouacExit => exact execBivouacExit_keepsOrder ..
    | powerExcessPersistent => exact (MovesMode.bivouac_if _ s 2).keepsOrder
    | inputRailOutOfRange => exact (MovesMode.bivouac_if _ s 3).keepsOrder
    | computeDieLost => exact (MovesMode.bivouac_if _ s 4).keepsOrder
    | hubUncorrectableError => exact (MovesMode.bivouac_if _ s 7).keepsOrder
    | thermalPersistent => exact (MovesMode.bivouac_if _ s 1).keepsOrder
    | refclkLoss => exact (execRefclkLoss_moves s).keepsOrder
    | memoryTrainingFailed => exact (execMemoryTrainingFailed_moves ..).keepsOrder
    | lanternWatchdogRestart => exact (execLanternWatchdogRestart_moves ..).keepsOrder
    | bootStageAdvance => exact (execBootStageAdvance_moves s).keepsOrder
    | trialWatchdog => exact (execTrialWatchdog_moves s).keepsOrder
    | thermtrip => exact execThermtrip_keepsOrder s
    | bivouacPowerDownComplete => exact execBivouacPowerDownComplete_keepsOrder s
    | resetNAssert => exact execResetNAssert_keepsOrder s
    | resetNDeassert => exact execResetNDeassert_keepsOrder s
    | heldResetNRelease => exact execHeldResetNRelease_keepsOrder s
    | pwrEnAssert => exact execPwrEnAssert_keepsOrder s
    | pwrEnDeassert => exact execPwrEnDeassert_keepsOrder s
    | minimumOffTimeElapsed => exact execMinimumOffTimeElapsed_keepsOrder s
    | railsGood => exact execRailsGood_keepsOrder s
    | standbyStart => exact execStandbyStart_keepsOrder s
    | standbyStop => exact execStandbyStop_keepsOrder s
    | inputOvervoltage => exact execInputOvervoltage_keepsOrder s
    | inputSwitchClosure => exact execInputSwitchClosure_keepsOrder s
    | _ => cases hc

/-- Every command but the exit from bivouac mode and the resets stays in it. -/
theorem exec_keepsBivouac (c : Instr) (s : State) : (∃ h cause, c = .bivouacExit h cause) ∨
    c ∈ ([.resetNAssert, .pwrEnDeassert, .standbyStop, .inputOvervoltage] : List Instr) ∨ KeepsBivouac s (exec c s) := by
  cases hc : movesMode c with
  | false => exact .inr (.inr (exec_keepsMode hc s).keepsBivouac)
  | true =>
    cases c with
    | bivouacExit h cause => exact .inl ⟨h, cause, rfl⟩
    | resetNAssert | pwrEnDeassert | standbyStop | inputOvervoltage => exact .inr (.inl (by simp))
    | firmwareActivate => exact .inr (.inr (execFirmwareActivate_moves ..).keepsBivouac)
    | lanternRestart => exact .inr (.inr (execLanternRestart_moves s).keepsBivouac)
    | powerExcessPersistent => exact .inr (.inr (MovesMode.bivouac_if _ s 2).keepsBivouac)
    | inputRailOutOfRange => exact .inr (.inr (MovesMode.bivouac_if _ s 3).keepsBivouac)
    | computeDieLost => exact .inr (.inr (MovesMode.bivouac_if _ s 4).keepsBivouac)
    | hubUncorrectableError => exact .inr (.inr (MovesMode.bivouac_if _ s 7).keepsBivouac)
    | thermalPersistent => exact .inr (.inr (MovesMode.bivouac_if _ s 1).keepsBivouac)
    | refclkLoss => exact .inr (.inr (execRefclkLoss_moves s).keepsBivouac)
    | memoryTrainingFailed => exact .inr (.inr (execMemoryTrainingFailed_moves ..).keepsBivouac)
    | lanternWatchdogRestart => exact .inr (.inr (execLanternWatchdogRestart_moves ..).keepsBivouac)
    | bootStageAdvance => exact .inr (.inr (execBootStageAdvance_moves s).keepsBivouac)
    | trialWatchdog => exact .inr (.inr (execTrialWatchdog_moves s).keepsBivouac)
    | bivouacPowerDownComplete => exact .inr (.inr ⟨_, rfl, ((State.Boots.ite s.powerDown_boots (.refl s)).trans (.of_mode (State.settle_mode _))).bivouac⟩)
    | thermtrip => exact .inr (.inr (execThermtrip_keepsBivouac s))
    | pwrEnAssert => exact .inr (.inr (keepsBivouac_answer (State.bivActive_ite rfl (State.bivActive_ite rfl rfl))))
    | resetNDeassert => exact .inr (.inr (keepsBivouac_answer (State.bivActive_ite rfl (State.bivActive_ite rfl rfl))))
    | heldResetNRelease => exact .inr (.inr (keepsBivouac_answer (State.bivActive_ite rfl (State.bivActive_ite rfl rfl))))
    | railsGood => exact .inr (.inr (keepsBivouac_answer (State.bivActive_ite rfl rfl)))
    | minimumOffTimeElapsed | standbyStart | inputSwitchClosure => exact .inr (.inr (keepsBivouac_answer rfl))
    | _ => cases hc

/-- Settles O2: what a command does ends as the outcome `answer`. -/
theorem everyCommandAnswersANextState : Obligations.EveryCommandAnswersANextState := fun c s =>
  let ⟨s', h, _⟩ := exec_keepsOrder c s
  ⟨s', h⟩

/-- Settles O3: the queue is a part of what every command keeps. -/
theorem commandsKeepTheQueue : Obligations.CommandsKeepTheQueue := by
  intro c s s' hs
  obtain ⟨x, hx, hp, -⟩ := exec_keepsOrder c s
  rw [hx] at hs
  cases hs
  exact hp

/-- Settles O51: a command leaves what the order speaks of, boots and restarts while RESET_N is released inside, or takes power. -/
theorem powerOrderIsKept : Obligations.PowerOrderIsKept := by
  intro c s s' ho hs
  obtain ⟨x, hx, -, h⟩ := exec_keepsOrder c s
  rw [hx] at hs
  cases hs
  exact h ho

/-- Settles O52: boot, restarts and later causes leave bivouac mode as it is. -/
theorem bivouacIsLeftOnlyByExitOrReset : Obligations.BivouacIsLeftOnlyByExitOrReset := by
  intro c s s' hb hs hl
  rcases exec_keepsBivouac c s with h | h | ⟨x, hx, h⟩
  · exact .inl h
  · exact .inr h
  · rw [hx] at hs
    cases hs
    rw [h hb] at hl
    cases hl

/-- Settles O1: both arms of `step`. -/
theorem stepRunsTheFrontCommand : Obligations.StepRunsTheFrontCommand := by
  constructor
  · intro s c q h
    simp only [step, State.rest, h, List.tail_cons]
  · intro s h
    simp only [step, h]

end Sys2Proof.Machine
end

section
/-! The scalar, control and move instructions complete (R126, R127, R131). -/
namespace Sys2Proof.Machine

/-- An instruction without checks and without a NaN of its own completes with what it makes of its view. -/
theorem plain_completed {s : State} {t : StrandId} {b : Body} {op : Nat} {y : X} {g : X → Ins → X}
    (h : running s t b op = some y) (hn : (g y (insOf b)).nan = y.nan) :
    answer (s.issue t b op fun b x => x.guard b noChk fun i _ => .ok (g x i)) = .next (s.completed t (g y (insOf b))) :=
  guard_completed (chk := fun _ => noChk) h rfl rfl (.inr (hn.trans (running_nan h)))

/-- END ends its strand, and then its launch (R87). -/
theorem exec_endStrand {s : State} {t : StrandId} {b : Body} {y : X} (h : running s t b 0x13 = some y) :
    exec (.endStrand t b) s =
      .next ((((s.onCore fun _ => ({ y with ended := true } : X).finish.commit).onFault t.ctx.val).endOf t.ctx.val).settle) := by
  have hf : endFn b y = .ok { y with ended := true } := guard_run h (chk := noChk) rfl _
  have hi := issue_eq h hf (.inr (show y.nan = none from running_nan h))
  simp only [exec, execEndStrand, answer, hi]

/-- Settles O4: none of these instructions has a check beyond its encoding or creates a NaN. -/
theorem scalarAndControlInstructionsComplete : Obligations.ScalarAndControlInstructionsComplete := by
  refine ⟨fun s t b y => ⟨?nop, ?salu, ?salui, ?scmp, ?scmpi, ?plog, ?smovi, ?ophint, ?ccnt, ?caprd, ?yield⟩,
    fun s t b y => ⟨?br, ?call, ?bri, exec_endStrand⟩⟩
  all_goals intro h
  case nop | ophint | yield | br | bri => exact plain_completed h rfl
  case scmp | scmpi | plog => exact plain_completed h (X.setP_nan ..)
  case salu | salui | smovi | ccnt | caprd | call => exact plain_completed h (X.setS_nan ..)

/-! ### Loads, stores and moves -/

/-- A load creates no NaN. -/
theorem load_nan {x y : X} {a n o : Nat} {bulk : Bool} {bs : List Byte} (h : x.load a n o bulk = .ok (bs, y)) : y.nan = x.nan := by
  obtain ⟨m, e, u, q, rfl⟩ := load_ok h
  rfl

/-- A store that answers changes the core, and of the strand what it awaits from another module. -/
theorem store_ok {x y : X} {a o : Nat} {bs : List Byte} (h : x.store a bs o = .ok y) :
    ∃ c n d, y = { x with c := c, r := { x.r with acks := n, ackTo := d } } := by
  cases hl : x.here a
  case true =>
    rw [store_here hl h]
    split
    · exact ⟨_, _, _, rfl⟩
    · obtain ⟨u, q, e⟩ := used_eq { x with c := x.c.store (localOf a) bs } (localOf a) bs.length
      exact ⟨_, _, _, e⟩
  case false =>
    unfold X.store at h
    cases hr : x.reach a bs.length true o with
    | error e => rw [hr] at h; cases h
    | ok u =>
      rw [hr] at h
      simp only [bind, Except.bind, hl, Bool.false_eq_true, if_false] at h
      split at h <;> cases h <;> exact ⟨_, _, _, rfl⟩

/-- A store creates no NaN. -/
theorem store_nan {x y : X} {a o : Nat} {bs : List Byte} (h : x.store a bs o = .ok y) : y.nan = x.nan := by
  obtain ⟨c, n, d, rfl⟩ := store_ok h
  rfl

/-- An address of DLD and DST that is a multiple of 64 passes their check. -/
theorem dAddrChk_ok {x : X} {i : Ins} (h : dAddr x i % 64 = 0) : dAddrChk x i = .ok () := by simp [dAddrChk, need, h]

theorem exec_sld {s : State} {t : StrandId} {b : Body} {y z : X} {bs : List Byte} (h : running s t b 0x07 = some y)
    (hl : y.load ((y.s (insOf b).op2 + (insOf b).imm) % 2 ^ 64) (sldSize (insOf b).func) 2 = .ok (bs, z)) :
    exec (.sld t b) s = .next (s.completed t (z.setS (insOf b).op1 (sldExtend (insOf b).func (ofLE bs)))) := by
  refine issue_completed h ((guard_run h (chk := noChk) rfl _).trans ?_) (.inr ?_)
  · simp only [hl, bind, Except.bind, pure, Except.pure]
  · rw [X.setS_nan, load_nan hl, running_nan h]

theorem exec_sst {s : State} {t : StrandId} {b : Body} {y z : X} (h : running s t b 0x08 = some y)
    (hz : y.store ((y.s (insOf b).op2 + (insOf b).imm) % 2 ^ 64) (leBytes (sstSize (insOf b).func) (y.s (insOf b).op3)) 2 = .ok z) :
    exec (.sst t b) s = .next (s.completed t z) :=
  issue_completed h ((guard_run h (chk := noChk) rfl _).trans hz) (.inr ((store_nan hz).trans (running_nan h)))

theorem exec_dld {s : State} {t : StrandId} {b : Body} {y z : X} {bs : List Byte} (h : running s t b 0x40 = some y)
    (ha : dAddr y (insOf b) % 64 = 0) (hl : y.load (dAddr y (insOf b)) 64 2 = .ok (bs, z)) :
    exec (.dld t b) s = .next (s.completed t (z.setD (insOf b).op1 (ofLE bs))) := by
  refine issue_completed h ((guard_run h (dAddrChk_ok ha) _).trans ?_) (.inr ?_)
  · simp only [hl, bind, Except.bind, pure, Except.pure]
  · rw [X.setD_nan, load_nan hl, running_nan h]

theorem exec_dst {s : State} {t : StrandId} {b : Body} {y z : X} (h : running s t b 0x41 = some y)
    (ha : dAddr y (insOf b) % 64 = 0) (hz : y.store (dAddr y (insOf b)) (leBytes 64 (y.d (insOf b).op3)) 2 = .ok z) :
    exec (.dst t b) s = .next (s.completed t z) :=
  issue_completed h ((guard_run h (dAddrChk_ok ha) _).trans hz) (.inr ((store_nan hz).trans (running_nan h)))

/-- Lanes that create no NaN leave the view's first NaN. -/
theorem X.noteLanes_nan {x : X} {sel : Nat → Bool} {rs : List (Nat × Ev)} (h : ∀ r ∈ rs, r.2 = Ev.none) :
    (x.noteLanes sel rs).nan = x.nan := by
  refine foldl_keeps (P := fun y : X => y.nan = x.nan) (fun y k hy => ?_) _ _ rfl
  have hk : (rs.getD k (0, Ev.none)).2 = Ev.none := by
    by_cases hlt : k < rs.length
    · rw [List.getD_eq_getElem?_getD, List.getElem?_eq_getElem hlt]
      exact h _ (List.getElem_mem hlt)
    · rw [List.getD_eq_getElem?_getD, List.getElem?_eq_none (by omega), Option.getD_none]
  split
  · rw [X.note_nan, hk]
    exact hy
  · exact hy

theorem X.putLanes_nan {x : X} {n : Nat} {sel : Nat → Bool} {rs : List (Nat × Ev)} (h : ∀ r ∈ rs, r.2 = Ev.none) :
    (x.putLanes n sel rs).nan = x.nan := (X.setV_nan ..).trans (X.noteLanes_nan h)

/-- Settles O5: a load, a store or a move creates no NaN. -/
theorem movesLoadsAndStoresComplete : Obligations.MovesLoadsAndStoresComplete := by
  refine ⟨fun s t b y z bs => ⟨exec_sld, exec_sst, exec_dld, exec_dst⟩,
    fun s t b y => ⟨?dset, ?dget, ?vmovs, ?vsel, ?vbcast, ?vperm⟩⟩
  all_goals intro h
  case dset => exact plain_completed h (X.setD_nan ..)
  case dget | vmovs => exact plain_completed h (X.setS_nan ..)
  case vsel => exact plain_completed h (X.setV_nan ..)
  case vbcast => exact plain_completed h (X.putLanes_nan fun r hr => by rw [List.eq_of_mem_replicate hr])
  case vperm => exact plain_completed h (X.putLanes_nan (by simp))

end Sys2Proof.Machine
end

section
/-! The vector instructions complete (R128 to R130, R184, R185, R188, R199, R423). -/
namespace Sys2Proof.Machine

/-- An instruction whose effect has no check of its own completes with what it computes. -/
theorem effect_completed {s : State} {t : StrandId} {b : Body} {op : Nat} {y z : X} {run : X → Ins → Unit → Res X}
    (h : running s t b op = some y) (hz : run y (insOf b) () = .ok z) (hq : untrapped y z) :
    answer (s.issue t b op fun b x => x.guard b noChk (run x)) = .next (s.completed t z) :=
  guard_completed (chk := fun _ => noChk) h rfl hz hq

/-- Settles O6: the ranges of FUNC tell VALU's and VFMA's forms apart. -/
theorem vectorArithmeticCompletes : Obligations.VectorArithmeticCompletes := by
  intro s t b y z hq
  refine ⟨fun h hf hz => ?_, fun h hlo hhi hz => ?_, fun h hf hz => ?_, fun h hf hz => ?_, fun h hf hz => ?_, fun h hf hz => ?_⟩
  all_goals refine effect_completed h (congrArg Except.ok (Eq.trans ?_ hz.symm)) hq
  · rw [if_pos hf]
  · rw [if_neg (by omega), if_neg (by omega), if_neg (by omega)]
  · rw [if_neg (by omega), if_pos hf]
  · rw [if_neg (by omega), if_neg (by omega), if_pos hf]
  · rw [if_pos hf]
  · rw [if_neg (by omega)]

/-- Settles O7: the ranges of FUNC tell VCMP's and VRED's forms apart. -/
theorem rowFunctionsComplete : Obligations.RowFunctionsComplete := by
  intro s t b y z hq
  refine ⟨fun h hf hz => ?cmp32, fun h hlo hhi hz => ?cmpInt, fun h hf hz => ?cmp64, fun h hf hz => ?red32, fun h hf hz => ?red64,
    fun h hz => effect_completed h (congrArg Except.ok hz.symm) hq, fun h hz => effect_completed h (congrArg Except.ok hz.symm) hq,
    fun h hz => effect_completed h (congrArg Except.ok hz.symm) hq, fun h hz => ?stat⟩
  case cmp32 =>
    refine effect_completed h (congrArg Except.ok (Eq.trans ?_ hz.symm)) hq
    rw [if_pos hf]
  case cmpInt =>
    refine effect_completed h (congrArg Except.ok (Eq.trans ?_ hz.symm)) hq
    rw [if_neg (by omega), if_pos hhi]
  case cmp64 =>
    refine effect_completed h (congrArg Except.ok (Eq.trans ?_ hz.symm)) hq
    rw [if_neg (by omega), if_neg (by omega)]
  case red32 =>
    obtain ⟨r, hr, hz⟩ := hz
    refine effect_completed h (congrArg Except.ok (Eq.trans ?_ hz.symm)) hq
    have hfunc : (insOf b).func = 0 ∨ (insOf b).func = 1 ∨ (insOf b).func = 2 ∨ (insOf b).func = 3 := by omega
    rcases hfunc with hf | hf | hf | hf <;> simp only [hr, hf, vredOp] <;> rfl
  case red64 =>
    obtain ⟨r, hr, hz⟩ := hz
    refine effect_completed h (congrArg Except.ok (Eq.trans ?_ hz.symm)) hq
    simp only [hf, if_true, hr, vredOp]
  case stat =>
    obtain ⟨r, hr, hz⟩ := hz
    refine effect_completed h (congrArg Except.ok (Eq.trans ?_ hz.symm)) hq
    rw [hr]

/-! ### Vector loads and stores, and tile memory -/

/-- Settles O8: each access, permitted, is the only step of its instruction that could stop it. -/
theorem vectorMemoryCompletes : Obligations.VectorMemoryCompletes := by
  intro s t b y w z d cs vs hq
  refine ⟨fun h hd hf hl hz => ?pairs, fun h hd hf hl hz => ?words, fun h hd hf hl hz => ?vals, fun h hd hg hf hr hc hz => ?codes,
    fun h hd hg hf hz => ?row, fun h ht hl hz => ?vtrd, fun h ht ha hl hz => ?vtwr⟩
  case pairs =>
    refine guard_completed (chk := vldChk) (run := vldRun) h hd ?_ hq
    simp only [vldRun, hf, hl, hz, bind, Except.bind, pure, Except.pure, Nat.zero_le, if_true]
  case words =>
    refine guard_completed (chk := vldChk) (run := vldRun) h hd ?_ hq
    simp only [vldRun, hf, hl, hz, bind, Except.bind, pure, Except.pure, Nat.le_refl, if_true, Nat.one_ne_zero, if_false]
  case vals =>
    refine guard_completed (chk := vldChk) (run := vldRun) h hd ?_ hq
    simp only [vldRun, if_neg (show ¬ d.fmt ≤ 1 by omega), hl, hz, bind, Except.bind, pure, Except.pure] <;> rfl
  case codes =>
    refine guard_completed (chk := vstChk) (run := vstRun) h (a := d) ?_ ?_ hq
    · rcases hg with hg | hg <;> simp [vstChk, hd, hg, need, bind, Except.bind, pure, Except.pure]
    · simp only [vstRun, if_pos hf, hr, hc, and_self, if_true, hz, bind, Except.bind, pure, Except.pure]
  case row =>
    obtain ⟨els, hz⟩ := hz
    refine guard_completed (chk := vstChk) (run := vstRun) h (a := d) ?_ ?_ hq
    · rcases hg with hg | hg <;> simp [vstChk, hd, hg, need, bind, Except.bind, pure, Except.pure]
    · simp only [vstRun, if_neg (show ¬ d.fmt ≤ 1 by omega), hz, bind, Except.bind, pure, Except.pure]
  case vtrd =>
    refine effect_completed h ?_ hq
    simp only [slotChk, need, ht, decide_true, if_true, hl, hz, bind, Except.bind, pure, Except.pure]
  case vtwr =>
    obtain ⟨u, hu, hz⟩ := hz
    refine effect_completed (run := vtwrRun) h ?_ hq
    simp only [vtwrRun, vtwrChk, slotChk, need, ht, ha, decide_true, if_true, hl, hz, hu, bind, Except.bind, pure, Except.pure] <;> rfl

end Sys2Proof.Machine
end

section
/-! Tiles, accumulations, macros, pages, draws and compression complete (R132 to R136, R148 to R161, R205 to R244). -/
namespace Sys2Proof.Machine

/-- Settles O9: the checks of AOPEN and AFIN run with their effect; the others are checked apart. -/
theorem tilesAndAccumulationsComplete : Obligations.TilesAndAccumulationsComplete := by
  refine ⟨fun s t b y z hq => ⟨fun d h hc hz => guard_completed h hc hz hq, fun d h hc hz => guard_completed h hc hz hq⟩,
    fun s t b y z hq => ⟨fun k h hk hz => ?aopen, fun h hc hz => ?mma, fun h hc hz => ?mconv, fun a h hc hz => ?afin,
      fun h hz => effect_completed h hz hq, fun h hz => effect_completed h hz hq, fun h hz => effect_completed h hz hq⟩⟩
  case aopen =>
    refine effect_completed h ?_ hq
    simp only [hk, hz, bind, Except.bind, pure, Except.pure]
  case mma => exact guard_completed (chk := fun _ => mmaFormats) h hc hz hq
  case mconv => exact guard_completed (chk := fun _ => mmaFormats) h hc hz hq
  case afin =>
    refine effect_completed h ?_ hq
    simp only [hc, hz, bind, Except.bind]

/-- A plan whose team, points and end answer is carried out. -/
theorem runPlan_ok {x w : X} {q : MacroPlan} (ht : x.inTeam q.mp.teamBase q.mp.team = .ok ())
    (hp : x.points 0 (q.p.points q.mp q.rc x.r.rank (ceilDiv q.p.mb q.mp.bm) 0 0).1 = .ok w) :
    x.runPlan q = .ok (w.closeMacro q.mp) := by
  simp only [X.runPlan, ht, hp, bind, Except.bind, pure, Except.pure]

/-- Settles O10: GEMM and CONV carry out their plan; the others are stated by their effect. -/
theorem macrosComplete : Obligations.MacrosComplete := by
  intro s t b y w z hq
  refine ⟨fun ts q v h hc hl ht hp hz => ?gemm, fun ts q v h hc hl ht hp hz => ?conv, fun ts h hc hz => guard_completed h hc hz hq,
    fun q h hc hz => guard_completed h hc hz hq, fun q h hc hz => guard_completed h hc hz hq⟩
  case gemm =>
    refine guard_completed (run := gemmRun) h hc ?_ hq
    simp only [gemmRun, hl, runPlan_ok ht hp, hz, bind, Except.bind]
  case conv =>
    refine guard_completed (run := convRun) h hc ?_ hq
    simp only [convRun, hl, runPlan_ok ht hp, hz, bind, Except.bind]

/-- Settles O11: each is stated by its checks and its effect. -/
theorem pageInstructionsComplete : Obligations.PageInstructionsComplete := fun _ _ _ _ _ hq =>
  ⟨fun h hz => effect_completed h hz hq, fun _ h hc hz => guard_completed h hc hz hq, fun _ h hc hz => guard_completed h hc hz hq,
    fun _ h hc hz => guard_completed h hc hz hq⟩

/-- Settles O12: the words of Tinder need no check; TFILL and SAMPLE are stated by theirs. -/
theorem drawInstructionsComplete : Obligations.DrawInstructionsComplete := fun _ _ _ _ _ hq =>
  ⟨fun h hz => effect_completed h (congrArg Except.ok hz.symm) hq, fun h hz => effect_completed h (congrArg Except.ok hz.symm) hq,
    fun h hz => effect_completed h (congrArg Except.ok hz.symm) hq, fun _ h hc hz => guard_completed h hc hz hq,
    fun _ h hc hz => guard_completed h hc hz hq⟩

/-- Settles O13: a TGEN that nothing holds rotates its slot. -/
theorem compressionInstructionsComplete : Obligations.CompressionInstructionsComplete := by
  intro s t b y z hq
  refine ⟨fun _ h hc hz => guard_completed h hc hz hq, fun _ h hc hz => guard_completed h hc hz hq, fun h hu hr hw hz => ?_⟩
  refine effect_completed (run := tgenRun) h ?_ hq
  simp only [tgenRun, X.need, hu, hr, hw, if_true, ne_eq, not_true_eq_false, Bool.false_eq_true, or_self, if_false, hz, bind,
    Except.bind, pure, Except.pure]

end Sys2Proof.Machine
end

section
/-! Flags, fences, member lists, barriers, collectives and expert operations complete or wait (R102 to R105, R279 to R284, R290 to
R292), and the register accesses of a strand complete (R141). -/
namespace Sys2Proof.Machine

/-! ### Flags -/

section
variable {y w z : X} {i : Ins} {bs : List Byte} (hc : y.flagChk (y.s i.op2) true = .ok ()) (hr : y.released (bit i.func 0) = .ok ())
include hc hr

/-- FSET of a flag of this module stores it. -/
theorem fsetRun_here (hh : y.here (y.s i.op2) = true) (hz : y.store (y.s i.op2) (leBytes 8 (y.s i.op3)) 2 = .ok z) :
    fsetRun y i () = .ok z := by
  simp only [fsetRun, hc, hr, hh, hz, if_true, bind, Except.bind]

/-- FSET of a flag of another module sends it. -/
theorem fsetRun_away (hh : y.here (y.s i.op2) = false) :
    fsetRun y i () = .ok (y.post (y.s i.op2) [y.flagPacket (y.s i.op2) 6 (y.s i.op3) 0]) := by
  simp only [fsetRun, hc, hr, hh, Bool.false_eq_true, if_false, bind, Except.bind, pure, Except.pure]

/-- FADD of a flag of this module answers the old value. -/
theorem faddRun_here {v : X} (hh : y.here (y.s i.op2) = true) (hl : y.load (y.s i.op2) 8 2 = .ok (bs, w))
    (hv : w.store (y.s i.op2) (leBytes 8 (ofLE bs + y.s i.op3)) 2 = .ok v) : faddRun y i () = .ok (v.setS i.op1 (ofLE bs)) := by
  simp only [faddRun, X.fadd, hc, hr, hh, hl, hv, if_true, bind, Except.bind, pure, Except.pure]

/-- FCAS of a flag of this module that holds the compared value stores the new one. -/
theorem fcasRun_equal {v : X} (hh : y.here (y.s i.op2) = true) (hl : y.load (y.s i.op2) 8 2 = .ok (bs, w)) (he : ofLE bs = y.s i.op3)
    (hv : w.store (y.s i.op2) (leBytes 8 (y.s i.op4)) 2 = .ok v) : fcasRun y i () = .ok (v.setS i.op1 (ofLE bs)) := by
  simp only [fcasRun, hc, hr, hh, hl, he, hv, if_true, bind, Except.bind, pure, Except.pure]

/-- FCAS of a flag of this module that holds another value leaves it. -/
theorem fcasRun_differs (hh : y.here (y.s i.op2) = true) (hl : y.load (y.s i.op2) 8 2 = .ok (bs, w)) (he : ofLE bs ≠ y.s i.op3) :
    fcasRun y i () = .ok (w.setS i.op1 (ofLE bs)) := by
  simp only [fcasRun, hc, hr, hh, hl, he, if_true, if_false, bind, Except.bind, pure, Except.pure]

/-- FCAS of a flag of another module answers what has come. -/
theorem fcasRun_away {old : Nat} (hh : y.here (y.s i.op2) = false)
    (ho : y.remoteFlagOp (y.s i.op2) 5 (y.s i.op3) (y.s i.op4) = .ok old) : fcasRun y i () = .ok (y.setS i.op1 old) := by
  simp only [fcasRun, hc, hr, hh, ho, Bool.false_eq_true, if_false, bind, Except.bind, pure, Except.pure]

end

/-- FWAIT of a flag of this module: it goes on where the comparison holds, and waits where it does not. -/
theorem fwaitRun_here {y w : X} {i : Ins} {bs : List Byte} (hc : y.flagChk (y.s i.op2) false = .ok ())
    (hh : y.here (y.s i.op2) = true) (hl : y.load (y.s i.op2) 8 2 = .ok (bs, w)) :
    fwaitRun y i () = if flagCmp (bits i.func 2 2) (ofLE bs) (y.s i.op3) then .ok w
      else .error (.hold (.flag (y.s i.op2) (bits i.func 2 2) (y.s i.op3)) (some w)) := by
  simp only [fwaitRun, hc, hh, hl, if_true, bind, Except.bind, pure, Except.pure]

/-- FWAIT of a flag of another module goes on once its answer has come. -/
theorem fwaitRun_away {y : X} {i : Ins} {old : Nat} (hc : y.flagChk (y.s i.op2) false = .ok ())
    (hh : y.here (y.s i.op2) = false) (ho : y.remoteFlagOp (y.s i.op2) (bits i.func 2 2) (y.s i.op3) 0 = .ok old) :
    fwaitRun y i () = .ok y := by
  simp only [fwaitRun, hc, hh, ho, Bool.false_eq_true, if_false, bind, Except.bind, pure, Except.pure]

/-! ### Member lists and barriers -/

/-- A member list in order, while no operation and no barrier of the members is open, becomes the current one (R280). -/
theorem membRun_ok {y w v : X} {i : Ins} {h bs : List Byte} (ha : y.s i.op2 % 64 = 0) (hl : y.load (y.s i.op2) 64 2 = .ok (h, w))
    (h1 : 1 ≤ fld h 0 4) (h2 : fld h 0 4 ≤ 65536) (hz : zeroAt h 4 60 = true)
    (hb : w.load (y.s i.op2 + 64) (8 * fld h 0 4) 2 = .ok (bs, v))
    (hpad : ((List.range (fld h 0 4)).all fun j => zeroAt bs (8 * j + 4) 4) = true)
    (hown : ((membersOf bs (fld h 0 4)).filter (· == (y.env.dev, y.k))).length = 1) (hnd : (membersOf bs (fld h 0 4)).Nodup)
    (hg : y.s i.op3 < 2 ^ 32) (hops : v.cx.coll.ops = []) (hbars : v.cx.bars.any (fun q => q.scope == 3 && q.fin.isNone) = false) :
    membRun y i () = .ok { v with cx := { v.cx with coll := { v.cx.coll with
      members := membersOf bs (fld h 0 4), gen := y.s i.op3, listed := true, aborted := false, nextSeq := 1 } } } := by
  simp only [membRun, X.need, ha, hl, h1, h2, hz, hb, hpad, hown, hnd, hg, hops, hbars, beq_self_eq_true, decide_true, Bool.and_self,
    List.isEmpty_nil, not_true_eq_false, Bool.false_eq_true, or_self, if_true, if_false, bind, Except.bind, pure, Except.pure]

/-- A strand whose barrier is released leaves it (R104). -/
theorem barRun_released {y : X} {i : Ins} {q : Bar}
    (hf : y.cx.bars.find? (fun q => q.names y.r (bits i.imm 0 2) (bits i.imm 4 4) && q.arrived.contains y.r.rank) = some q)
    (hfin : q.fin = some 0) :
    barRun y i () = .ok { y with cx := { y.cx with bars := leaveBar y.cx.bars y.r (bits i.imm 0 2) (bits i.imm 4 4) } } := by
  simp only [barRun, hf, hfin]

/-- A strand that has not arrived arrives at its barrier and waits (R104, R285). -/
theorem barRun_arrives {y w : X} {i : Ins}
    (hs : bits i.imm 0 2 ≠ 3 ∨ (y.cx.coll.listed = true ∧ y.cx.coll.aborted = false)) (ha : y.r.acks = 0)
    (hf : y.cx.bars.any (fun q => q.names y.r (bits i.imm 0 2) (bits i.imm 4 4) && q.arrived.contains y.r.rank) = false)
    (hw : ({ y with cx := { y.cx with bars := arriveAt y.cx.bars y.r (bits i.imm 0 2) (bits i.imm 4 4) } } : X).tellBars = .ok w) :
    barRun y i () = .error (.hold (.barrier (bits i.imm 0 2) (bits i.imm 4 4)) (some w)) := by
  have hnone : y.cx.bars.find? (fun q => q.names y.r (bits i.imm 0 2) (bits i.imm 4 4) && q.arrived.contains y.r.rank) = none := by
    rw [List.find?_eq_none]
    exact List.any_eq_false.1 hf
  have hlist : (bits i.imm 0 2 != 3 || (y.cx.coll.listed && !y.cx.coll.aborted)) = true := by
    rcases hs with hs | ⟨hl, hb⟩
    · simp [hs]
    · simp [hl, hb]
  simp only [barRun, hnone, X.check, hlist, if_true, X.released, ha, ne_eq, not_true_eq_false, and_false, if_false, hw, bind,
    Except.bind]

/-! ### Collectives and expert operations -/

section
variable {y w : X} {i : Ins} {bs : List Byte} {q : CollOp} {st : Nat} (ho : y.collOp = some q) (hf : q.fin = some st)
include ho hf

/-- COLL once its operation has ended (R281, R284). -/
theorem collRun_ended {d src : Td} (hl : y.load (y.s i.op4) 64 4 = .ok (bs, w)) :
    collRun y i (d, src) = w.collEnd q st (fld bs 8 8) d (collWrite d src i.func (fld bs 2 1) q) := by
  simp only [collRun, hl, ho, hf, bind, Except.bind]

/-- XDISP once its operation has ended (R290, R291). -/
theorem xdispRun_ended {d src idx : Td} (hl : y.load (y.s i.op4) 128 4 = .ok (bs, w)) :
    xdispRun y i (d, src, idx) = w.collEnd q st (expertOf bs).status d (xdispWrite d src idx (expertOf bs) q) := by
  simp only [xdispRun, hl, ho, hf, bind, Except.bind]

/-- XCOMB once its operation has ended (R290, R292). -/
theorem xcombRun_ended {d src wt : Td} (hl : y.load (y.s i.op4) 128 4 = .ok (bs, w)) :
    xcombRun y i (d, src, wt) =
      w.collEnd q st (expertOf bs).status d (xcombWrite d src wt (fld bs 0x40 64) (expertOf bs) q) := by
  simp only [xcombRun, hl, ho, hf, bind, Except.bind]

end

/-- COLL whose block and list are in order begins its operation (R281, R282). -/
theorem collRun_begins {y w u : X} {i : Ins} {bs : List Byte} {d src : Td} {codes : List Nat} (ho : y.collOp = none)
    (hl : y.load (y.s i.op4) 64 4 = .ok (bs, w)) (hver : fld bs 0 2 = 1) (hop : fld bs 2 1 ≤ 2)
    (hfn : fld bs 2 1 = 0 ∨ i.func = 0 ∨ i.func = 2) (hz3 : zeroAt bs 3 1 = true) (hz16 : zeroAt bs 0x10 48 = true)
    (hst : y.statusOk (fld bs 8 8) = true) (hli : y.cx.coll.listed = true) (hab : y.cx.coll.aborted = false)
    (hseq : fld bs 4 4 = y.cx.coll.nextSeq) (hfmt : i.func = 0 ∨ i.func = 2 ∨ d.fmt = src.fmt)
    (hsize : d.size = collSize i.func src.size y.size y.rank) (hcodes : w.allCodes src = .ok (codes, u)) :
    collRun y i (d, src) =
      u.collStart [i.func, fld bs 2 1, fld bs 4 4, y.cx.coll.gen, src.fmt, src.e0, src.e1, src.e2, src.e3]
        (fun r => packRow src.fmt (collPart i.func y.size y.rank r codes)) := by
  obtain ⟨m, e, us, cr, rfl⟩ := load_ok hl
  have hblock : (fld bs 0 2 == 1 && fld bs 2 1 ≤ 2 && (fld bs 2 1 == 0 || i.func == 0 || i.func == 2) && zeroAt bs 3 1 &&
      zeroAt bs 0x10 48 && y.statusOk (fld bs 8 8)) = true := by
    rcases hfn with h | h | h <;> simp [hver, hop, h, hz3, hz16, hst]
  have hformat : (i.func == 0 || i.func == 2 || d.fmt == src.fmt) = true := by
    rcases hfmt with h | h | h <;> simp [h]
  simp only [collRun, hl, ho, X.check, X.listChk, hblock, hformat, hli, hab, hseq, hsize, hcodes, beq_self_eq_true, Bool.not_false,
    Bool.and_self, if_true, bind, Except.bind]

/-! ### The statements -/

/-- Settles O14: each form is stated by what its checks need and by the event that ended what it waited for. -/
theorem synchronisationCompletes : Obligations.SynchronisationCompletes := by
  intro s t b y w z bs hq
  refine ⟨fun h hc hr hh hz => effect_completed h (fsetRun_here hc hr hh hz) hq,
    fun h hc hr hh hz => effect_completed h ((fsetRun_away hc hr hh).trans (congrArg Except.ok hz.symm)) hq,
    fun old h hc hr hh ho hz => effect_completed h ((fcasRun_away hc hr hh ho).trans (congrArg Except.ok hz.symm)) hq,
    fun old h hc hh ho hz => effect_completed h ((fwaitRun_away hc hh ho).trans (congrArg Except.ok hz.symm)) hq,
    fun h hc hr hh hl ⟨v, hv, hz⟩ => effect_completed h ((faddRun_here hc hr hh hl hv).trans (congrArg Except.ok hz.symm)) hq,
    fun h hc hr hh hl he ⟨v, hv, hz⟩ => effect_completed h ((fcasRun_equal hc hr hh hl he hv).trans (congrArg Except.ok hz.symm)) hq,
    fun h hc hr hh hl he hz => effect_completed h ((fcasRun_differs hc hr hh hl he).trans (congrArg Except.ok hz.symm)) hq,
    fun h hc hh hl hf => effect_completed h ((fwaitRun_here hc hh hl).trans (if_pos hf)) hq,
    fun h ha hz => effect_completed h ((if_pos ha).trans (congrArg Except.ok hz.symm)) hq,
    fun hd v h ha hl h1 h2 hz4 hb hpad hown hnd hg hops hbars hz =>
      effect_completed h ((membRun_ok ha hl h1 h2 hz4 hb hpad hown hnd hg hops hbars).trans (congrArg Except.ok hz.symm)) hq,
    fun q h hf hfin hz => effect_completed h ((barRun_released hf hfin).trans (congrArg Except.ok hz.symm)) hq,
    fun q d src st h ho hf hc hl hz => guard_completed h hc ((collRun_ended ho hf hl).trans hz) hq,
    fun q d src idx st h ho hf hc hl hz => guard_completed h hc ((xdispRun_ended ho hf hl).trans hz) hq,
    fun q d src wt st h ho hf hc hl hz => guard_completed h hc ((xcombRun_ended ho hf hl).trans hz) hq,
    fun q h hc hz => guard_completed h hc hz hq⟩

/-- An instruction whose checks pass and whose effect waits. -/
theorem guard_waiting {α : Type} {s : State} {t : StrandId} {b : Body} {op : Nat} {y z : X} {chk : X → Ins → Res α}
    {run : X → Ins → α → Res X} {a : α} {w : Wait} (h : running s t b op = some y) (hc : chk y (insOf b) = .ok a)
    (hz : run y (insOf b) a = .error (.hold w (some z))) :
    answer (s.issue t b op (fun b x => x.guard b (chk x) (run x))) = .next (s.waiting t b w z) :=
  issue_waiting h ((guard_run h hc _).trans hz)

/-- Settles O16: what each of them has done when it waits. -/
theorem waitingInstructionsWait : Obligations.WaitingInstructionsWait := by
  intro s t b y w bs
  refine ⟨fun h hc hh hl hf => guard_waiting (chk := fun _ => noChk) h rfl ((fwaitRun_here hc hh hl).trans (by rw [hf]; rfl)),
    fun h hs ha hn hw => guard_waiting (chk := fun _ => noChk) h rfl (barRun_arrives hs ha hn hw),
    fun d src codes u v h ho hc hl hver hop hfn hz3 hz16 hst hli hab hseq hfmt hsize hcodes hw =>
      guard_waiting h hc ((collRun_begins ho hl hver hop hfn hz3 hz16 hst hli hab hseq hfmt hsize hcodes).trans hw),
    fun q v h _ hc hw => guard_waiting h hc hw, fun q v h _ hc hw => guard_waiting h hc hw, fun q v h hc hw => guard_waiting h hc hw⟩

/-! ### Registers -/

/-- The alias of an own register lies in the management space (R63). -/
theorem aliasOf_mgmt {a : Nat} {g : SlotReg} (h : aliasOf a = some g) : ¬ (a < mgmtBase ∨ mgmtEnd ≤ a) := by
  have hend : mgmtEnd = mgmtBase + 0x11000000 := by decide
  unfold aliasOf blockOff at h
  generalize mgmtBase = m at h hend ⊢
  dsimp only at h
  split at h
  · omega
  · split at h
    · omega
    · split at h
      · omega
      · split at h
        · omega
        · cases h

/-- An address that names an own register is its alias (R141). -/
theorem aliasOf_of_own {y : X} {a : Nat} {g : SlotReg} (h : y.strandReg a = some (.own g)) : aliasOf a = some g := by
  unfold X.strandReg at h
  cases ha : aliasOf a with
  | some g' =>
    rw [ha] at h
    cases h
    rfl
  | none =>
    rw [ha] at h
    dsimp only at h
    split at h
    · cases h
    · cases h
    · cases h
    · split at h <;> cases h

/-- A write of an own register that its rule takes is journalled and made (R141, R388). -/
theorem rgwrRun_own {y : X} {i : Ins} {g : SlotReg} {num : NumRegs} (ha : y.s i.op2 % 8 = 0)
    (hr : y.strandReg (y.s i.op2) = some (.own g)) (hw : y.num.write g (y.s i.op3) = some num) :
    rgwrRun y i () = .ok { y with
      num := num
      c := y.c.journal (Src.strand y.k y.cx.part)
        { kind := 1, code := 0, addr := y.s i.op2, old := y.num.read g, new := y.s i.op3 } } := by
  simp only [rgwrRun, ha, ne_eq, not_true_eq_false, if_false, hr, hw, if_neg (aliasOf_mgmt (aliasOf_of_own hr)), pure, Except.pure]

/-- A read that answers a register's value completes with it. -/
theorem exec_rgrd {s : State} {t : StrandId} {b : Body} {y : X} {v : Nat} (h : running s t b 0xC2 = some y)
    (hv : rgrdRun y (insOf b) () = .ok (y.setS (insOf b).op1 v)) :
    exec (.rgrd t b) s = .next (s.completed t (y.setS (insOf b).op1 v)) :=
  effect_completed h hv (.inr ((X.setS_nan ..).trans (running_nan h)))

/-- Settles O15: which register an address names decides what is read; a write of an own register is journalled. -/
theorem strandRegisterAccessCompletes : Obligations.StrandRegisterAccessCompletes := by
  intro s t b y
  refine ⟨fun g h ha hr => exec_rgrd h ?_, fun n g h ha hr => exec_rgrd h ?_, fun j h ha hr => exec_rgrd h ?_,
    fun g num h ha hr hw => effect_completed h (rgwrRun_own ha hr hw) (.inr (show y.nan = none from running_nan h))⟩
  · cases g <;> simp only [rgrdRun, X.need, ha, beq_self_eq_true, if_true, hr, bind, Except.bind, pure, Except.pure]
  · simp only [rgrdRun, X.need, ha, beq_self_eq_true, if_true, hr, bind, Except.bind, pure, Except.pure]
  · simp only [rgrdRun, X.need, ha, beq_self_eq_true, if_true, hr, bind, Except.bind, pure, Except.pure]

end Sys2Proof.Machine
end

section
/-! What every instruction has in common: skipped, faulting, trapped and held instructions (R58, R88, R107, R122, R124), and the state
that a completed one leaves. -/
namespace Sys2Proof.Machine

/-! ### Every opcode's meaning is a guard -/

@[simp] theorem map_unit_self (r : Res Unit) : (r.map fun _ => ()) = r := by cases r <;> rfl

/-- An instruction's meaning is a guard whose checks beyond the encoding are `c`. -/
def Guards (f : Body → X → Res X) (c : X → Ins → Res Unit) : Prop :=
  ∃ (α : Type) (chk : X → Ins → Res α) (run : X → Ins → α → Res X), (∀ b x, f b x = x.guard b (chk x) (run x)) ∧
    ∀ x i, c x i = (chk x i).map fun _ => ()

/-- The meaning of every opcode is a guard, with the checks that `checkOf` names. -/
theorem opFn_guard {c : Instr} {t : StrandId} {b : Body} {op : Nat} (h : instrOf t b op = some c) : Guards (opFn op) (checkOf op) := by
  unfold instrOf at h
  suffices Guards (fun b x => opFn op b x) (fun x i => checkOf op x i) from this
  split at h <;> cases h <;> dsimp only [opFn, checkOf] <;>
    exact ⟨_, _, _, fun _ _ => rfl, fun _ _ => by simp only [noChk, map_unit_self]⟩

/-- An opcode that is not END's is not END's as a number. -/
theorem toNat_ne_end {op : BitVec 8} (h : op ≠ 0x13) : op.toNat ≠ 0x13 := fun e => h (BitVec.eq_of_toNat_eq e)

/-- Settles O17: a guard whose checks pass answers the view where the predicate condition fails. -/
theorem skippedInstructionsOnlyAdvance : Obligations.SkippedInstructionsOnlyAdvance := by
  intro s t b op c y hc he hs hk
  obtain ⟨α, chk, run, hg, hchk⟩ := opFn_guard (instrOf_of_insParts hc)
  obtain ⟨a, ha⟩ := map_unit_ok ((hchk y (insOf b)).symm.trans hk)
  rw [exec_of_insParts s hc (toNat_ne_end he)]
  exact issue_skip hs ((hg b y).trans (guard_skip hs ha _))

/-! ### Faults -/

/-- A view keeps its opcode through its fetch. -/
theorem op_of_fetch {env : Env} {c : Core} {k i op : Nat} {x y : X} (hx : viewOf env c k i op = some x) (hy : fetchCheck x = .ok y) :
    y.op = op := by
  obtain ⟨m, e, u, q, rfl⟩ := fetch_ok hy
  obtain ⟨cx, r, -, -, rfl⟩ := viewOf_ok hx
  rfl

/-- Settles O18: the fetch comes first; a guard then answers the fault of its encoding check, or of its checks by opcode. -/
theorem faultsHoldTheContext : Obligations.FaultsHoldTheContext := by
  intro s t b op c x y f hc he hx hr
  obtain ⟨α, chk, run, hg, hchk⟩ := opFn_guard (instrOf_of_insParts hc)
  rw [exec_of_insParts s hc (toNat_ne_end he)]
  refine ⟨fun hf => issue_fetch_fault _ hx hr hf, fun hy henc => issue_fault hx hr hy ?_, fun hy henc hk => issue_fault hx hr hy ?_⟩
  · rw [hg, X.guard, op_of_fetch hx hy]
    simp only [henc, bind, Except.bind]
  · have ha := map_unit_error ((hchk y (insOf b)).symm.trans hk)
    rw [hg, X.guard, op_of_fetch hx hy]
    simp only [henc, ha, bind, Except.bind]

/-- Settles O20: the view of a strand whose context is not live is not ready. -/
theorem heldContextsDoNotIssue : Obligations.HeldContextsDoNotIssue := by
  intro s t b op c hc he hl
  rw [exec_of_insParts s hc (toNat_ne_end he)]
  have hcore : issueCore (s.envOf t.ctx.val) (opFn op.toNat) op.toNat t.ctx.val t.idx.val b s.core = s.core := by
    unfold issueCore
    split
    · rfl
    · next x hx =>
      obtain ⟨cx, r, hcx, -, rfl⟩ := viewOf_ok hx
      simp only [X.ready, hl cx hcx, Bool.false_and, Bool.false_eq_true, if_false]
  simp only [State.issue, State.onCore, hcore, answer]

/-! ### The state that an instruction leaves -/

/-- A list of pairs whose values are changed, read at a key. -/
theorem lookup_map_snd {α β : Type} (f : α → β) (l : List (Nat × α)) (k : Nat) :
    lookup (l.map fun p => (p.1, f p.2)) k = (lookup l k).map f := by
  induction l with
  | nil => rfl
  | cons p l ih =>
    obtain ⟨k', v⟩ := p
    rw [List.map_cons, lookup_cons, lookup_cons, ih]
    split <;> rfl

@[simp] theorem Context.touch_strands (cx : Context) (n : Nat) : (cx.touch n).strands = cx.strands := rfl
@[simp] theorem Context.touch_tiles (cx : Context) (n : Nat) : (cx.touch n).tiles = cx.tiles := rfl
@[simp] theorem Context.touch_num (cx : Context) (n : Nat) : (cx.touch n).num = cx.num := rfl
@[simp] theorem Context.touch_coll (cx : Context) (n : Nat) : (cx.touch n).coll = cx.coll := rfl
@[simp] theorem Context.touch_bars (cx : Context) (n : Nat) : (cx.touch n).bars = cx.bars := rfl
@[simp] theorem Context.touch_trap (cx : Context) (n : Nat) : (cx.touch n).trap = cx.trap := rfl

/-- A context after the end of a command: its times are brought up to date. -/
theorem State.settle_lookup_ctx (s : State) (k : Nat) :
    lookup s.settle.core.ctxs k = (lookup s.core.ctxs k).map fun cx => cx.touch (s.core.clock + 1) := by
  rw [State.settle_ctxs]
  exact lookup_map_snd (fun cx : Context => cx.touch (s.core.clock + 1)) s.core.ctxs k

/-- The end of a command leaves every strand. -/
@[simp] theorem State.settle_strand (s : State) (k i : Nat) : s.settle.core.strand k i = s.core.strand k i := by
  simp only [Core.strand, State.settle_lookup_ctx, Option.bind_map, Function.comp_def, Context.touch_strands]

/-- A context that has not faulted aborts nothing. -/
theorem State.onFault_unfaulted {s : State} {k : Nat} {cx : Context} (h : lookup s.core.ctxs k = some cx) (hf : cx.faulted = false) :
    s.onFault k = s := by
  simp only [State.onFault, h, hf, Bool.false_eq_true, if_false]

/-- The context that a view writes back. -/
def X.written (x : X) : Context :=
  { x.cx with
    strands := if x.ended then eraseKey x.i x.cx.strands else insertKey x.i x.r x.cx.strands
    tiles := insertKey x.i x.tm x.cx.tiles
    num := { x.num with fpflags := x.num.fpflags ||| x.flags } }

/-- The contexts once a view is written back. -/
theorem X.commit_lookup (x : X) (k : Nat) : lookup x.commit.ctxs k = if x.k = k then some x.written else lookup x.c.ctxs k :=
  lookup_insertKey ..

/-- The state once a view of a strand of context `k` is written back, and the command has ended. -/
def State.leaving (s : State) (k : Nat) (x : X) : State := ((s.onCore fun _ => x.commit).onFault k).settle

theorem State.completed_eq (s : State) (t : StrandId) (z : X) : s.completed t z = s.leaving t.ctx.val z.finish := rfl

section
variable {s : State} {k : Nat} {x : X} (hk : x.k = k) (hf : x.cx.faulted = false)
include hk hf

/-- A context that has not faulted is left as its view has it. -/
theorem State.leaving_eq : s.leaving k x = (s.onCore fun _ => x.commit).settle := by
  have hl : lookup (s.onCore fun _ => x.commit).core.ctxs k = some x.written := (x.commit_lookup k).trans (if_pos hk)
  rw [State.leaving, State.onFault_unfaulted hl hf]

theorem State.leaving_mem : (s.leaving k x).core.mem = x.c.mem := by
  rw [State.leaving_eq hk hf, State.settle_mem]
  rfl

theorem State.leaving_lookup (k' : Nat) : lookup (s.leaving k x).core.ctxs k' =
    (if k = k' then some x.written else lookup x.c.ctxs k').map fun cx => cx.touch (x.c.clock + 1) := by
  rw [State.leaving_eq hk hf, State.settle_lookup_ctx, ← hk, ← X.commit_lookup]
  rfl

/-- The context of the strand. -/
theorem State.leaving_ctx : lookup (s.leaving k x).core.ctxs k = some (x.written.touch (x.c.clock + 1)) := by
  rw [State.leaving_lookup hk hf, if_pos rfl]
  rfl

/-- The strands of another context. -/
theorem State.leaving_strand_elsewhere {k' : Nat} (h : k ≠ k') (i : Nat) :
    (s.leaving k x).core.strand k' i = x.c.strand k' i := by
  simp only [Core.strand, State.leaving_lookup hk hf, if_neg h, Option.bind_map, Function.comp_def, Context.touch_strands]

/-- The strands of the context itself. -/
theorem State.leaving_strand (he : x.ended = false) (i : Nat) :
    (s.leaving k x).core.strand k i = if x.i = i then some x.r else lookup x.cx.strands i := by
  simp only [Core.strand, State.leaving_ctx hk hf, Option.bind_some, Context.touch_strands, X.written, he, Bool.false_eq_true, if_false,
    lookup_insertKey]

end

/-- The view of an instruction that executes: its strand's, with what its fetch did to memory and what it used. -/
theorem running_view {s : State} {t : StrandId} {b : Body} {op : Nat} {y : X} (h : running s t b op = some y) :
    ∃ cx r m e u q, lookup s.core.ctxs t.ctx.val = some cx ∧ lookup cx.strands t.idx.val = some r ∧ cx.live = true ∧ r.held = none ∧
      y = { c := { s.core with mem := m, ecc := e, usage := u, credits := q }, env := s.envOf t.ctx.val, k := t.ctx.val, i := t.idx.val
            cx := cx, r := r, tm := (lookup cx.tiles t.idx.val).getD {}, num := cx.num, op := op, trapOn := cx.num.nantrap } := by
  obtain ⟨x, hx, hr, hf, -, -⟩ := running_ok h
  obtain ⟨m, e, u, q, rfl⟩ := fetch_ok hf
  obtain ⟨cx, r, hcx, hst, rfl⟩ := viewOf_ok hx
  simp only [X.ready, Bool.and_eq_true, Option.isNone_iff_eq_none] at hr
  obtain ⟨⟨hlive, -⟩, hheld⟩ := hr
  exact ⟨cx, r, m, e, u, q, hcx, hst, hlive, hheld, rfl⟩

/-- A context that is live has not faulted. -/
theorem Context.faulted_of_live {cx : Context} (h : cx.live = true) : cx.faulted = false := by
  simp only [Context.live, Bool.and_eq_true, Bool.not_eq_true'] at h
  exact h.1.2

/-- Settles O21: the view is written back, and its context has not faulted. -/
theorem completedStateHoldsTheView : Obligations.CompletedStateHoldsTheView := by
  intro s t b op y z h hk hi hf he
  obtain ⟨cx, r, m, e, u, q, hcx, hst, -, -, rfl⟩ := running_view h
  replace hk : z.finish.k = t.ctx.val := hk
  replace hi : z.finish.i = t.idx.val := hi
  replace hf : z.finish.cx.faulted = false := hf
  replace he : z.finish.ended = false := he
  rw [State.completed_eq]
  refine ⟨State.leaving_mem hk hf, ?_, fun k' i hne hc => ?_, fun i hne hcx' => ?_, ?_⟩
  · rw [State.leaving_strand hk hf he, if_pos hi]
    rfl
  · rw [State.leaving_strand_elsewhere hk hf (Ne.symm hne)]
    simp only [Core.strand, X.finish, hc]
  · rw [State.leaving_strand hk hf he, if_neg (fun e => hne (e.symm.trans hi))]
    simp only [Core.strand, X.finish, hcx', hcx, Option.bind_some]
  · simp [State.leaving_eq hk hf, State.onCore]

/-! ### NaN traps -/

/-- An instruction that a NaN trap stops on its way. -/
theorem issue_trap {s : State} {t : StrandId} {b : Body} {op : Nat} {y : X} {f : Body → X → Res X} {n : NanInfo} {kept : Option X}
    (h : running s t b op = some y) (hf : f b y = .error (.trap n kept)) :
    answer (s.issue t b op f) = .next ((s.onCore fun _ => takeTrap (kept.getD y) b n).onFault t.ctx.val).settle := by
  obtain ⟨x, hx, hr, hy, -, -⟩ := running_ok h
  simp only [answer, State.issue, State.onCore, issueCore, hx, hr, if_true, hy, hf, settle]

/-- An instruction that created a NaN under the trap. -/
theorem issue_trapped {s : State} {t : StrandId} {b : Body} {op : Nat} {y z : X} {f : Body → X → Res X} {n : NanInfo}
    (h : running s t b op = some y) (hf : f b y = .ok z) (ht : y.trapOn = true) (hn : z.nan = some n) :
    answer (s.issue t b op f) = .next (s.trapped t b y z n) := by
  obtain ⟨x, hx, hr, hy, -, -⟩ := running_ok h
  simp only [answer, State.issue, State.trapped, State.onCore, issueCore, hx, hr, if_true, hy, hf, settle, hn, ht]

/-- The view that a NaN trap writes back: its strand stopped, the trap in its context, and the error state `e`. -/
def trapView (y : X) (b : Body) (n : NanInfo) (e : Ecc) : X :=
  let c := { y.c with ecc := e }
  let cc := match y.r.me with
    | some m => c.readCclk (m / 16)
    | none => c.readWclk
  { y with
    c := cc.2
    cx := { y.cx with trap := some (trapOf y b n cc.1) }
    r := { y.r with held := none, arrived := [], prg := 0, list := {} } }

/-- Reading a counter leaves memory. -/
theorem trapView_mem (y : X) (b : Body) (n : NanInfo) (e : Ecc) : (trapView y b n e).c.mem = y.c.mem := by
  unfold trapView
  dsimp only
  split <;> rfl

/-- The trap of a view does not look at its error state. -/
theorem trapView_trap (y : X) (b : Body) (n : NanInfo) (e : Ecc) : (trapView y b n e).cx.trap = some (trapOf y b n
    (match y.r.me with | some m => (y.c.readCclk (m / 16)).1 | none => y.c.readWclk.1)) := by
  unfold trapView
  dsimp only
  split <;> rfl

theorem State.trapped_eq (s : State) (t : StrandId) (b : Body) (y z : X) (n : NanInfo) :
    s.trapped t b y z n = s.leaving t.ctx.val (trapView y b n (y.c.ecc.afterStop z.c.ecc)) := rfl

/-- Settles O19: a trap writes back the view of before the instruction, and the trap itself. -/
theorem nanTrapHoldsTheContext : Obligations.NanTrapHoldsTheContext := by
  refine ⟨fun s t b op c y n kept hc he h hf => ?_, fun s s' t b op c y z n hc he h hf ht hn hs => ?_⟩
  · rw [exec_of_insParts s hc (toNat_ne_end he)]
    exact issue_trap h hf
  · rw [exec_of_insParts s hc (toNat_ne_end he), issue_trapped h hf ht hn] at hs
    cases hs
    obtain ⟨cx, r, m, e, u, q, hcx, hst, hlive, -, hy⟩ := running_view h
    generalize he : y.c.ecc.afterStop z.c.ecc = e'
    have hk : (trapView y b n e').k = t.ctx.val := congrArg X.k hy
    have hi : (trapView y b n e').i = t.idx.val := congrArg X.i hy
    have hfault : (trapView y b n e').cx.faulted = false := (congrArg (·.cx.faulted) hy).trans (Context.faulted_of_live hlive)
    have hend : (trapView y b n e').ended = false := congrArg X.ended hy
    rw [State.trapped_eq, he]
    refine ⟨rfl, ?_, ⟨_, State.leaving_ctx hk hfault, trapView_trap y b n e'⟩, ?_⟩
    · rw [State.leaving_mem hk hfault, trapView_mem]
    · rw [State.leaving_strand hk hfault hend, if_pos hi]
      rfl

end Sys2Proof.Machine
end

section
/-! Frames of the instructions that write no memory (R126 to R131): a read corrects words whose errors are few and leaves memory as it
was, and a view that writes registers writes nothing else back. -/
namespace Sys2Proof.Machine

/-! ### Reads of memory with few errors -/

/-- Every word with errors has one to three wrong symbols, as many as the code tells apart (Table 12.4). -/
def Ecc.Few (e : Ecc) : Prop := ∀ p ∈ e.errs, 1 ≤ p.2.length ∧ p.2.length ≤ 3

theorem mem_of_lookup {α : Type} {l : List (Nat × α)} {k : Nat} {v : α} (h : lookup l k = some v) : (k, v) ∈ l := by
  obtain ⟨p, hp, rfl⟩ := Option.map_eq_some_iff.1 h
  have hk := List.find?_some hp
  rw [beq_iff_eq] at hk
  subst hk
  exact List.mem_of_find?_eq_some hp

theorem Ecc.Few.erase {e e' : Ecc} {k : Nat} (h : e.Few) (he : e'.errs = eraseKey k e.errs) : e'.Few := fun p hp =>
  h p (List.mem_filter.1 (he ▸ hp)).1

/-- A pattern of one to three symbols is corrected when it is one, and else uncorrectable. -/
theorem classify_few {d : Nat} {pat : List (Nat × Byte)} (h : 1 ≤ pat.length ∧ pat.length ≤ 3) :
    classify d pat = if pat.length = 1 then .corrected else .bad := by
  unfold classify
  rw [if_neg (by omega)]
  split
  · rfl
  · rw [if_pos h.2]

/-- A word's check leaves memory. -/
theorem scanWord_few {sp : Space} {m : Mem} {e : Ecc} {w : Nat} (h : e.Few) :
    (scanWord sp m e w).1 = m ∧ (scanWord sp m e w).2.1.Few := by
  unfold scanWord
  split
  · exact ⟨rfl, h⟩
  · split
    · exact ⟨rfl, h⟩
    · split
      · exact ⟨rfl, h⟩
      · next pat hp =>
        have hl : 1 ≤ pat.length ∧ pat.length ≤ 3 := h _ (mem_of_lookup hp)
        have h4 : ¬ 4 ≤ pat.length := by omega
        simp only [classify_few hl, if_neg h4]
        by_cases h1 : pat.length = 1
        · simp only [if_pos h1]
          exact ⟨trivial, h.erase rfl⟩
        · simp only [if_neg h1]
          exact ⟨trivial, h⟩

/-- A read's check leaves memory. -/
theorem scanRange_few {sp : Space} {m : Mem} {e : Ecc} {a n : Nat} (h : e.Few) :
    (scanRange sp m e a n).1 = m ∧ (scanRange sp m e a n).2.1.Few := by
  refine foldl_keeps (P := fun r : Mem × Ecc × Option Nat => r.1 = m ∧ r.2.1.Few) (fun r w hr => ?_) _ _ ⟨rfl, h⟩
  obtain ⟨m', e', o⟩ := r
  obtain ⟨rfl, he⟩ := hr
  cases o with
  | some v => exact ⟨rfl, he⟩
  | none => exact scanWord_few he

/-- No word has errors, is in the bad-word table, or awaits a transfer that fails. -/
def Ecc.Clean (e : Ecc) : Prop := e.errs = [] ∧ e.bad = [] ∧ e.once = []

/-- Where no word is damaged there is none in a range. -/
theorem errWords_clean {sp : Space} {e : Ecc} {a n : Nat} (h : e.Clean) : errWords sp e a n = [] := by
  obtain ⟨h1, h2, h3⟩ := h
  simp [errWords, h1, h2, h3]

/-- Where no word is damaged a read's check does nothing. -/
theorem scanRange_clean {sp : Space} {m : Mem} {e : Ecc} {a n : Nat} (h : e.Clean) : scanRange sp m e a n = (m, e, none) := by
  rw [scanRange, errWords_clean h]
  rfl

/-! ### Views that differ by reads -/

/-- What a view came to by reading: nothing of the strand but tile memory, whose words a read may correct, is touched, and main memory
is as it was where errors are few; where there are none, none come. -/
structure X.Reads (x y : X) : Prop where
  view : ∃ c tm, y = { x with c := c, tm := tm }
  mem : x.c.ecc.Few → y.c.mem = x.c.mem ∧ y.c.ecc.Few
  clean : x.c.ecc.Clean → y.c.ecc.Clean

theorem X.Reads.refl (x : X) : x.Reads x := ⟨⟨_, _, rfl⟩, fun h => ⟨rfl, h⟩, id⟩

theorem X.Reads.trans {x y z : X} (h : x.Reads y) (h' : y.Reads z) : x.Reads z := by
  obtain ⟨⟨c, tm, rfl⟩, hm, hc⟩ := h
  obtain ⟨⟨c', tm', rfl⟩, hm', hc'⟩ := h'
  refine ⟨⟨c', tm', rfl⟩, fun hf => ?_, fun h => hc' (hc h)⟩
  obtain ⟨e1, f1⟩ := hm hf
  obtain ⟨e2, f2⟩ := hm' f1
  exact ⟨e2.trans e1, f2⟩

/-- Bytes used are entered in the usage and the credits alone. -/
theorem X.used_reads (x : X) (a n : Nat) : x.Reads (x.used a n) := by
  obtain ⟨u, q, e⟩ := used_eq x a n
  rw [e]
  exact ⟨⟨_, _, rfl⟩, fun h => ⟨rfl, h⟩, id⟩

/-- A load is a read. -/
theorem load_reads {x y : X} {a n o : Nat} {bulk : Bool} {bs : List Byte} (h : x.load a n o bulk = .ok (bs, y)) : x.Reads y := by
  simp only [X.load, bind, Except.bind] at h
  split at h
  · cases h
  · split at h
    · cases h
      exact .refl x
    · split at h
      · split at h
        · cases h
        · cases h
          exact X.Reads.trans ⟨⟨_, _, rfl⟩, fun hf => scanRange_few hf, fun hc => by rwa [scanRange_clean hc]⟩ (X.used_reads _ _ _)
      · split at h
        · cases h
          exact .refl x
        · cases h

/-- A fetch is a read. -/
theorem fetch_reads {x y : X} (h : fetchCheck x = .ok y) : x.Reads y := by
  unfold fetchCheck at h
  split at h
  · cases h
  · dsimp only at h
    split at h
    · cases hq : x.load x.r.pc.toNat 16 with
      | error e =>
        rw [hq] at h
        cases h
      | ok q =>
        rw [hq] at h
        cases h
        exact load_reads (bs := q.1) hq
    · cases h

/-- Reading tile memory leaves main memory. -/
theorem tileRead_reads {x y : X} {acm : Bool} {a n : Nat} {bs : List Byte} (h : x.tileRead acm a n = .ok (bs, y)) : x.Reads y := by
  unfold X.tileRead at h
  dsimp only at h
  split at h
  · cases h
  · cases h
    exact ⟨⟨_, _, rfl⟩, fun hf => ⟨rfl, (scanRange_few hf).2⟩, fun hc => by rwa [scanRange_clean hc]⟩

/-! ### What an instruction that writes no memory leaves -/

/-- A view that writes back what `y` would, but for its own registers, its flags and tile memory. -/
structure X.Beside (y x : X) : Prop where
  k : x.k = y.k
  i : x.i = y.i
  faulted : x.cx.faulted = y.cx.faulted
  coll : x.cx.coll = y.cx.coll
  bars : x.cx.bars = y.cx.bars
  num : x.num = y.num
  ended : x.ended = y.ended

theorem X.Beside.refl (y : X) : y.Beside y := ⟨rfl, rfl, rfl, rfl, rfl, rfl, rfl⟩

theorem X.Beside.trans {x y z : X} (h : x.Beside y) (h' : y.Beside z) : x.Beside z :=
  ⟨h'.k.trans h.k, h'.i.trans h.i, h'.faulted.trans h.faulted, h'.coll.trans h.coll, h'.bars.trans h.bars, h'.num.trans h.num,
    h'.ended.trans h.ended⟩

theorem X.Reads.beside {x y : X} (h : x.Reads y) : x.Beside y := by
  obtain ⟨⟨c, tm, rfl⟩, -⟩ := h
  exact ⟨rfl, rfl, rfl, rfl, rfl, rfl, rfl⟩

theorem X.setS_beside (x : X) (n v : Nat) : x.Beside (x.setS n v) := by constructor <;> simp
theorem X.setP_beside (x : X) (n : Nat) (v : Bool) : x.Beside (x.setP n v) := by constructor <;> simp
theorem X.setD_beside (x : X) (n v : Nat) : x.Beside (x.setD n v) := ⟨rfl, rfl, rfl, rfl, rfl, rfl, rfl⟩
theorem X.setV_beside (x : X) (n : Nat) (l : List Nat) : x.Beside (x.setV n l) := ⟨rfl, rfl, rfl, rfl, rfl, rfl, rfl⟩

/-- The view of an instruction that executes came to be by reading alone. -/
theorem running_reads {s : State} {t : StrandId} {b : Body} {op : Nat} {y : X} (h : running s t b op = some y) :
    ∃ x : X, x.c = s.core ∧ x.Reads y := by
  obtain ⟨x, hx, -, hy, -, -⟩ := running_ok h
  obtain ⟨cx, r, -, -, rfl⟩ := viewOf_ok hx
  exact ⟨_, rfl, fetch_reads hy⟩

/-- Its memory is the state's where errors are few. -/
theorem running_mem {s : State} {t : StrandId} {b : Body} {op : Nat} {y : X} (h : running s t b op = some y) (hf : s.fewErrors) :
    y.c.mem = s.core.mem ∧ y.c.ecc.Few := by
  obtain ⟨x, hx, hr⟩ := running_reads h
  rw [← hx]
  exact hr.mem (hx ▸ hf)

/-- The context and the strand before and after an instruction that writes no memory: its view's registers are the strand's. -/
structure X.Left (y x : X) (s s' : State) (t : StrandId) (cx cx' : Context) (r : Strand) : Prop where
  ctx : lookup s.core.ctxs t.ctx.val = some cx
  ctx' : lookup s'.core.ctxs t.ctx.val = some cx'
  strand : lookup cx.strands t.idx.val = some r
  strand' : lookup cx'.strands t.idx.val = some x.r
  regs : y.r = r
  coll : cx'.coll = cx.coll
  bars : cx'.bars = cx.bars
  num : cx'.num = { cx.num with fpflags := cx.num.fpflags ||| x.flags }
  tile : lookup cx'.tiles t.idx.val = some x.tm
  tile_before : y.tm = (lookup cx.tiles t.idx.val).getD {}

/-- What is left once a view beside that of an instruction that executes is written back. -/
theorem X.Beside.left {s : State} {t : StrandId} {b : Body} {op : Nat} {x y : X} (h : running s t b op = some y) (hb : y.Beside x) :
    (s.leaving t.ctx.val x).core.mem = x.c.mem ∧ ∃ cx cx' r, X.Left y x s (s.leaving t.ctx.val x) t cx cx' r := by
  obtain ⟨cx, r, m, e, u, q, hcx, hst, hlive, -, rfl⟩ := running_view h
  have hf := hb.faulted.trans (Context.faulted_of_live hlive)
  refine ⟨State.leaving_mem hb.k hf, cx, _, r, hcx, State.leaving_ctx hb.k hf, hst, ?_, rfl, hb.coll, hb.bars, ?_, ?_, rfl⟩
  · rw [Context.touch_strands, X.written, hb.ended, hb.i]
    exact (lookup_insertKey ..).trans (if_pos rfl)
  · rw [Context.touch_num, X.written, hb.num]
  · rw [Context.touch_tiles, X.written, hb.i]
    exact (lookup_insertKey ..).trans (if_pos rfl)

theorem X.finish_beside (x : X) : x.Beside x.finish := ⟨rfl, rfl, rfl, rfl, rfl, rfl, rfl⟩

theorem trapView_beside (y : X) (b : Body) (n : NanInfo) (e : Ecc) : y.Beside (trapView y b n e) := ⟨rfl, rfl, rfl, rfl, rfl, rfl, rfl⟩

/-! ### Scalar instructions -/

/-- An entry of a vector register file beside the one set. -/
theorem toList_setIfInBounds_ne {α : Type} {n m i : Nat} (v : Vector α n) (a : α) (h : m ≠ i) :
    (v.setIfInBounds i a).toList[m]? = v.toList[m]? := by
  simp [Vector.toList_setIfInBounds, Ne.symm h]

/-- What SMOVI, BR and the like may change of a strand's registers: a scalar register or a predicate register. -/
structure ScalarStep (op : BitVec 8) (n : Nat) (r r' : Strand) : Prop where
  d : r'.d = r.d
  v : r'.v = r.v
  acks : r'.acks = r.acks
  rank : r'.rank = r.rank
  prefer : op ≠ 0xB0 → r'.prefer = r.prefer
  others : ∀ m, m ≠ n → r'.s.toList[m]? = r.s.toList[m]? ∧ r'.p.toList[m]? = r.p.toList[m]?
  s : op ∈ [0x03, 0x04, 0x05, 0x00, 0x10, 0x12, 0xB0, 0xC4] → r'.s = r.s
  p : op ∉ [0x03, 0x04, 0x05] → r'.p = r.p

/-- An instruction that sets the scalar register that it names. -/
theorem scalarStep_setS {op : BitVec 8} (y : X) (n v : Nat) (h : op ∉ [0x03, 0x04, 0x05, 0x00, 0x10, 0x12, 0xB0, 0xC4]) :
    ScalarStep op n y.r (y.setS n v).r := by
  rw [X.setS_r]
  split
  · exact ⟨rfl, rfl, rfl, rfl, fun _ => rfl, fun _ _ => ⟨rfl, rfl⟩, fun _ => rfl, fun _ => rfl⟩
  · exact ⟨rfl, rfl, rfl, rfl, fun _ => rfl, fun m hm => ⟨toList_setIfInBounds_ne _ _ hm, rfl⟩, fun hop => absurd hop h, fun _ => rfl⟩

/-- An instruction that sets the predicate register that it names. -/
theorem scalarStep_setP {op : BitVec 8} (y : X) (n : Nat) (v : Bool) (h : op ∈ [0x03, 0x04, 0x05]) :
    ScalarStep op n y.r (y.setP n v).r := by
  rw [X.setP_r]
  split
  · exact ⟨rfl, rfl, rfl, rfl, fun _ => rfl, fun _ _ => ⟨rfl, rfl⟩, fun _ => rfl, fun _ => rfl⟩
  · exact ⟨rfl, rfl, rfl, rfl, fun _ => rfl, fun m hm => ⟨rfl, toList_setIfInBounds_ne _ _ hm⟩, fun _ => rfl, fun hop => absurd h hop⟩

/-- An instruction that sets no register. -/
theorem ScalarStep.refl (op : BitVec 8) (n : Nat) (r : Strand) : ScalarStep op n r r :=
  ⟨rfl, rfl, rfl, rfl, fun _ => rfl, fun _ _ => ⟨rfl, rfl⟩, fun _ => rfl, fun _ => rfl⟩

/-- The view that a scalar instruction completes with: registers alone have changed. -/
structure ScalarView (op : BitVec 8) (n : Nat) (y z : X) : Prop where
  beside : y.Beside z
  mem : z.c.mem = y.c.mem
  tm : z.tm = y.tm
  flags : z.flags = y.flags
  regs : ScalarStep op n y.r z.r

theorem scalarView_setS {op : BitVec 8} (y : X) (n v : Nat) (h : op ∉ [0x03, 0x04, 0x05, 0x00, 0x10, 0x12, 0xB0, 0xC4]) :
    ScalarView op n y (y.setS n v) :=
  ⟨y.setS_beside n v, congrArg Core.mem (X.setS_c ..), X.setS_tm .., X.setS_flags .., scalarStep_setS y n v h⟩

theorem scalarView_setP {op : BitVec 8} (y : X) (n : Nat) (v : Bool) (h : op ∈ [0x03, 0x04, 0x05]) :
    ScalarView op n y (y.setP n v) :=
  ⟨y.setP_beside n v, congrArg Core.mem (X.setP_c ..), X.setP_tm .., X.setP_flags .., scalarStep_setP y n v h⟩

theorem ScalarView.refl (op : BitVec 8) (n : Nat) (y : X) : ScalarView op n y y := ⟨.refl y, rfl, rfl, rfl, .refl op n y.r⟩

/-- A jump beside. -/
theorem ScalarView.jump {op : BitVec 8} {n : Nat} {y z : X} (h : ScalarView op n y z) (j : Option Nat) :
    ScalarView op n y { z with jump := j } :=
  ⟨⟨h.beside.k, h.beside.i, h.beside.faulted, h.beside.coll, h.beside.bars, h.beside.num, h.beside.ended⟩, h.mem, h.tm, h.flags, h.regs⟩

/-- Each scalar instruction completes with such a view. -/
theorem exec_scalar {s : State} {t : StrandId} {b : Body} {op : BitVec 8} {c : Instr} {y : X} (hc : insParts c = some (t, op, b))
    (hop : op ∈ [0x00, 0x01, 0x02, 0x03, 0x04, 0x05, 0x06, 0x10, 0x11, 0x12, 0x27, 0x43, 0xB0, 0xC0, 0xC1, 0xC4])
    (h : running s t b op.toNat = some y) :
    ∃ z, exec c s = .next (s.completed t z) ∧ ScalarView op (insOf b).op1 y z := by
  obtain ⟨nop, salu, salui, scmp, scmpi, plog, smovi, ophint, ccnt, caprd, yield⟩ := scalarAndControlInstructionsComplete.1 s t b y
  obtain ⟨br, call, bri, -⟩ := scalarAndControlInstructionsComplete.2 s t b y
  obtain ⟨-, dget, vmovs, -⟩ := movesLoadsAndStoresComplete.2 s t b y
  have hi := instrOf_of_insParts hc
  simp only [List.mem_cons, List.not_mem_nil, or_false] at hop
  rcases hop with rfl | rfl | rfl | rfl | rfl | rfl | rfl | rfl | rfl | rfl | rfl | rfl | rfl | rfl | rfl | rfl <;> cases hi
  · exact ⟨_, nop h, .refl ..⟩
  · exact ⟨_, salu h, scalarView_setS _ _ _ (by decide)⟩
  · exact ⟨_, salui h, scalarView_setS _ _ _ (by decide)⟩
  · exact ⟨_, scmp h, scalarView_setP _ _ _ (by decide)⟩
  · exact ⟨_, scmpi h, scalarView_setP _ _ _ (by decide)⟩
  · exact ⟨_, plog h, scalarView_setP _ _ _ (by decide)⟩
  · exact ⟨_, smovi h, scalarView_setS _ _ _ (by decide)⟩
  · exact ⟨_, br h, (ScalarView.refl ..).jump _⟩
  · exact ⟨_, call h, (scalarView_setS _ _ _ (by decide)).jump _⟩
  · exact ⟨_, bri h, (ScalarView.refl ..).jump _⟩
  · exact ⟨_, vmovs h, scalarView_setS _ _ _ (by decide)⟩
  · exact ⟨_, dget h, scalarView_setS _ _ _ (by decide)⟩
  · exact ⟨_, ophint h, ⟨⟨rfl, rfl, rfl, rfl, rfl, rfl, rfl⟩, rfl, rfl, rfl,
      ⟨rfl, rfl, rfl, rfl, fun hne => absurd rfl hne, fun _ _ => ⟨rfl, rfl⟩, fun _ => rfl, fun _ => rfl⟩⟩⟩
  · obtain ⟨⟨hk, hi, hf, hcl, hbr, hn, he⟩, hm, ht, hfl, hr⟩ :=
      scalarView_setS (op := 0xC0) { y with c := (y.c.readCclk y.die).2 } (insOf b).op1 (y.c.readCclk y.die).1 (by decide)
    exact ⟨_, ccnt h, ⟨hk, hi, hf, hcl, hbr, hn, he⟩, hm, ht, hfl, hr⟩
  · exact ⟨_, caprd h, scalarView_setS _ _ _ (by decide)⟩
  · exact ⟨_, yield h, .refl ..⟩

/-- Settles O23: the view that is written back differs in its registers alone. -/
theorem scalarInstructionsFrame : Obligations.ScalarInstructionsFrame := by
  intro s s' t b op c y hc hop h hs hf
  obtain ⟨z, hz, hb, hmem, htm, hflags, hr⟩ := exec_scalar hc hop h
  obtain rfl : s.completed t z = s' := by
    rw [hz] at hs
    cases hs
    rfl
  obtain ⟨hleft, cx, cx', r, hl⟩ := (hb.trans z.finish_beside).left h
  rw [← State.completed_eq] at hleft hl
  have hyf : y.flags = 0 := by
    obtain ⟨_, _, _, _, _, _, -, -, -, -, rfl⟩ := running_view h
    rfl
  refine ⟨fun a => by rw [hleft, X.finish_c, hmem, (running_mem h hf).1], cx, cx', r, z.finish.r, hl.ctx, hl.ctx', hl.strand, hl.strand', ?_, ?_,
    hl.coll, hl.bars, ?_⟩
  · rw [hl.num, X.finish_flags, hflags, hyf]
    simp
  · rw [hl.tile, X.finish_tm, htm, hl.tile_before]
  · rw [← hl.regs]
    exact ⟨hr.d, hr.v, hr.acks, hr.rank, hr.prefer, hr.others, hr.s, hr.p⟩

end Sys2Proof.Machine
end

section
/-! Frames of the vector instructions that write no memory (R128, R129, R226), whether or not a NaN trap is taken. -/
namespace Sys2Proof.Machine

/-- A view that has only written lanes of vector register `n` and the one after it, and recorded events. -/
structure X.Lanes (n : Nat) (y z : X) : Prop where
  beside : y.Beside z
  mem : z.c.mem = y.c.mem
  tm : z.tm = y.tm
  s : z.r.s = y.r.s
  p : z.r.p = y.r.p
  d : z.r.d = y.r.d
  acks : z.r.acks = y.r.acks
  rank : z.r.rank = y.r.rank
  v : ∀ m, m ≠ n → m ≠ n + 1 → z.r.v.toList[m]? = y.r.v.toList[m]?

theorem X.Lanes.refl (n : Nat) (y : X) : X.Lanes n y y := ⟨.refl y, rfl, rfl, rfl, rfl, rfl, rfl, rfl, fun _ _ _ => rfl⟩

theorem X.Lanes.trans {n : Nat} {x y z : X} (h : X.Lanes n x y) (h' : X.Lanes n y z) : X.Lanes n x z :=
  ⟨h.beside.trans h'.beside, h'.mem.trans h.mem, h'.tm.trans h.tm, h'.s.trans h.s, h'.p.trans h.p, h'.d.trans h.d, h'.acks.trans h.acks,
    h'.rank.trans h.rank, fun m h1 h2 => (h'.v m h1 h2).trans (h.v m h1 h2)⟩

theorem X.Lanes.ite {n : Nat} {p : Prop} [Decidable p] {x y z : X} (hy : X.Lanes n x y) (hz : X.Lanes n x z) :
    X.Lanes n x (if p then y else z) := by
  split
  · exact hy
  · exact hz

theorem X.note_lanes (x : X) (n : Nat) (e : Ev) (loc : NanInfo) : X.Lanes n x (x.note e loc) :=
  ⟨⟨rfl, rfl, rfl, rfl, rfl, rfl, rfl⟩, rfl, rfl, rfl, rfl, rfl, rfl, rfl, fun _ _ _ => rfl⟩

/-- A vector register written is the destination or the one after it. -/
theorem X.setV_lanes (x : X) {n m : Nat} (l : List Nat) (h : m = n ∨ m = n + 1) : X.Lanes n x (x.setV m l) :=
  ⟨x.setV_beside m l, rfl, rfl, rfl, rfl, rfl, rfl, rfl, fun k h1 h2 => toList_setIfInBounds_ne _ _ (by omega)⟩

theorem X.setPair_lanes (x : X) (n : Nat) (l : List Nat) : X.Lanes n x (x.setPair n l) :=
  (x.setV_lanes _ (.inl rfl)).trans (X.setV_lanes _ _ (.inr rfl))

/-- Steps that each write lanes only. -/
theorem X.Lanes.foldl {α : Type} {n : Nat} {f : X → α → X} (h : ∀ x a, X.Lanes n x (f x a)) (l : List α) (x : X) :
    X.Lanes n x (l.foldl f x) :=
  foldl_keeps (P := fun y => X.Lanes n x y) (fun y a hy => hy.trans (h y a)) l x (.refl n x)

theorem X.noteLanes_lanes (x : X) (n : Nat) (sel : Nat → Bool) (rs : List (Nat × Ev)) : X.Lanes n x (x.noteLanes sel rs) :=
  .foldl (fun y _ => .ite (y.note_lanes ..) (.refl n y)) _ x

theorem X.putLanes_lanes (x : X) (n : Nat) (sel : Nat → Bool) (rs : List (Nat × Ev)) : X.Lanes n x (x.putLanes n sel rs) :=
  (x.noteLanes_lanes n sel rs).trans (X.setV_lanes _ _ (.inl rfl))

theorem X.putPairs_lanes (x : X) (n : Nat) (sel : Nat → Bool) (rs : List (Nat × Ev)) : X.Lanes n x (x.putPairs n sel rs) :=
  (x.noteLanes_lanes n sel rs).trans (X.setPair_lanes ..)

theorem X.finish_lanes (x : X) (n : Nat) : X.Lanes n x x.finish :=
  ⟨x.finish_beside, rfl, rfl, rfl, rfl, rfl, rfl, rfl, fun _ _ _ => rfl⟩

theorem trapView_lanes (y : X) (b : Body) (n : Nat) (i : NanInfo) (e : Ecc) : X.Lanes n y (trapView y b i e) :=
  ⟨trapView_beside .., trapView_mem .., rfl, rfl, rfl, rfl, rfl, rfl, fun _ _ _ => rfl⟩

/-- An instruction that computes lanes leaves them written, or, where a NaN trap is taken, the view of before. -/
theorem issue_lanes {s : State} {t : StrandId} {b : Body} {op n : Nat} {y z : X} {f : Body → X → Res X}
    (h : running s t b op = some y) (hf : f b y = .ok z) (hz : X.Lanes n y z) :
    ∃ x, answer (s.issue t b op f) = .next (s.leaving t.ctx.val x) ∧ X.Lanes n y x := by
  by_cases hq : untrapped y z
  · exact ⟨_, issue_completed h hf hq, hz.trans (z.finish_lanes n)⟩
  · obtain ⟨ht, hn⟩ := not_or.1 hq
    obtain ⟨i, hi⟩ := Option.ne_none_iff_exists'.1 hn
    exact ⟨_, issue_trapped h hf (by simpa using ht) hi, trapView_lanes ..⟩

/-- Each vector instruction leaves a view with lanes written. -/
theorem exec_vector {s : State} {t : StrandId} {b : Body} {op : BitVec 8} {c : Instr} {y : X} (hc : insParts c = some (t, op, b))
    (hop : op ∈ [0x20, 0x21, 0x22, 0x23, 0x24, 0x25, 0x26, 0x28, 0x29, 0x2A, 0x2B, 0x78, 0x79, 0x7A])
    (h : running s t b op.toNat = some y) :
    ∃ x, exec c s = .next (s.leaving t.ctx.val x) ∧ X.Lanes (insOf b).op1 y x := by
  have hi := instrOf_of_insParts hc
  have hrun {run : Ins → Unit → Res X} : y.guard b noChk run = run (insOf b) () := guard_run h (chk := noChk) rfl run
  simp only [List.mem_cons, List.not_mem_nil, or_false] at hop
  rcases hop with rfl | rfl | rfl | rfl | rfl | rfl | rfl | rfl | rfl | rfl | rfl | rfl | rfl | rfl <;> cases hi
  · exact issue_lanes h hrun (.ite (y.putLanes_lanes ..) (.ite (y.putPairs_lanes ..) (.ite (y.putLanes_lanes ..) (y.putPairs_lanes ..))))
  · exact issue_lanes h hrun (.ite (y.putLanes_lanes ..) (y.putPairs_lanes ..))
  · exact issue_lanes h hrun (y.putLanes_lanes ..)
  · exact issue_lanes h hrun (y.setV_lanes _ (.inl rfl))
  · exact issue_lanes h hrun ((y.note_lanes ..).trans (.ite (X.setPair_lanes ..) (X.setV_lanes _ _ (.inl rfl))))
  · exact issue_lanes h hrun (y.putLanes_lanes ..)
  · exact issue_lanes h hrun (y.putLanes_lanes ..)
  · exact issue_lanes h hrun (y.putLanes_lanes ..)
  · exact issue_lanes h hrun (y.putLanes_lanes ..)
  · exact issue_lanes h hrun (y.putLanes_lanes ..)
  · exact issue_lanes h hrun (((X.Lanes.foldl (fun x e => x.note_lanes ..) _ y).trans (X.setV_lanes _ _ (.inl rfl))).trans
      (X.setV_lanes _ _ (.inr rfl)))
  · exact issue_lanes h hrun (y.setV_lanes _ (.inl rfl))
  · exact issue_lanes h hrun (y.setV_lanes _ (.inl rfl))
  · exact issue_lanes h hrun (y.putLanes_lanes ..)

/-- Settles O24: completed or trapped, the view that is written back differs in lanes of the destination alone. -/
theorem vectorInstructionsFrame : Obligations.VectorInstructionsFrame := by
  intro s s' t b op c y hc hop h hs hf
  obtain ⟨x, hx, hl⟩ := exec_vector hc hop h
  obtain rfl : s.leaving t.ctx.val x = s' := by
    rw [hx] at hs
    cases hs
    rfl
  obtain ⟨hmem, cx, cx', r, hleft⟩ := hl.beside.left h
  refine ⟨fun a => by rw [hmem, hl.mem, (running_mem h hf).1], cx, cx', r, x.r, hleft.ctx, hleft.ctx', hleft.strand, hleft.strand', ?_,
    hleft.coll, hleft.bars, ?_, ?_⟩
  · rw [hleft.num]
  · rw [hleft.tile, hl.tm, hleft.tile_before]
  · rw [← hleft.regs]
    exact ⟨hl.s, hl.p, hl.d, hl.acks, hl.v⟩

end Sys2Proof.Machine
end

section
/-! Frames of the instructions that read (R127, R130, R131, R141) and of the stores (R102, R127, R131). -/
namespace Sys2Proof.Machine

/-! ### Reads of tensors -/

/-- A step of an instruction that answers, and the step after it. -/
theorem res_bind_eq_ok {α β : Type} {r : Res α} {f : α → Res β} {z : β} : (r >>= f) = .ok z ↔ ∃ a, r = .ok a ∧ f a = .ok z := by
  cases r with
  | ok a =>
    refine ⟨fun h => ⟨a, rfl, h⟩, fun h => ?_⟩
    obtain ⟨a', ha, hz⟩ := h
    cases ha
    exact hz
  | error e =>
    refine ⟨fun h => (nomatch h), fun h => ?_⟩
    obtain ⟨a', ha, -⟩ := h
    cases ha

/-- The base block of a compressed tensor is read. -/
theorem baseBlock_reads {x y : X} {p : Comp} {i : Nat} {bs : List Byte} (h : p.baseBlock x i = .ok (bs, y)) : x.Reads y := by
  unfold Comp.baseBlock at h
  split at h
  · cases h
    exact .refl x
  · obtain ⟨⟨b, x1⟩, hl, h⟩ := res_bind_eq_ok.1 h
    cases h
    exact load_reads hl

/-- A decode request's checks read its metadata. -/
theorem decodeCheck_reads {x y : X} {p : Comp} {i : Nat} {m : List Byte} {g : Option Gen} (h : decodeCheck x p i = .ok (m, g, y)) :
    x.Reads y := by
  unfold decodeCheck at h
  obtain ⟨⟨m', x1⟩, hl, h⟩ := res_bind_eq_ok.1 h
  obtain ⟨-, -, h⟩ := res_bind_eq_ok.1 h
  split at h
  · cases h
    exact load_reads hl
  · obtain ⟨-, -, h⟩ := res_bind_eq_ok.1 h
    obtain ⟨-, -, h⟩ := res_bind_eq_ok.1 h
    cases h
    exact load_reads hl

/-- A check, and then an answer, leave the view. -/
theorem needed_reads {α : Type} {x y : X} {c : Bool} {code : Nat} {det : List Byte} {a a' : α}
    (h : (x.need c code 0 det >>= fun _ => pure (a, x)) = (.ok (a', y) : Res (α × X))) : x.Reads y := by
  obtain ⟨-, -, h⟩ := res_bind_eq_ok.1 h
  cases h
  exact .refl x

/-- A block is decoded by reading. -/
theorem decodeBody_reads {x y : X} {p : Comp} {i : Nat} {m bs : List Byte} {g : Option Gen}
    (h : decodeBody x p i m g = .ok (bs, y)) : x.Reads y := by
  unfold decodeBody at h
  dsimp only at h
  split at h
  · cases h
    exact .refl x
  · obtain ⟨⟨st, x2⟩, hl, h⟩ := res_bind_eq_ok.1 h
    refine (load_reads hl).trans ?_
    dsimp only at h
    split at h
    · obtain ⟨⟨b, x3⟩, hb, h⟩ := res_bind_eq_ok.1 h
      cases hb
      dsimp only at h
      split at h
      · cases h
      · exact needed_reads h
    · obtain ⟨⟨b, x3⟩, hb, h⟩ := res_bind_eq_ok.1 h
      refine (baseBlock_reads hb).trans ?_
      dsimp only at h
      split at h
      · cases h
      · exact needed_reads h

/-- Bytes of a compressed tensor are decoded by reading. -/
theorem compBytes_reads (p : Comp) : ∀ {fuel : Nat} {x y : X} {o n : Nat} {bs : List Byte}, p.bytes fuel x o n = .ok (bs, y) → x.Reads y
  | 0, x, _, _, _, _, h => by
    cases h
    exact .refl x
  | fuel + 1, x, y, o, n, bs, h => by
    rw [Comp.bytes] at h
    split at h
    · cases h
      exact .refl x
    · obtain ⟨⟨blk, x1⟩, hb, h⟩ := res_bind_eq_ok.1 h
      obtain ⟨⟨rest, x2⟩, hr, h⟩ := res_bind_eq_ok.1 h
      obtain ⟨⟨m, g, x0⟩, hc, hb⟩ := res_bind_eq_ok.1 hb
      cases h
      exact ((decodeCheck_reads hc).trans (decodeBody_reads hb)).trans (compBytes_reads p hr)

/-- Bytes of a tensor are read. -/
theorem tensorFetch_reads {x y : X} {t : Td} {o n : Nat} {bs : List Byte} (h : x.fetch t o n = .ok (bs, y)) : x.Reads y := by
  unfold X.fetch at h
  split at h
  · exact compBytes_reads _ h
  · split at h
    · cases h
    · exact load_reads h

theorem rowCodes_reads {x y : X} {t : Td} {r c n : Nat} {cs : List Nat} (h : x.rowCodes t r c n = .ok (cs, y)) : x.Reads y := by
  unfold X.rowCodes at h
  split at h
  · obtain ⟨⟨bs, x1⟩, hf, h⟩ := res_bind_eq_ok.1 h
    cases h
    exact tensorFetch_reads hf
  · cases h
    exact .refl x

theorem scaleCodes_reads {x y : X} {t : Td} {g : Grouping} {r c n : Nat} {cs : List Nat} (h : x.scaleCodes t g r c n = .ok (cs, y)) :
    x.Reads y := by
  unfold X.scaleCodes at h
  split at h
  · cases h
    exact .refl x
  · cases g <;>
    · obtain ⟨⟨bs, x1⟩, hl, h⟩ := res_bind_eq_ok.1 h
      cases h
      exact load_reads hl

theorem scaledRow_reads {x y : X} {t : Td} {g : Grouping} {r c n : Nat} {q : List Nat × List Nat}
    (h : x.scaledRow t g r c n = .ok (q, y)) : x.Reads y := by
  obtain ⟨⟨cs, x1⟩, hc, h⟩ := res_bind_eq_ok.1 h
  obtain ⟨⟨ss, x2⟩, hs, h⟩ := res_bind_eq_ok.1 h
  cases h
  exact (rowCodes_reads hc).trans (scaleCodes_reads hs)

/-- What answers with its accesses checked first answers as it does without. -/
theorem mapFirst_eq_ok {α : Type} {x : X} {f : X → Res α} {a : α} (h : x.mapFirst f = .ok a) : f x = .ok a := by
  unfold X.mapFirst at h
  split at h
  · exact h
  · split at h
    · split at h
      · cases h
      · exact h
    · exact h

theorem rowVals_reads {x y : X} {t : Td} {g : Grouping} {r c n : Nat} {vs : List Val} (h : x.rowVals t g r c n = .ok (vs, y)) :
    x.Reads y := by
  unfold X.rowVals at h
  split at h
  · dsimp only at h
    split at h
    · obtain ⟨⟨q, x1⟩, hq, h⟩ := res_bind_eq_ok.1 h
      cases h
      exact scaledRow_reads hq
    · obtain ⟨⟨q, x1⟩, hq, h⟩ := res_bind_eq_ok.1 h
      cases h
      exact scaledRow_reads (mapFirst_eq_ok hq)
  · obtain ⟨⟨cs, x1⟩, hc, h⟩ := res_bind_eq_ok.1 h
    cases h
    exact rowCodes_reads hc

theorem slotWords_reads {x y : X} {t : Nat} {ws : List Nat} (h : x.slotWords t = .ok (ws, y)) : x.Reads y := by
  obtain ⟨⟨bs, x1⟩, hr, h⟩ := res_bind_eq_ok.1 h
  cases h
  exact tileRead_reads hr

/-! ### Instructions that read -/

/-- What an instruction that reads may change of its strand: the register of the kind that its opcode writes. -/
structure LoadStep (op : BitVec 8) (n : Nat) (r r' : Strand) : Prop where
  p : r'.p = r.p
  acks : r'.acks = r.acks
  rank : r'.rank = r.rank
  s : op ∉ [0x07, 0xC2] → r'.s = r.s
  s_others : ∀ m, m ≠ n → r'.s.toList[m]? = r.s.toList[m]?
  d : op ∉ [0x40, 0x42] → r'.d = r.d
  d_others : ∀ m, m ≠ n → r'.d.toList[m]? = r.d.toList[m]?
  v : op ∉ [0x30, 0x32] → r'.v = r.v
  v_others : ∀ m, m ≠ n → m ≠ n + 1 → r'.v.toList[m]? = r.v.toList[m]?

/-- The view that an instruction that reads completes with. -/
structure LoadView (op : BitVec 8) (n : Nat) (y z : X) : Prop where
  beside : y.Beside z
  mem : y.c.ecc.Few → z.c.mem = y.c.mem
  regs : LoadStep op n y.r z.r

/-- A read keeps the registers. -/
theorem X.Reads.regs {y z : X} (h : y.Reads z) : z.r = y.r := by
  obtain ⟨⟨c, tm, rfl⟩, -, -⟩ := h
  rfl

theorem X.Reads.loadView {y z : X} (h : y.Reads z) (op : BitVec 8) (n : Nat) : LoadView op n y z :=
  ⟨h.beside, fun hf => (h.mem hf).1, by
    rw [h.regs]
    exact ⟨rfl, rfl, rfl, fun _ => rfl, fun _ _ => rfl, fun _ => rfl, fun _ _ => rfl, fun _ => rfl, fun _ _ _ => rfl⟩⟩

/-- A scalar register written after reads. -/
theorem X.Reads.setS_view {op : BitVec 8} {y z : X} (h : y.Reads z) (n v : Nat) (ho : op ∈ [0x07, 0xC2]) :
    LoadView op n y (z.setS n v) := by
  refine ⟨h.beside.trans (z.setS_beside n v), fun hf => (congrArg Core.mem (X.setS_c ..)).trans (h.mem hf).1, ?_⟩
  rw [X.setS_r, h.regs]
  split
  · exact ⟨rfl, rfl, rfl, fun _ => rfl, fun _ _ => rfl, fun _ => rfl, fun _ _ => rfl, fun _ => rfl, fun _ _ _ => rfl⟩
  · exact ⟨rfl, rfl, rfl, fun hn => absurd ho hn, fun m hm => toList_setIfInBounds_ne _ _ hm, fun _ => rfl, fun _ _ => rfl, fun _ => rfl,
      fun _ _ _ => rfl⟩

/-- A descriptor register written after reads. -/
theorem X.Reads.setD_view {op : BitVec 8} {y z : X} (h : y.Reads z) (n v : Nat) (ho : op ∈ [0x40, 0x42]) :
    LoadView op n y (z.setD n v) := by
  refine ⟨h.beside.trans (z.setD_beside n v), fun hf => (h.mem hf).1, ?_⟩
  rw [X.setD_r, h.regs]
  exact ⟨rfl, rfl, rfl, fun _ => rfl, fun _ _ => rfl, fun hn => absurd ho hn, fun m hm => toList_setIfInBounds_ne _ _ hm, fun _ => rfl,
    fun _ _ _ => rfl⟩

/-- Lanes written after reads. -/
theorem X.Reads.lanes_view {op : BitVec 8} {n : Nat} {y w z : X} (h : y.Reads w) (hl : X.Lanes n w z) (ho : op ∈ [0x30, 0x32]) :
    LoadView op n y z := by
  refine ⟨h.beside.trans hl.beside, fun hf => hl.mem.trans (h.mem hf).1, ?_⟩
  rw [← h.regs]
  exact ⟨hl.p, hl.acks, hl.rank, fun _ => hl.s, fun m _ => by rw [hl.s], fun _ => hl.d, fun m _ => by rw [hl.d], fun hn => absurd ho hn, hl.v⟩

/-- VLD's view. -/
theorem vldRun_view {y z : X} {i : Ins} {d : Td} (h : vldRun y i d = .ok z) : LoadView 0x30 i.op1 y z := by
  unfold vldRun at h
  dsimp only at h
  split at h
  · obtain ⟨⟨cs, w⟩, hc, h⟩ := res_bind_eq_ok.1 h
    cases h
    exact (rowCodes_reads hc).lanes_view (.ite (w.putPairs_lanes ..) (w.putLanes_lanes ..)) (by decide)
  · obtain ⟨⟨vs, w⟩, hv, h⟩ := res_bind_eq_ok.1 h
    cases h
    exact (rowVals_reads hv).lanes_view (w.putLanes_lanes ..) (by decide)

/-- RGRD's view. -/
theorem rgrdRun_view {y z : X} {i : Ins} (h : rgrdRun y i () = .ok z) : LoadView 0xC2 i.op1 y z := by
  unfold rgrdRun at h
  obtain ⟨-, -, h⟩ := res_bind_eq_ok.1 h
  split at h <;> cases h <;> exact (X.Reads.refl y).setS_view _ _ (by decide)

/-- A guard that answers for an instruction that executes: its checks pass and its effect answers. -/
theorem guard_ok_of_running {α : Type} {s : State} {t : StrandId} {b : Body} {op : Nat} {y z : X} (h : running s t b op = some y)
    {chk : Ins → Res α} {run : Ins → α → Res X} (hz : y.guard b chk run = .ok z) : ∃ a, chk (insOf b) = .ok a ∧ run (insOf b) a = .ok z := by
  obtain ⟨-, -, hz'⟩ := res_bind_eq_ok.1 hz
  obtain ⟨a, ha, -⟩ := res_bind_eq_ok.1 hz'
  exact ⟨a, ha, (guard_run h ha run).symm.trans hz⟩

/-- Each instruction that reads completes with such a view. -/
theorem opFn_load {s : State} {t : StrandId} {b : Body} {op : BitVec 8} {y z : X}
    (hop : op ∈ [0x07, 0x30, 0x32, 0x40, 0x42, 0xA5, 0xC2]) (h : running s t b op.toNat = some y) (hz : opFn op.toNat b y = .ok z) :
    LoadView op (insOf b).op1 y z := by
  simp only [List.mem_cons, List.not_mem_nil, or_false] at hop
  rcases hop with rfl | rfl | rfl | rfl | rfl | rfl | rfl
  · replace hz : sldFn b y = .ok z := hz
    obtain ⟨_, -, hz⟩ := guard_ok_of_running h (chk := noChk) hz
    obtain ⟨⟨bs, w⟩, hl, hz⟩ := res_bind_eq_ok.1 hz
    cases hz
    exact (load_reads hl).setS_view _ _ (by decide)
  · obtain ⟨d, -, hz⟩ := guard_ok_of_running h hz
    exact vldRun_view hz
  · replace hz : vtrdFn b y = .ok z := hz
    obtain ⟨_, -, hz⟩ := guard_ok_of_running h (chk := noChk) hz
    obtain ⟨-, -, hz⟩ := res_bind_eq_ok.1 hz
    obtain ⟨⟨ws, w⟩, hw, hz⟩ := res_bind_eq_ok.1 hz
    cases hz
    exact (slotWords_reads hw).lanes_view (w.setV_lanes _ (.inl rfl)) (by decide)
  · replace hz : dldFn b y = .ok z := hz
    obtain ⟨_, -, hz⟩ := guard_ok_of_running h hz
    obtain ⟨⟨bs, w⟩, hl, hz⟩ := res_bind_eq_ok.1 hz
    cases hz
    exact (load_reads hl).setD_view _ _ (by decide)
  · replace hz : dsetFn b y = .ok z := hz
    obtain ⟨_, -, hz⟩ := guard_ok_of_running h (chk := noChk) hz
    cases hz
    exact (X.Reads.refl y).setD_view _ _ (by decide)
  · replace hz : fenceFn b y = .ok z := hz
    obtain ⟨_, -, hz⟩ := guard_ok_of_running h (chk := noChk) hz
    split at hz
    · cases hz
      exact (X.Reads.refl y).loadView _ _
    · cases hz
  · obtain ⟨_, -, hz⟩ := guard_ok_of_running h (chk := noChk) hz
    exact rgrdRun_view hz

/-- Settles O60: what is read comes into one register, and a read leaves memory as it was where errors are few. -/
theorem loadsFrame : Obligations.LoadsFrame := by
  intro s s' t b op c y z hc hop h hz hq hs hf
  have hv := opFn_load hop h hz
  have hne : op.toNat ≠ 0x13 := toNat_ne_end (by rintro rfl; revert hop; decide)
  obtain rfl : s.completed t z = s' := by
    rw [exec_of_insParts s hc hne, issue_completed h hz hq] at hs
    cases hs
    rfl
  obtain ⟨hmem, cx, cx', r, hl⟩ := (hv.beside.trans z.finish_beside).left h
  rw [← State.completed_eq] at hmem hl
  obtain ⟨hy, hfew⟩ := running_mem h hf
  refine ⟨fun a => by rw [hmem, X.finish_c, hv.mem hfew, hy], cx, cx', r, z.finish.r, hl.ctx, hl.ctx', hl.strand, hl.strand', ?_, hl.coll,
    hl.bars, ?_⟩
  · rw [hl.num]
  · rw [← hl.regs]
    obtain ⟨hp, ha, hr, hss, hso, hd, hdo, hvv, hvo⟩ := hv.regs
    exact ⟨hp, ha, hr, hss, hso, hd, hdo, hvv, hvo⟩

/-! ### Stores -/

/-- A memory with some bytes of a range written again reads as before outside the range. -/
theorem write_part_outside {m m' : Mem} {a n lo hi x : Nat} (ha : a ≤ lo) (hn : hi ≤ a + n) (hx : x < a ∨ a + n ≤ x) :
    (m.write lo (m'.read lo (hi - lo))).get x = m.get x := by
  refine Mem.get_write_outside ?_
  simp only [Mem.read_eq, span, List.length_map, List.length_range]
  omega

/-- A store leaves every byte outside its range, where errors are few (R263). -/
theorem storeRange_outside {sp : Space} {m : Mem} {e : Ecc} {a x : Nat} {bs : List Byte} (he : e.Few)
    (hx : x < a ∨ a + bs.length ≤ x) : (storeRange sp m e a bs).1.get x = m.get x := by
  have hw : (e.wrote sp a bs.length).Few := by
    unfold Ecc.wrote
    split
    · exact he
    · exact he
  unfold storeRange
  dsimp only
  split
  · exact Mem.get_write_outside hx
  · refine foldl_keeps (P := fun mm : Mem => mm.get x = m.get x) (fun mm w hm => ?_) _ _ ((Mem.get_write_outside hx).trans ?_)
    · exact (write_part_outside (Nat.le_max_left ..) (Nat.min_le_left ..) hx).trans hm
    · refine congrArg (Mem.get · x) (foldl_keeps (P := fun r : Mem × Ecc × List Nat => r.1 = m ∧ r.2.1.Few) (fun r w hr => ?_) _ _
        ⟨rfl, fun p hp => hw p (List.mem_filter.1 hp).1⟩).1
      obtain ⟨rfl, hf⟩ := hr
      split
      · exact ⟨rfl, hf⟩
      · split
        · exact ⟨rfl, hf⟩
        · split
          · exact ⟨rfl, hf⟩
          · exact scanWord_few hf

/-- A store where no word is damaged writes its bytes (R263). -/
theorem storeRange_clean {sp : Space} {m : Mem} {e : Ecc} {a : Nat} {bs : List Byte} (h : e.Clean) :
    (storeRange sp m e a bs).1 = m.write a bs := by
  have hw : (e.wrote sp a bs.length).Clean := by
    unfold Ecc.wrote
    split
    · exact h
    · exact h
  simp only [storeRange, errWords_clean hw, List.isEmpty_nil, if_true]

/-- What a store to this module leaves: memory with its bytes stored, and the strand. -/
theorem store_here_view {y z : X} {a o : Nat} {bs : List Byte} (hh : y.here a = true) (h : y.store a bs o = .ok z) :
    y.Beside z ∧ z.r = y.r ∧ z.c.mem = if bs.isEmpty then y.c.mem else (y.c.store (localOf a) bs).mem := by
  rw [store_here hh h]
  split
  · exact ⟨.refl y, rfl, rfl⟩
  · obtain ⟨u, q, e⟩ := used_eq { y with c := y.c.store (localOf a) bs } (localOf a) bs.length
    rw [e]
    exact ⟨⟨rfl, rfl, rfl, rfl, rfl, rfl, rfl⟩, rfl, rfl⟩

/-- The forms of a store that the frame speaks of complete with their store. -/
theorem exec_store {s : State} {t : StrandId} {b : Body} {y z : X} {c : Instr} {a : Nat} {bs : List Byte}
    (h : (c = .sst t b ∧ running s t b 0x08 = some y ∧ a = (y.s (insOf b).op2 + (insOf b).imm) % 2 ^ 64 ∧
        bs = leBytes (sstSize (insOf b).func) (y.s (insOf b).op3)) ∨
      (c = .dst t b ∧ running s t b 0x41 = some y ∧ a = dAddr y (insOf b) ∧ a % 64 = 0 ∧ bs = leBytes 64 (y.d (insOf b).op3)) ∨
      (c = .fset t b ∧ running s t b 0xA0 = some y ∧ a = y.s (insOf b).op2 ∧ y.flagChk a true = .ok () ∧
        y.released (bit (insOf b).func 0) = .ok () ∧ bs = leBytes 8 (y.s (insOf b).op3)))
    (hh : y.here a = true) (hz : y.store a bs 2 = .ok z) : (∃ op, running s t b op = some y) ∧ exec c s = .next (s.completed t z) := by
  rcases h with ⟨rfl, h, rfl, rfl⟩ | ⟨rfl, h, rfl, ha, rfl⟩ | ⟨rfl, h, rfl, hc, hr, rfl⟩
  · exact ⟨⟨_, h⟩, exec_sst h hz⟩
  · exact ⟨⟨_, h⟩, exec_dst h ha hz⟩
  · exact ⟨⟨_, h⟩, effect_completed h (fsetRun_here hc hr hh hz) (.inr ((store_nan hz).trans (running_nan h)))⟩

/-- Settles O25: what is written back is the view with its bytes stored. -/
theorem storesChangeOnlyTheirBytes : Obligations.StoresChangeOnlyTheirBytes := by
  intro s s' t b y z c a bs hform hh hz hs hf
  obtain ⟨⟨op, h⟩, hex⟩ := exec_store hform hh hz
  obtain rfl : s.completed t z = s' := by
    rw [hex] at hs
    cases hs
    rfl
  obtain ⟨hb, hregs, hmem⟩ := store_here_view hh hz
  obtain ⟨hleft, cx, cx', r, hl⟩ := (hb.trans z.finish_beside).left h
  rw [← State.completed_eq] at hleft hl
  obtain ⟨hy, hfew⟩ := running_mem h hf
  refine ⟨fun x hx => ?_, fun hn => ?_, r, z.finish.r, ?_, ?_, ?_⟩
  · rw [hleft, X.finish_c, hmem, ← hy]
    split
    · rfl
    · exact storeRange_outside hfew hx
  · obtain ⟨x, hx, hr⟩ := running_reads h
    have hclean : y.c.ecc.Clean := hr.clean (hx ▸ hn)
    rw [hleft, X.finish_c, hmem]
    split
    · next he =>
      rw [List.isEmpty_iff.1 he, Mem.read_eq]
      rfl
    · rw [show (y.c.store (localOf a) bs).mem = y.c.mem.write (localOf a) bs from storeRange_clean hclean, Mem.read_write]
  · simp only [Core.strand, hl.ctx, Option.bind_some, hl.strand]
  · simp only [Core.strand, hl.ctx', Option.bind_some, hl.strand']
  · rw [← hl.regs, X.finish_r, hregs]
    exact ⟨rfl, rfl, rfl, rfl, rfl⟩

end Sys2Proof.Machine
end

section
/-! The ends of waits, barriers and collectives, NaN trap records, and the events of samplers and of the Sieve (R58 to R60, R102 to R107,
R148 to R154, R230 to R232, R244 to R251, R280 to R285). -/
namespace Sys2Proof.Machine

/-! ### Waits -/

/-- A strand that waits is a strand of a context. -/
theorem waitOf_some {c : Core} {k i : Nat} {w : Wait} (h : c.waitOf k i = some w) :
    ∃ cx r, lookup c.ctxs k = some cx ∧ lookup cx.strands i = some r ∧ r.held.map Held.wait = some w := by
  unfold Core.waitOf Core.strand at h
  cases hc : lookup c.ctxs k with
  | none =>
    rw [hc] at h
    cases h
  | some cx =>
    rw [hc, Option.bind_some] at h
    cases hr : lookup cx.strands i with
    | none =>
      rw [hr] at h
      cases h
    | some r =>
      rw [hr, Option.bind_some] at h
      exact ⟨cx, r, rfl, hr, h⟩

/-- A change of a strand that keeps its wait. -/
theorem waitOf_modStrand {c : Core} {k i : Nat} {w : Wait} {f : Strand → Strand} (hf : ∀ r, (f r).held = r.held)
    (h : c.waitOf k i = some w) : (c.modStrand k i f).waitOf k i = some w := by
  obtain ⟨cx, r, hc, hr, hw⟩ := waitOf_some h
  simp only [Core.waitOf, Core.strand, Core.modStrand, hc, hr, Core.setCtx, lookup_insertKey, if_true, Option.bind_some, hf, hw]

/-- A strand that waits for what an event says is taken up again. -/
theorem State.resumeIf_eq {s : State} {t : StrandId} {w : Wait} {f : Wait → Bool} (h : s.core.waitOf t.ctx.val t.idx.val = some w)
    (hf : f w = true) : s.resumeIf t f = s.resumeStrand t.ctx.val t.idx.val := by
  simp only [State.resumeIf, h, hf, if_true]

/-- PANEL_ARRIVAL gives the strand its bytes and takes it up again (R148). -/
theorem exec_panelArrival {s : State} {t : StrandId} {a n : Nat} {data : List Byte}
    (h : s.core.waitOf t.ctx.val t.idx.val = some (.panels a n)) (hn : data.length = n) :
    exec (.panelArrival t data) s = .next (((s.onCore fun c =>
      { c.modStrand t.ctx.val t.idx.val fun r => { r with arrived := addArrived r.arrived a data, stalled := false } with
        reqs := c.reqs.filter fun q => !q.serves t.ctx.val t.idx.val (.panels a n) }).resumeStrand t.ctx.val t.idx.val).settle) := by
  refine congrArg (fun s' => Host.Outcome.next (State.settle s')) ?_
  rw [h]
  dsimp only
  rw [if_pos hn]
  refine State.resumeIf_eq (w := .panels a n) ?_ rfl
  exact waitOf_modStrand (f := fun r => { r with arrived := addArrived r.arrived a data, stalled := false }) (fun _ => rfl) h

/-- Settles O26: each event looks for its own kind of wait. -/
theorem waitEndsTakeTheInstructionUp : Obligations.WaitEndsTakeTheInstructionUp := by
  have resume {s s' : State} (h : s = s') : answer s = .next s'.settle := congrArg answer h
  refine fun s t => ⟨fun a n data => exec_panelArrival, fun a v h => resume (State.resumeIf_eq h rfl),
    fun a v h => resume (State.resumeIf_eq h rfl), fun a m v h => resume (State.resumeIf_eq h rfl),
    fun obj h => resume (State.resumeIf_eq h ?_), fun h => resume (State.resumeIf_eq h rfl), fun j h => resume (State.resumeIf_eq h rfl)⟩
  exact beq_self_eq_true _

/-- Settles O27: the view of a strand that holds an instruction is its own, and the instruction's meaning is run on it. -/
theorem resumedInstructionsComplete : Obligations.ResumedInstructionsComplete := by
  intro s k i cx r h z hcx hr hh hl hm hz hq
  have hcore : resumeCore (s.envOf k) opFn k i s.core = z.finish.commit := by
    simp only [resumeCore, viewOf, hcx, hr, hh, hl, hm, Bool.and_self, if_true, hz]
    simp only [settle]
    rcases hq with ht | hn
    · rw [ht]
      cases z.nan <;> rfl
    · rw [hn]
  simp only [State.resumeStrand, State.onCore, hcore]

/-! ### Barriers, collectives and NaN trap records -/

/-- A barrier after a release: the one its strand has named and reached, when it is full, is released. -/
theorem Context.releaseBar_bars {cx : Context} {r : Strand} {scope num n : Nat} {q : Bar} (h : cx.bars[n]? = some q) :
    (cx.releaseBar r scope num).bars[n]? =
      some (if q.names r scope num && q.arrived.contains r.rank && cx.full q then { q with fin := some 0 } else q) := by
  simp only [Context.releaseBar, List.getElem?_map, h, Option.map_some]

/-- Settles O28: each event finds the context and what it ends there. -/
theorem barrierAndCollectiveEndsComplete : Obligations.BarrierAndCollectiveEndsComplete := by
  refine ⟨fun s t cx r scope num hcx hr hw => ⟨?_, fun n q hq => ⟨_, Context.releaseBar_bars hq, fun hn ha hf => ?_, fun hf => ?_, ?_⟩⟩,
    fun s t peers cx hcx hl ho hops => ?_, fun s k cx tr hcx htr => ?_⟩
  · simp only [exec, execBarrierComplete, hcx, hr, hw, answer]
  · rw [if_pos (by simp [hn, ha, hf])]
  · rw [if_neg (by simp [hf])]
  · split <;> rfl
  · simp only [exec, execCollectiveComplete, hcx, hl, ho, hops, Bool.and_self, if_true, answer]
  · simp only [exec, execNanTrapRecord, State.onCore, Core.nanTrap, hcx, htr, answer]

/-! ### Samplers -/

/-- A telemetry event leaves the compute side but for counters read and the outbox. -/
theorem State.telEvent_core (s : State) (e : Nat) (d : List Byte) : (s.telEvent e d).core.kept = s.core.kept :=
  congrArg (·.2.1) (s.telEvent_kept e d)

/-- A sampler changed, alone of the samplers, and memory kept. -/
theorem State.sampler_core (s : State) (d : Nat) (f : Sampler → Sampler) :
    (s.sampler d f).core.samplers = s.core.samplers.setIfInBounds d (f (s.core.samplers.toList.getD d {})) ∧
      (s.sampler d f).core.mem = s.core.mem := by
  unfold State.sampler
  extract_lets old s1 new
  have h1 : s1.core.samplers = s.core.samplers.setIfInBounds d (f (s.core.samplers.toList.getD d {})) ∧ s1.core.mem = s.core.mem :=
    ⟨rfl, rfl⟩
  clear_value s1
  split
  · exact h1
  · have hk := s1.telEvent_core 2 (leBytes 1 d ++ leBytes 1 old ++ leBytes 1 new)
    exact ⟨(congrArg Core.samplers hk).trans h1.1, (congrArg Core.mem hk).trans h1.2⟩

/-- A change of a strand leaves samplers and memory. -/
theorem modStrand_mem (c : Core) (k i : Nat) (f : Strand → Strand) : (c.modStrand k i f).mem = c.mem := by
  unfold Core.modStrand
  split
  · rfl
  · split <;> rfl

theorem toGumbel_mem (c : Core) (d : Nat) : (c.toGumbel d).mem = c.mem := by
  unfold Core.toGumbel
  exact foldl_same Core.mem _ (fun c (q : Nat × Nat) => modStrand_mem c q.1 q.2 _) _ c

/-- The sampler of a state that an event leaves. -/
theorem answer_sampler {s : State} {d : Nat} {f : Sampler → Sampler} : ∃ s', answer (s.sampler d f) = .next s' ∧
    s'.core.samplers = s.core.samplers.setIfInBounds d (f (s.core.samplers.toList.getD d {})) ∧ s'.core.mem = s.core.mem :=
  ⟨_, rfl, (State.settle_samplers _).trans (s.sampler_core d f).1, (State.settle_mem _).trans (s.sampler_core d f).2⟩

/-! ### Decode requests -/

/-- Once a request has been delivered, the requests after it are left. -/
theorem delivered_rest (env : Nat → Env) (l : List DecodeReq) (c : Core) :
    l.foldl (fun (a : Core × Bool) q => if a.2 then a else decodeEnd (env q.ctx) a.1 q) (c, true) = (c, true) := by
  induction l with
  | nil => rfl
  | cons q l ih => exact ih

/-- Settles O29: a sampler event changes its sampler; a decode request's accesses are those of its strand's view. -/
theorem samplerAndDecodeEventsComplete : Obligations.SamplerAndDecodeEventsComplete := by
  refine ⟨fun s d pass => ⟨fun h => ?_, fun t b h => ?_, fun h => ?_, fun h => ?_⟩,
    fun s t d n x y td p m q => ⟨fun hx hl hm hd hp hn => ?_, fun gen hb hx hl hc => ?_, fun rest bs hr he hx hl hb => ?_, fun die => rfl⟩⟩
  · obtain ⟨s', hs, hsamp, hmem⟩ := answer_sampler (s := s.onCore fun c => c.toGumbel d.val) (d := d.val) (f := samplerFault)
    refine ⟨s', ?_, hsamp, hmem.trans (toGumbel_mem ..)⟩
    rw [← hs]
    exact congrArg answer (if_pos h)
  · exact congrArg answer (if_pos h)
  · obtain ⟨s', hs, hsamp, hmem⟩ := answer_sampler (s := s) (d := d.val) (f := selftestEnd pass)
    exact ⟨s', (congrArg answer (if_pos h)).trans hs, hsamp, hmem⟩
  · obtain ⟨s', hs, hsamp, hmem⟩ := answer_sampler (s := s) (d := d.val) (f := selftestEnd pass)
    exact ⟨s', (congrArg answer (if_pos h)).trans hs, hsamp, hmem⟩
  · have hcore : decodeAccept s.envOf t.ctx.val t.idx.val d.val n s.core = decodesTry s.envOf { s.core with
        decodes := s.core.decodes ++ [{ num := s.core.nextTag, ctx := t.ctx.val, strand := t.idx.val, pair := p, index := n }]
        nextTag := s.core.tagAt 1 } := by
      simp only [decodeAccept, hx, hl, hm, Bool.and_self, not_true_eq_false, if_false, hd, hp, if_neg (Nat.not_le.2 hn)]
    simp only [exec, execDecodeRequestAccept, State.onCore, hcore, answer]
  · simp only [decodeTry, if_neg (Nat.not_le.2 hb), hx, hl, not_true_eq_false, if_false, hc] <;> rfl
  · have hend : decodeEnd (s.envOf q.ctx) s.core q = (y.c.dropDecode q, true) := by
      simp only [decodeEnd, he, hx, hl, not_true_eq_false, if_false, hb]
    have hcore : blockDelivered s.envOf s.core = decodesTry s.envOf (y.c.dropDecode q) := by
      simp only [blockDelivered, hr, List.foldl_cons, Bool.false_eq_true, if_false, hend, delivered_rest]
    simp only [exec, execBlockDelivered, State.onCore, hcore, answer]

end Sys2Proof.Machine
end

section
/-! Tier 1: what a reset leaves, and words written out from the encoding. -/
namespace Sys2Proof.Machine

/-- The instruction of a word whose opcode is known. -/
theorem decodeIns_opcode {t : StrandId} {w : BitVec 128} (n : Nat) (h : (w.extractLsb' 0 8).toNat = n) :
    decodeIns t w = instrOf t (w.extractLsb' 8 120) n := by subst h; rfl

/-- An encoding check that answers a value passes. -/
theorem encCheck_ok {op : Nat} {i : Ins} (h : (encCheck op i).toOption.isSome = true) : encCheck op i = .ok () := by
  cases he : encCheck op i with
  | ok u => rfl
  | error f => rw [he] at h; cases h

/-- Settles O54: each word is decoded and its fields read out. -/
theorem wordsDecode : Obligations.WordsDecode := by
  intro t
  refine ⟨decodeIns_opcode 0 (by decide +kernel), ⟨_, decodeIns_opcode 1 (by decide +kernel), encCheck_ok (by decide +kernel), by decide +kernel, by decide +kernel, by decide +kernel, by decide +kernel, by decide +kernel⟩,
    ⟨_, decodeIns_opcode 0x06 (by decide +kernel), encCheck_ok (by decide +kernel), by decide +kernel, by decide +kernel, by decide +kernel, by decide +kernel⟩,
    ⟨_, decodeIns_opcode 0x10 (by decide +kernel), encCheck_ok (by decide +kernel), by decide +kernel⟩,
    ⟨_, decodeIns_opcode 0x20 (by decide +kernel), encCheck_ok (by decide +kernel), by decide +kernel, by decide +kernel, by decide +kernel⟩,
    ⟨_, decodeIns_opcode 0x40 (by decide +kernel), encCheck_ok (by decide +kernel), by decide +kernel, by decide +kernel⟩,
    ⟨_, decodeIns_opcode 0x51 (by decide +kernel), encCheck_ok (by decide +kernel), by decide +kernel, by decide +kernel, by decide +kernel, by decide +kernel, by decide +kernel, by decide +kernel⟩,
    ⟨_, decodeIns_opcode 0x60 (by decide +kernel), encCheck_ok (by decide +kernel), by decide +kernel, by decide +kernel⟩,
    ⟨_, decodeIns_opcode 0xA4 (by decide +kernel), by decide +kernel, by decide +kernel⟩,
    decodeIns_opcode 0x09 (by decide +kernel), decodeIns_opcode 0x64 (by decide +kernel), decodeIns_opcode 0xFF (by decide +kernel)⟩

/-- Settles O50: every value is read off the reset state, unit by unit. -/
theorem resetHoldsItsValues : Obligations.ResetHoldsItsValues := by
  refine ⟨by decide, by decide, by decide, by decide, by decide, by decide, by decide, by decide, by decide, by decide, by decide, rfl, rfl, rfl,
    rfl, rfl, rfl, State.reset_memWf, ?_⟩
  unfold State.powerOrder State.tripSafe
  decide

end Sys2Proof.Machine
end

section
/-! Requests of other modules served, and responses taken (R102, R278). -/
namespace Sys2Proof.Machine

/-- Equal states end their command alike. -/
theorem settle_congr {a b : State} (h : a = b) : (Host.Outcome.next a.settle : Host.Outcome State Fault Refusal) = .next b.settle := by
  rw [h]

/-- A read where no word is damaged gives memory's bytes and changes nothing. -/
theorem State.readMem_clean {s : State} (h : s.noErrors) (a n : Nat) (remote : Bool) :
    s.readMem a n remote = (s, .ok (s.core.mem.read a n)) := by
  unfold State.readMem
  rw [scanRange_clean h]
  rfl

/-- A request taken is served. -/
theorem exec_remoteAccess {s : State} {p : Packet} {rest : List Packet} (h : takePacket Packet.request s.nym.mine = some (p, rest)) :
    exec .remoteAccessReceived s = .next ((s.onNym fun n => { n with mine := rest }).serve p).settle := by
  show execRemoteAccessReceived s = _
  unfold execRemoteAccessReceived
  rw [h]
  rfl

theorem State.serve_write {s : State} {p : Packet} (ho : p.opc = 2) (hc : s.remoteCheck p p.data.length true = 0) :
    s.serve p = (s.onCore fun c => c.store p.addr p.data).respond p 3 0 [] := by
  simp [State.serve, ho, hc]

theorem State.serve_refused {s : State} {p : Packet} (ho : p.opc = 2) (hc : s.remoteCheck p p.data.length true ≠ 0) :
    s.serve p = s.refusePacket p (s.remoteCheck p p.data.length true) := by
  simp [State.serve, ho, hc]

/-- A read of up to one packet's bytes is answered by one packet. -/
theorem State.serve_read {s : State} {p : Packet} (ho : p.opc = 1) (hc : s.remoteCheck p (fld p.data 0 4) false = 0)
    (hm : fld p.data 0 4 ≤ 4096) (hp : 0 < fld p.data 0 4) (he : s.noErrors) :
    s.serve p = s.respond p 4 0 (slice (s.core.mem.read p.addr (fld p.data 0 4)) 0 (fld p.data 0 4)) p.addr := by
  have h1 : ceilDiv (fld p.data 0 4) 4096 = 1 := by unfold ceilDiv; omega
  simp [State.serve, ho, hc, State.remoteRead, State.readMem_clean he, h1, hm]

theorem State.remoteFlag_set {s : State} {p : Packet} (ha : flagAddr p.addr = true) (hk : fld p.data 0 8 = 6)
    (hc : s.remoteCheck p 8 true = 0) :
    s.remoteFlag p = (s.onCore fun c => c.store p.addr (leBytes 8 p.arg)).respond p 3 0 [] := by
  simp [State.remoteFlag, ha, hk, hc]

theorem State.remoteFlag_add {s : State} {p : Packet} (ha : flagAddr p.addr = true) (hk : fld p.data 0 8 = 4)
    (hc : s.remoteCheck p 8 true = 0) (he : s.noErrors) :
    s.remoteFlag p = (s.onCore fun c => c.store p.addr (leBytes 8 (ofLE (s.core.mem.read p.addr 8) + p.arg))).respond p 6
      (ofLE (s.core.mem.read p.addr 8)) [] := by
  simp [State.remoteFlag, ha, hk, hc, State.remoteRead, State.readMem_clean he]

/-- A comparison that does not hold yet is parked. -/
theorem State.remoteFlag_park {s : State} {p : Packet} (ha : flagAddr p.addr = true) (hk : fld p.data 0 8 < 4)
    (hc : s.remoteCheck p 8 false = 0) (he : s.noErrors)
    (hf : flagCmp (fld p.data 0 8) (ofLE (s.core.mem.read p.addr 8)) p.arg = false) :
    s.remoteFlag p = s.onNym fun n => { n with parked := n.parked ++ [p] } := by
  unfold State.remoteFlag
  generalize fld p.data 0 8 = kind at hk hf
  have h4 : decide (4 ≤ kind) = false := decide_eq_false (by omega)
  have h6 : kind ≠ 6 := by omega
  simp only [ha, h4, hc, h6, State.remoteRead, State.readMem_clean he]
  obtain rfl | rfl | rfl | rfl : kind = 0 ∨ kind = 1 ∨ kind = 2 ∨ kind = 3 := by omega
  · simp [hf]
  · simp [hf]
  · simp [hf]
  · simp [hf]

/-- A response to a strand that still runs the instruction. -/
theorem State.strandResponse_there {s : State} {k i : Nat} {r : Strand} (hr : s.core.strand k i = some r) (q : Req) (p : Packet) :
    let upd := fun (f : Strand → Strand) =>
      ((s.onCore fun c => c.spend k p.spart 3 p.data.length).onCore fun c => c.modStrand k i fun q => { f q with stalled := false }).wakeCtx k
    (p.opc = 3 → s.strandResponse k i r.launch r.rank q p = upd fun q => { q with acks := q.acks - 1 }) ∧
    (p.opc = 4 → s.strandResponse k i r.launch r.rank q p =
      upd fun q => { q with arrived := addArrived q.arrived (p.src * 2 ^ 48 + p.addr) p.data }) ∧
    (p.opc = 6 → s.strandResponse k i r.launch r.rank q p =
      upd fun q => { q with arrived := addArrived q.arrived (p.src * 2 ^ 48 + p.addr) (leBytes 8 p.arg) }) := by
  have ht : (s.core.strand k i).any (fun q => q.launch == r.launch && q.rank == r.rank) = true := by simp [hr]
  intro upd
  refine ⟨fun h => ?_, fun h => ?_, fun h => ?_⟩
  all_goals
    unfold State.strandResponse
    rw [ht]
    simp only [h, if_true]
    rfl

/-- A response taken goes to the request it answers. -/
theorem exec_remoteResponse {s : State} {p : Packet} {rest : List Packet} (h : takePacket (fun q => !q.request) s.nym.mine = some (p, rest)) :
    exec .remoteResponseReceived s = .next ((s.onNym fun n => { n with mine := rest }).response p).settle := by
  show execRemoteResponseReceived s = _
  unfold execRemoteResponseReceived
  rw [h]
  rfl

theorem State.response_none {s : State} {p : Packet} (h : s.core.reqs.find? (fun q => q.tag == p.tag && q.dest == p.src) = none) :
    s.response p = s := by
  unfold State.response
  rw [h]

theorem State.response_strand {s : State} {p : Packet} {q : Req} {k i launch rank : Nat}
    (h : s.core.reqs.find? (fun q => q.tag == p.tag && q.dest == p.src) = some q) (hw : q.who = .strand k i launch rank) :
    s.response p = (s.onCore fun c => c.answer q p).strandResponse k i launch rank q p := by
  unfold State.response
  rw [h]
  simp only [hw]

/-- Requests answered leave the strands. -/
theorem Core.answer_strand (c : Core) (q : Req) (p : Packet) (k i : Nat) : (c.answer q p).strand k i = c.strand k i := by
  unfold Core.answer
  split <;> rfl

/-- A parked comparison that holds is answered. -/
theorem exec_remoteFwaitAnswer {s : State} {p : Packet} {n : Nat} (hp : s.nym.parked[n]? = some p) (he : s.noErrors)
    (hf : flagCmp (fld p.data 0 8) (ofLE (s.core.mem.read p.addr 8)) p.arg = true) :
    exec (.remoteFwaitAnswer n) s = .next ((s.onNym fun m => { m with parked := m.parked.eraseIdx n }).respond p 6
      (ofLE (s.core.mem.read p.addr 8)) []).settle := by
  show execRemoteFwaitAnswer n s = _
  unfold execRemoteFwaitAnswer
  rw [hp]
  simp only [State.remoteRead, State.readMem_clean he, hf, if_true]
  rfl

/-- Settles O30: the kind of a request and its partition's permission pick what the target answers. -/
theorem remoteAccessesAreServed : Obligations.RemoteAccessesAreServed := by
  refine ⟨fun s p rest h => ?_, fun s p rest r q k i => ⟨fun h => ?_, fun n => exec_remoteFwaitAnswer⟩⟩
  · have hrun := exec_remoteAccess h
    intro s0
    refine ⟨fun ho hc => ?_, fun ho hc => ?_, fun ho hc hm hp he => ?_, fun ho ha hk hc => ?_, fun ho ha hk hc he => ?_,
      fun ho ha hk hc he hf => ?_⟩
    · exact hrun.trans (settle_congr (State.serve_write ho hc))
    · exact hrun.trans (settle_congr (State.serve_refused ho hc))
    · exact hrun.trans (settle_congr (State.serve_read ho hc hm hp he))
    all_goals have hs : s0.serve p = s0.remoteFlag p := if_pos ho
    · exact hrun.trans (settle_congr (hs.trans (State.remoteFlag_set ha hk hc)))
    · exact hrun.trans (settle_congr (hs.trans (State.remoteFlag_add ha hk hc he)))
    · exact hrun.trans (settle_congr (hs.trans (State.remoteFlag_park ha hk hc he hf)))
  · have hrun := exec_remoteResponse h
    intro s0
    refine ⟨fun hn => hrun.trans (settle_congr (State.response_none hn)), fun hq hw hr => ?_⟩
    have hresp : s0.response p = _ := State.response_strand hq hw
    obtain ⟨h3, h4, h6⟩ := State.strandResponse_there (s := s0.onCore fun c => c.answer q p)
      ((Core.answer_strand s0.core q p k i).trans hr) q p
    exact ⟨fun ho => hrun.trans (settle_congr (hresp.trans (h3 ho))), fun ho => hrun.trans (settle_congr (hresp.trans (h4 ho))),
      fun ho => hrun.trans (settle_congr (hresp.trans (h6 ho)))⟩

end Sys2Proof.Machine
end

section
/-! Links: what the end of a command leaves of them, and their events (R268 to R272). -/
namespace Sys2Proof.Machine

/-! ### What sending leaves of a link -/

/-- A link's service: its state, its direction, and what its peer has said of itself. -/
def Link.service (k : Link) : Nat × Nat × Nat × Nat × Nat × List Nat := (k.state, k.dir, k.peerDev, k.peerLevel, k.peerLink, k.peerEpochs)

/-- The services of the links. -/
def Nym.services (n : Nym) (l : Nat) : Nat × Nat × Nat × Nat × Nat × List Nat := (n.link l).service

theorem Nym.modLink_same {n : Nym} {l : Nat} {f : Link → Link} (h : l < 24) : (n.modLink l f).link l = f (n.link l) := by
  simp [Nym.link, Nym.modLink, Vector.toList_setIfInBounds, h]

theorem Nym.modLink_other {n : Nym} {l m : Nat} {f : Link → Link} (h : m ≠ l) : (n.modLink l f).link m = n.link m := by
  simp [Nym.link, Nym.modLink, Vector.toList_setIfInBounds, List.getD, Ne.symm h]

theorem Nym.modLink_out {n : Nym} {l m : Nat} {f : Link → Link} (h : ¬ l < 24) : (n.modLink l f).link m = n.link m := by
  simp [Nym.link, Nym.modLink, Vector.toList_setIfInBounds, List.getD, List.set_eq_of_length_le (l := n.links.toList) (i := l) (by simpa using h)]

/-- A change that leaves a link's service leaves all services. -/
theorem Nym.modLink_services {n : Nym} {l : Nat} {f : Link → Link} (h : ∀ k, (f k).service = k.service) : (n.modLink l f).services = n.services := by
  funext m
  unfold Nym.services
  by_cases hl : l < 24
  · by_cases hm : m = l
    · subst hm
      rw [Nym.modLink_same hl, h]
    · rw [Nym.modLink_other hm]
  · rw [Nym.modLink_out hl]

theorem State.send_services (s : State) (o : Out) : (s.send o).nym.services = s.nym.services := rfl

theorem State.credit_services (s : State) (l v n : Nat) : (s.credit l v n).nym.services = s.nym.services := by
  unfold State.credit
  dsimp only
  split
  · rfl
  · split
    · exact Nym.modLink_services fun _ => rfl
    · rfl

theorem Link.sendAll_service (ws kept : List Wflit) (k : Link) : (Link.sendAll ws kept k).1.service = k.service := by
  induction ws generalizing kept k with
  | nil => rfl
  | cons w ws ih =>
    unfold Link.sendAll
    split
    · exact ih _ _
    · exact ih _ _

theorem State.drain_services (s : State) (l : Nat) : (s.drain l).nym.services = s.nym.services := by
  unfold State.drain
  dsimp only
  rw [foldl_same (fun a : State => a.nym.services) _ (fun a o => State.credit_services a _ _ _),
    foldl_same (fun a : State => a.nym.services) _ (fun a f => State.send_services a _)]
  funext m
  by_cases hm : m = l
  · subst hm
    by_cases hl : m < 24
    · exact (congrArg Link.service (Nym.modLink_same hl)).trans (Link.sendAll_service _ _ _)
    · exact congrArg Link.service (Nym.modLink_out hl)
  · exact congrArg Link.service (Nym.modLink_other hm)

theorem State.inject_services (s : State) (l v : Nat) (p : Packet) (o : Option (Nat × List Nat)) :
    (s.inject l v p o).nym.services = s.nym.services := by
  unfold State.inject
  exact (State.drain_services _ _).trans (Nym.modLink_services fun _ => rfl)

theorem State.pump_services (s : State) : s.pump.nym.services = s.nym.services := by
  unfold State.pump
  exact foldr_same (fun a : State => a.nym.services) _ (fun q a => State.inject_services a _ _ _ _) _ _

/-! ### Lantern's services leave Nymhel -/

theorem State.request_nym (s : State) (qp : Nat) (o : Out) (b : List Byte) : (s.request qp o b).nym = s.nym := by
  show (s.wireQp qp o).nym = s.nym
  unfold State.wireQp State.wire
  dsimp only
  split <;> rfl

theorem State.telFlush_nym (s : State) : s.telFlush.nym = s.nym := by
  unfold State.telFlush
  split
  · exact foldl_same State.nym _ (fun a b => State.request_nym a _ _ _) _ _
  · rfl

theorem State.telEvent_nym (s : State) (e : Nat) (d : List Byte) : (s.telEvent e d).nym = s.nym := by
  unfold State.telEvent
  split
  · rfl
  · exact State.telFlush_nym _

theorem State.noticeUE_nym (s : State) (u : Nat × Nat) : (s.noticeUE u).nym = s.nym := by
  unfold State.noticeUE State.platform
  split
  · exact State.telEvent_nym _ _ _
  · exact State.telEvent_nym _ _ _

theorem State.answerDone_nym (s : State) (d : Done) : (s.answerDone d).nym = s.nym := by
  unfold State.answerDone
  dsimp only
  split <;> rfl

theorem State.settle_services (s : State) : s.settle.nym.services = s.nym.services := by
  unfold State.settle
  refine (State.pump_services _).trans (congrArg Nym.services ?_)
  exact (foldl_same State.nym _ State.answerDone_nym _ _).trans (foldl_same State.nym _ State.noticeUE_nym _ _)

/-! ### Events -/

/-- A link that is set to a state has that state, and the rest of its service. -/
theorem State.linkState_link {s : State} {l st : Nat} (h : l < 24) :
    ((s.linkState l st).nym.link l) = { s.nym.link l with state := st } := by
  have h1 : (s.onNym (fun n => n.modLink l (fun k => { k with state := st }))).nym.link l = { s.nym.link l with state := st } :=
    Nym.modLink_same h
  unfold State.linkState
  dsimp only
  split
  · exact h1
  · rw [State.telEvent_nym, h1]

/-- What a command's end does not touch holds main memory. -/
theorem mem_of_kept {a b : State} (h : a.kept = b.kept) : a.core.mem = b.core.mem := (congrArg (fun p => p.2.1.mem) h :)

theorem State.linkState_mem (s : State) (l st : Nat) : (s.linkState l st).core.mem = s.core.mem := by
  unfold State.linkState
  dsimp only
  split
  · rfl
  · exact mem_of_kept (State.telEvent_kept _ _ _)

/-- LINK_TRAINED sends again what the peer has not acknowledged, and what is owed to it. -/
def State.sendOwed (s : State) (l : Nat) : State :=
  let s3 := (s.nym.link l).buf.foldl (fun (a : State) f => a.send (.flit l f.2.2)) s
  ((s3.nym.link l).owed.foldl (fun (a : State) o => a.credit l o.1 o.2)
      (s3.onNym (fun n => n.modLink l (fun k => { k with owed := [] })))).drain l

/-- Flits sent change the outbox alone. -/
theorem sendFlits_nym (s : State) (l : Nat) (b : List (Nat × Nat × List Byte)) :
    (b.foldl (fun (a : State) f => a.send (.flit l f.2.2)) s).nym = s.nym := by
  induction b generalizing s with
  | nil => rfl
  | cons f b ih => exact ih _

theorem sendFlits_kept (s : State) (l : Nat) (b : List (Nat × Nat × List Byte)) :
    (b.foldl (fun (a : State) f => a.send (.flit l f.2.2)) s).kept = s.kept :=
  foldl_same State.kept _ (fun a _ => State.send_kept a _) b s

theorem State.sendOwed_services (s : State) (l : Nat) : (s.sendOwed l).nym.services = s.nym.services := by
  unfold State.sendOwed
  extract_lets s3
  have h : s3.nym = s.nym := sendFlits_nym s l _
  clear_value s3
  have ho : (s3.onNym fun n => n.modLink l fun k => { k with owed := [] }).nym.services = s3.nym.services := Nym.modLink_services fun _ => rfl
  rw [State.drain_services, foldl_same (fun a : State => a.nym.services) _ (fun a o => State.credit_services a _ _ _), ho, h]

theorem State.sendOwed_mem (s : State) (l : Nat) : (s.sendOwed l).core.mem = s.core.mem := by
  have h : (s.sendOwed l).kept = s.kept := by
    unfold State.sendOwed
    extract_lets s3
    have h : s3.kept = s.kept := sendFlits_kept s l _
    clear_value s3
    have ho : (s3.onNym fun n => n.modLink l fun k => { k with owed := [] }).kept = s3.kept := rfl
    rw [State.drain_kept, foldl_same State.kept _ (fun a o => State.credit_kept a _ _ _), ho, h]
  exact mem_of_kept h

/-- What a peer says of itself, with the direction it gives the link. -/
def Nym.heard (n : Nym) (l dev level : Nat) (peer : PeerLink) (dir : Nat) : Nym := n.modLink l fun k =>
  { k with peerDev := dev % 65536, peerLevel := level % 256, peerLink := peer.link % 32, tries := 0
           peerEpochs := peer.epochs.map (· % 65536), dir := dir }

/-- A link that trains with another module enters service. -/
theorem exec_linkTrained {s : State} {link : Fin 24} {dev level : Nat} {peer : PeerLink} (h : (s.nym.link link.val).state = 1) (hd : dev ≠ s.nym.devnum) :
    exec (.linkTrained link dev level peer) s = .next ((((s.onNym fun n => n.heard link.val dev level peer
      (if level < s.nym.level ∨ (level = s.nym.level ∧ dev < s.nym.devnum) then 1 else 2)).linkState link.val 2).sendOwed link.val)).settle := by
  show execLinkTrained link dev level peer s = _
  unfold execLinkTrained
  simp only [h, hd, ne_eq, not_true, if_false]
  rfl

/-- A link that trains with this module itself is refused. -/
theorem exec_linkTrained_own {s : State} {link : Fin 24} {dev level : Nat} {peer : PeerLink} (h : (s.nym.link link.val).state = 1)
    (hd : dev = s.nym.devnum) :
    exec (.linkTrained link dev level peer) s = .next ((s.onNym fun n => n.heard link.val dev level peer 0).linkState link.val 3).settle := by
  show execLinkTrained link dev level peer s = _
  unfold execLinkTrained
  simp only [h, hd, ne_eq, not_true, if_false, if_true]
  rfl

/-- A flit whose form is good. -/
structure GoodFlit (f : List Byte) : Prop where
  len : f.length = 256
  crc : crc32 (slice f 0 252) = fld f 252 4
  vc : fld f 0 1 ≤ 4
  kind : fld f 1 1 = 1 ∨ fld f 1 1 = 2

/-- What a good flit with a body does to a link in service. -/
theorem exec_flitReceived {s : State} {link : Fin 24} {f : List Byte} (h : (s.nym.link link.val).state = 2) (g : GoodFlit f) :
    exec (.flitReceived link f false) s = answer (
      if fld f 2 2 ≠ ((s.nym.link link.val).rxSeq + 1) % 65536 then s else
      let s1 := (s.onNym fun n => n.modLink link.val fun k =>
        { (k.acked f).take (fld f 0 1) (fld f 1 1) (slice f 8 240) with rxSeq := fld f 2 2 }).gather link.val
      (s1.send (.flit link.val (flitBytes 0 0 (s1.nym.link link.val).txSeq (s1.nym.link link.val).rxSeq 0xFF 0 []))).drain link.val) := by
  obtain ⟨hl, hc, hv, hk⟩ := g
  show execFlitReceived link f false s = _
  unfold execFlitReceived
  have hbad : ¬ (false = true ∨ f.length ≠ 256 ∨ crc32 (slice f 0 252) ≠ fld f 252 4 ∨ 4 < fld f 0 1 ∨ 3 < fld f 1 1) := by
    rintro (h | h | h | h | h)
    · cases h
    · exact h hl
    · exact h hc
    · omega
    · omega
  have h3 : fld f 1 1 ≠ 3 := by omega
  have h0 : fld f 1 1 ≠ 0 := by omega
  simp only [h, ne_eq, not_true, if_false, hbad, h3, h0]

theorem exec_escapeMove {s : State} {link : Fin 24} {i : Nat} (h : (s.nym.link link.val).waiting.findIdx? (fun w =>
      w.vc < 3 && (s.nym.link link.val).credits.getD w.vc 0 == 0) = some i) :
    exec (.escapeMove link) s = .next ((s.onNym fun n => n.modLink link.val fun k =>
      { k with waiting := k.waiting.modify i fun w => { w with vc := 4 } }).drain link.val).settle := by
  show execEscapeMove link s = _
  unfold execEscapeMove
  dsimp only
  rw [h]
  rfl

/-- Settles O31: each event changes one link, and the flits it lets go are sent through the credit that is left. -/
theorem linkEventsComplete : Obligations.LinkEventsComplete := by
  intro s link l k
  refine ⟨fun dev level peer h hd => exec_linkTrained_own h hd, fun dev level peer h hd => ?_, fun f h => ?_,
    fun f h hl hc hv hk hs => ?_, fun f h hl hc hv hk hs => ?_, fun seq h => congrArg answer (if_pos h), fun h ht => congrArg answer (if_pos ⟨h, ht⟩),
    fun i h => ?_⟩
  · refine ⟨_, exec_linkTrained h hd, ?_⟩
    generalize (if level < s.nym.level ∨ (level = s.nym.level ∧ dev < s.nym.devnum) then 1 else 2) = dir
    let s1 := s.onNym fun n => n.heard link.val dev level peer dir
    have hv : ((s1.linkState l 2).sendOwed l).settle.nym.services l =
        (2, dir, dev % 65536, level % 256, peer.link % 32, peer.epochs.map (· % 65536)) := by
      rw [State.settle_services, State.sendOwed_services]
      refine (congrArg Link.service (State.linkState_link link.isLt)).trans ?_
      rw [show s1.nym.link link.val = _ from Nym.modLink_same link.isLt]
      rfl
    simp only [Nym.services, Link.service, Prod.mk.injEq] at hv
    obtain ⟨h1, h2, h3, h4, h5, h6⟩ := hv
    refine ⟨h1, h3, h4, h5, h6, ?_, h2⟩
    rw [State.settle_mem, State.sendOwed_mem, State.linkState_mem]
    rfl
  · refine congrArg answer ?_
    rw [if_neg (not_not_intro h), if_pos (.inl rfl)]
  · rw [exec_flitReceived h ⟨hl, hc, hv, hk⟩, if_pos hs]
    rfl
  · rw [exec_flitReceived h ⟨hl, hc, hv, hk⟩, if_neg (not_not_intro hs)]
    rfl
  · exact exec_escapeMove h

end Sys2Proof.Machine
end

section
/-! Packets that move on, routing checks, and members of collectives (R273 to R276, R285, R288). -/
namespace Sys2Proof.Machine

/-! ### Packets -/

/-- A packet that is in order moves on, where its way is known. -/
def State.pass (s : State) (p : Packet) (l : Nat) (vcs : List Nat) : State :=
  match s.wayByBank p with
  | some w => s.moveOn p l vcs w
  | none => s.onNym fun n => { n with heldPkts := n.heldPkts ++ [{ pkt := p, link := l, vcs := vcs, stalled := false }] }

/-- A malformed packet is counted, its buffers are freed, and a request among them is refused. -/
theorem exec_packetReceived_malformed {s : State} {l : Nat} {vcs : List Nat} {b : List Byte} {rest : List (Nat × List Nat × List Byte)}
    (hh : s.nym.heldPkts.find? (fun h => (s.wayOf h).isSome) = none) (hi : s.nym.inbox = (l, vcs, b) :: rest)
    (hb : packetOpc (packetOf b).opc = false ∨ fld b 0xE 2 ≠ 0 ∨ 4096 < fld b 0xC 2) :
    exec .packetReceived s = answer (
      let s2 := ((s.onNym fun n => { n with inbox := rest }).onNym fun n =>
        n.modLink l fun k => { k with proterr := satInc k.proterr 0xFF }).creditAll l vcs
      if (packetOf b).request then s2.refusePacket (packetOf b) 0x0704 else s2) := by
  have hb' : ¬ packetOpc (packetOf b).opc = true ∨ fld b 0xE 2 ≠ 0 ∨ 4096 < fld b 0xC 2 := by rwa [Bool.not_eq_true]
  show execPacketReceived s = _
  unfold execPacketReceived
  rw [hh, hi]
  dsimp only
  rw [if_pos hb']

/-- A packet in order passes. -/
theorem exec_packetReceived_pass {s : State} {l : Nat} {vcs : List Nat} {b : List Byte} {rest : List (Nat × List Nat × List Byte)}
    (hh : s.nym.heldPkts.find? (fun h => (s.wayOf h).isSome) = none) (hi : s.nym.inbox = (l, vcs, b) :: rest)
    (ho : packetOpc (packetOf b).opc = true) (he : fld b 0xE 2 = 0) (hc : fld b 0xC 2 ≤ 4096) (hv : (packetOf b).opc ≠ 0x22) :
    exec .packetReceived s = answer ((s.onNym fun n => { n with inbox := rest }).pass (packetOf b) l vcs) := by
  have hb : ¬ (¬ packetOpc (packetOf b).opc = true ∨ fld b 0xE 2 ≠ 0 ∨ 4096 < fld b 0xC 2) := by
    simp only [ho, he, not_true, ne_eq, false_or, Nat.not_lt]
    exact hc
  show execPacketReceived s = _
  unfold execPacketReceived
  rw [hh, hi]
  dsimp only
  rw [if_neg hb, if_neg hv]
  rfl

/-! ### Routing checks -/

theorem exec_tableVector {s : State} {link : Fin 24} {v : TableVec} (h : (s.nym.link link.val).state = 2) :
    exec (.tableVectorReceived link v) s = answer (
      let s1 := s.onNym fun n => { n with vectors := insertKey link.val v n.vectors }
      match s.nym.bankOf v.epoch with
      | some b => if v.reply then s1 else s1.sendVector link.val b true
      | none => s1) := by
  show execTableVectorReceived link v s = _
  unfold execTableVectorReceived
  exact congrArg answer (if_neg (not_not_intro h))

/-- The check ends once every named link that is up has answered. -/
theorem exec_routingCheck {s : State} {b : Bank} (hp : s.nym.pstate = 1) (hb : s.nym.pendingBank = some b)
    (hl : (b.linksOf.any fun l => (s.nym.link l).state == 2 && (s.nym.vectorOf l b.epoch).isNone) = false) :
    exec .routingCheckComplete s = answer (match b.entries.find? (fun e => !s.nym.entryOk b.epoch e) with
      | some e => s.onNym fun n => n.checkFailed e.1
      | none => s.onNym fun n => { n with pstate := 2 }) := by
  show execRoutingCheckComplete s = _
  unfold execRoutingCheckComplete
  simp only [hp, hb, hl, Bool.false_eq_true, if_false] <;> rfl

theorem exec_vectorTimeout {s : State} {link : Fin 24} {b : Bank} {e : Nat × Nat × Nat} (hp : s.nym.pstate = 1)
    (hb : s.nym.pendingBank = some b) (he : b.entries.find? (fun e => e.2.1 == link.val) = some e) (hv : s.nym.vectorOf link.val b.epoch = none) :
    exec (.routingVectorTimeout link) s = .next (s.onNym fun n => { n with pstate := 3, failDest := e.1 }).settle := by
  show execRoutingVectorTimeout link s = _
  unfold execRoutingVectorTimeout
  simp only [hp, hb, he, hv, Option.isNone_none, if_true]
  rfl

/-- Settles O32: a packet's form, its epoch and its way by the banks tell the cases apart; a check ends at its first failing entry. -/
theorem packetsAndRoutingChecksComplete : Obligations.PacketsAndRoutingChecksComplete := by
  refine ⟨fun s l vcs b rest hh hi => ⟨fun hb => exec_packetReceived_malformed hh hi hb, fun w ho he hc hv hw => ?_, fun ho he hc hv hw => ?_⟩,
    fun s link v b => ⟨fun h => ⟨fun hr => ?_, fun hr hb => ?_⟩, fun hp hb hl ha => ?_, fun e hp hb hl he => ?_, fun e => exec_vectorTimeout⟩⟩
  · refine (exec_packetReceived_pass hh hi ho he hc hv).trans (congrArg answer ?_)
    unfold State.pass
    rw [hw]
  · refine (exec_packetReceived_pass hh hi ho he hc hv).trans (congrArg answer ?_)
    unfold State.pass
    rw [hw]
  · refine (exec_tableVector h).trans (congrArg answer ?_)
    cases hb : s.nym.bankOf v.epoch with
    | none => rfl
    | some b => exact if_pos (hr.resolve_right (by rw [hb]; exact Option.some_ne_none b))
  · refine (exec_tableVector h).trans (congrArg answer ?_)
    simp only [hb, hr, Bool.false_eq_true, if_false]
  · have hn : b.entries.find? (fun e => !s.nym.entryOk b.epoch e) = none := by
      simpa using List.all_eq_true.1 ha
    refine (exec_routingCheck hp hb hl).trans (congrArg answer ?_)
    rw [hn]
  · refine (exec_routingCheck hp hb hl).trans (congrArg answer ?_)
    rw [he]
    rfl

/-! ### Members -/

/-- What an operation's members are sent while it is in flight (R285). -/
def State.keepalive (s : State) (k : Nat) (cx : Context) (a : State) (m : Nat × Nat) : State :=
  if m.1 = s.nym.devnum then a else
  match s.routeAny m.1 with
  | some l => a.send (.packet l { dest := m.1, src := s.nym.devnum, epoch := s.epoch, opc := 0x20, spart := cx.part, tag := k, addr := m.2,
                                   arg := 0, data := [] })
  | none => a

theorem exec_keepalive {s : State} {k : Fin 1024} {cx : Context} (h : lookup s.core.ctxs k.val = some cx) (hf : cx.inFlight = true) :
    exec (.keepalive k) s = .next (cx.coll.members.foldl (s.keepalive k.val cx) s).settle := by
  show execKeepalive k s = _
  unfold execKeepalive
  rw [h]
  dsimp only
  rw [if_pos hf]
  rfl

theorem exec_memberLost {s : State} {k : Fin 1024} {cx : Context} {rank : Nat} {code : Fin 6} (h : lookup s.core.ctxs k.val = some cx)
    (hf : cx.inFlight = true) (hr : rank < cx.coll.members.length) (hc : code = 1 ∨ code = 2 ∨ code = 5) :
    exec (.memberLost k rank code) s =
      .next ((s.abortAll k.val (statusWord code.val (if code = 2 then noRank else rank))).wakeAll).settle := by
  show execMemberLost k rank code s = _
  unfold execMemberLost
  rw [h]
  exact congrArg answer (if_pos ⟨hf, hr, hc⟩)

theorem exec_abortReceived {s : State} {k : Fin 1024} {cx : Context} {status : W64} (h : lookup s.core.ctxs k.val = some cx)
    (hs : status.toNat % 2 ^ 16 ≠ 0) (hf : cx.inFlight = true) :
    exec (.abortReceived k status) s = .next ((s.onCore fun c => c.abortCtx k.val status.toNat).wakeAll).settle := by
  refine congrArg answer (if_pos ⟨hs, ?_⟩)
  rw [h]
  exact hf

theorem exec_transferStalled {s : State} {k : Fin 1024} {cx : Context} {i : Fin 128} {r : Strand} {d : Nat}
    (h : lookup s.core.ctxs k.val = some cx) (hr : s.core.strand k.val i.val = some r) (hn : r.stalled = false)
    (hc : cx.coll.ops.any (fun q => q.strand == i.val && q.fin.isNone) = false) (hd : s.transferOf r = some d) :
    exec (.transferStalled ⟨k, i⟩) s =
      .next ((s.onCore fun c => c.modStrand k.val i.val fun r => { r with stalled := true }).reportStall d).settle := by
  have hq : cx.coll.ops.any (fun q => q.strand == i.val && q.fin.isNone && q.stalled) = false := by
    rw [List.any_eq_false] at hc ⊢
    intro q hq hs
    exact hc q hq (Bool.and_eq_true_iff.1 hs).1
  show execTransferStalled ⟨k, i⟩ s = _
  unfold execTransferStalled
  dsimp only
  rw [h, hr]
  dsimp only
  rw [if_neg (by rw [hn, hq]; decide), if_neg (by rw [hc]; decide), hd]
  rfl

/-- Settles O33: what every member is told is a fold over the context's members, and what ends is what is in flight. -/
theorem memberEventsComplete : Obligations.MemberEventsComplete := by
  intro s k cx h
  refine ⟨exec_keepalive h, fun rank code hf hr hc => ?_, fun rank hf hr => ?_, fun status hs hf => exec_abortReceived h hs hf,
    fun i r d hr hn hc hd => exec_transferStalled h hr hn hc hd⟩
  · have h2 : code ≠ 2 := by rcases hc with rfl | rfl <;> decide
    refine (exec_memberLost h hf hr (hc.elim .inl fun h => .inr (.inr h))).trans ?_
    rw [if_neg h2]
  · exact exec_memberLost h hf hr (.inr (.inl rfl))

end Sys2Proof.Machine
end

section
/-! Commands of hosts on registers, packs, contexts and bindings (R304, R305, R315, R317, R325). -/
namespace Sys2Proof.Machine

/-- A command that has its turn and answers at once, as its instruction. -/
theorem answer_now {s : State} {h : HostCmd} {opc : Nat} {ctx : Option Nat} {run : State → State × Fin'} {s1 : State}
    {st res src : Nat} {det ex : List Byte} (a : s.admits h opc ctx) (e : run (s.turn h) = (s1, .now st res src det ex)) :
    answer (s.command h opc ctx run) = .next (s1.complete h opc st res src det (ctx.getD h.ctx) ex).settle :=
  congrArg answer (State.command_now a e)

/-- A command that has its turn and answers later, as its instruction. -/
theorem answer_later {s : State} {h : HostCmd} {opc : Nat} {ctx : Option Nat} {run : State → State × Fin'} {s1 : State}
    (a : s.admits h opc ctx) (e : run (s.turn h) = (s1, .later)) : answer (s.command h opc ctx run) = .next s1.settle :=
  congrArg answer (State.command_later a e)

/-- A condition on a Boolean that is true does not fail. -/
theorem not_not_true {b : Bool} (h : b = true) : ¬ ¬ b = true := not_not_intro h

/-! ### Registers, modes and rations -/

theorem State.readAt_reg {s : State} {p : Path} {a : Nat} {r : Reg} (h : regAt a = some r) (c : s.accessCheck p a 8 false = 0) :
    s.readAt p a 8 = (0, [], s.regRead r, s) := by
  unfold State.readAt
  simp only [regAt_mgmt h, c, ne_eq, not_true, if_false, h, Option.map_some, Option.getD_some]

/-- A register write by a command, as the code it is answered with. -/
theorem State.writeAt_accepted {s : State} {p : Path} {a v : Nat} {r : Reg} (h : regAt a = some r)
    (c : s.accessCheck p a 8 true = 0) (k : s.regCheck r v = 0) :
    s.writeAt (s.srcOf p) p a 8 v = (0, (s.logged p a r v).regApply r v) := by
  rw [State.writeAt_reg h, State.regWrite_ok h c k]

theorem State.writeAt_refused {s : State} {p : Path} {a v : Nat} {r : Reg} (h : regAt a = some r)
    (c : s.accessCheck p a 8 true = 0) (k : s.regCheck r v ≠ 0) :
    s.writeAt (s.srcOf p) p a 8 v =
      (s.regCheck r v, s.journal (s.srcOf p) { kind := 1, code := s.regCheck r v, addr := a, old := s.regRead r, new := v }) := by
  rw [State.writeAt_reg h]
  unfold State.regWrite
  simp only [h, c, k, ne_eq, not_true, if_false]

theorem exec_regrd {s : State} {h : HostCmd} {r : Reg} (a : s.admits h 0x02 none) (hz : h.zero 8 40 = true) (hb : h.arg 0 8 < 2 ^ 48)
    (hr : regAt (h.arg 0 8) = some r) (hc : (s.turn h).accessCheck h.path (h.arg 0 8) 8 false = 0) :
    exec (.regrd h) s = .next ((s.turn h).complete h 0x02 0 ((s.turn h).regRead r)).settle := by
  refine answer_now a ?_
  dsimp only
  rw [if_neg (not_not_true hz), if_neg (Nat.not_le.2 hb), State.readAt_reg hr hc, if_pos rfl]

theorem exec_regwr {s : State} {h : HostCmd} {q : Nat × State} (a : s.admits h 0x03 none) (hz : h.zero 16 32 = true)
    (hb : h.arg 0 8 < 2 ^ 48) (hw : (s.turn h).writeAt ((s.turn h).srcOf h.path) h.path (h.arg 0 8) 8 (h.arg 8 8) = q) :
    exec (.regwr h) s = .next (q.2.complete h 0x03 q.1 0).settle := by
  refine answer_now a ?_
  dsimp only
  rw [if_neg (not_not_true hz), if_neg (Nat.not_le.2 hb), hw]

theorem exec_partitionMode {s : State} {h : HostCmd} (a : s.admits h 0x22 none) (h0 : h.arg 0 1 ≤ 7) (h1 : h.arg 1 1 ≤ 1)
    (hz : h.zero 2 46 = true) : exec (.partitionMode h) s =
      .next (((s.turn h).onCore fun c => { c with pmode := setBits c.pmode (h.arg 0 1) 1 (h.arg 1 1) }).complete h 0x22 0 0).settle := by
  refine answer_now a (if_neg ?_)
  rintro (hq | hq | hq)
  · omega
  · omega
  · exact hq hz

theorem exec_rationSet {s s1 : State} {h : HostCmd} {img : List Byte} (a : s.admits h 0x21 none) (hz : h.zero 8 40 = true)
    (hf : (s.turn h).fetch 0xFF (h.arg 0 8) 128 = (s1, .ok img)) : exec (.rationSet h) s = .next (if s1.rationFault img ≠ 0 then
      s1.complete h 0x21 (s1.rationFault img) 0 else (s1.onCore fun c => { c with nextRation := some img }).complete h 0x21 0 0).settle := by
  by_cases hr : s1.rationFault img = 0
  · rw [if_neg (not_not_intro hr)]
    refine answer_now a ?_
    dsimp only
    rw [if_neg (not_not_true hz), hf]
    exact if_neg (not_not_intro hr)
  · rw [if_pos hr]
    refine answer_now a ?_
    dsimp only
    rw [if_neg (not_not_true hz), hf]
    exact if_pos hr

/-- Settles O34: a command that has its turn runs its own function, which the register's or the ration's check decides. -/
theorem hostRegisterCommandsComplete : Obligations.HostRegisterCommandsComplete := by
  intro s h s0 a
  refine ⟨fun ha hz => answer_now ha (if_pos hz), fun r ha hz hb hr hc => exec_regrd ha hz hb hr hc, fun r ha hz hb hr hc hk => ?_,
    fun r code ha hz hb hr hc hk hn => ?_, fun ha hz hb => answer_now ha ?_,
    fun ha hz hb => answer_now ha ?_, fun ha h0 h1 hz => exec_partitionMode ha h0 h1 hz, fun s1 img ha hz hf hr => ?_, fun s1 img ha hz hf hr => ?_⟩
  · have hrun := exec_regwr ha hz hb (State.writeAt_accepted hr hc hk)
    exact hrun
  · subst hk
    have hrun := exec_regwr ha hz hb (State.writeAt_refused hr hc hn)
    exact hrun
  · exact (if_neg (not_not_true hz)).trans (if_pos hb)
  · exact (if_neg (not_not_true hz)).trans (if_pos hb)
  · refine (exec_rationSet ha hz hf).trans (settle_congr (if_neg (not_not_intro hr)))
  · refine (exec_rationSet ha hz hf).trans (settle_congr (if_pos hr))

end Sys2Proof.Machine
end

section
/-! Commands on packs and contexts (R85, R115, R144, R317, R318, R322, R323). -/
namespace Sys2Proof.Machine

/-! ### Packs -/

/-- The pack that PACK_LOAD makes of its image. -/
def PackFacts.pack (f : PackFacts) (s : State) (p addr len : Nat) (bs : List Byte) : Pack :=
  { part := p, addr := localOf addr, len := len, codeBase := localOf addr + f.codeOff, codeLen := f.codeLen
    entries := f.entries.map fun e => { addr := (addr + e.1) % 2 ^ 64, acmAlloc := e.2.1, tables := e.2.2 }
    tables := f.tables.map fun o => slice bs o tableLen, digest := sha3 bs, caps := f.caps, ladle := bit s.core.pmode p }

/-- What the loader checks. -/
def PackFacts.loading (f : PackFacts) (s : State) (p addr : Nat) (bs : List Byte) : Loading :=
  { view := s.loadView p (bit s.core.pmode p) f.acmMax, addr := addr, img := bs, facts := f }

section
variable {s s1 : State} {h : HostCmd} {f : PackFacts} {p num : Nat} {bs : List Byte} (a : s.admits h 0x10 none) (h1 : h.zero 13 3 = true)
  (h2 : h.zero 24 24 = true) (h3 : h.arg 8 4 ≠ 0) (hp : (s.turn h).partArg h (h.arg 12 1) = .ok p)
  (hk : freeKey (s.turn h).core.packs 256 = some num) (hf : (s.turn h).fetch p (h.arg 0 8) (h.arg 8 4) true = (s1, .ok bs))
  (hv : versionFault f.major f.minor f.vlen f.grainLog2 f.caps = 0) (hpl : f.placed (h.arg 0 8) (h.arg 8 4) = true)
  (hc : packFault (f.loading s1 p (h.arg 0 8) bs) = none)
include a h1 h2 h3 hp hk hf hv hpl hc

/-- A pack whose report is not asked for. -/
theorem exec_packLoad (hr : h.arg 16 8 = 0) : exec (.packLoad h f) s = .next
    ((s1.onCore fun c => { c with packs := insertKey num (f.pack s1 p (h.arg 0 8) (h.arg 8 4) bs) c.packs }).complete h 0x10 0 num).settle := by
  have h0 : ¬ (¬ h.zero 13 3 = true ∨ ¬ h.zero 24 24 = true ∨ h.arg 8 4 = 0) := by simp [h1, h2, h3]
  refine answer_now a ?_
  dsimp only
  rw [if_neg h0, hp, hk]
  dsimp only
  rw [hf]
  dsimp only
  rw [if_neg (not_not_intro hv), if_neg (not_not_true hpl)]
  unfold PackFacts.loading at hc
  rw [hc, if_pos hr]
  rfl

/-- A pack whose report is stored. -/
theorem exec_packLoad_report {l : Nat} (hr : h.arg 16 8 ≠ 0) (hl : s1.local? (h.arg 16 8) = some l)
    (ha : s1.core.access p [] l (loadReport (f.loading s1 p (h.arg 0 8) bs)).length true = 0)
    (hs : s1.core.storeRefused l (loadReport (f.loading s1 p (h.arg 0 8) bs)).length = false) : exec (.packLoad h f) s = .next
    ((s1.onCore fun c => { c.store l (loadReport (f.loading s1 p (h.arg 0 8) bs)) with
      packs := insertKey num (f.pack s1 p (h.arg 0 8) (h.arg 8 4) bs)
        (c.store l (loadReport (f.loading s1 p (h.arg 0 8) bs))).packs }).complete h 0x10 0 num).settle := by
  have h0 : ¬ (¬ h.zero 13 3 = true ∨ ¬ h.zero 24 24 = true ∨ h.arg 8 4 = 0) := by simp [h1, h2, h3]
  refine answer_now a ?_
  dsimp only
  rw [if_neg h0, hp, hk]
  dsimp only
  rw [hf]
  dsimp only
  rw [if_neg (not_not_intro hv), if_neg (not_not_true hpl)]
  unfold PackFacts.loading at hc
  have hrc : (if s1.core.access p [] l (loadReport (f.loading s1 p (h.arg 0 8) bs)).length true = 0 ∧
      s1.core.storeRefused l (loadReport (f.loading s1 p (h.arg 0 8) bs)).length = true then 0x0502
      else s1.core.access p [] l (loadReport (f.loading s1 p (h.arg 0 8) bs)).length true) = 0 := by
    rw [if_neg (by rw [hs]; simp), ha]
  rw [hc, if_neg hr, hl]
  exact if_neg (not_not_intro hrc)
end

/-! ### Contexts -/

/-- The context that CONTEXT_CREATE makes. -/
def HostCmd.newContext (h : HostCmd) (p : Pack) (a : Nat) : Context :=
  { part := p.part, pack := h.arg 0 1, prio := h.arg 1 1, mask := h.arg 2 1, poff := h.arg 4 2, plen := h.arg 6 2, imgAddr := a
    imgLen := h.arg 16 8, ladle := p.ladle }

theorem exec_contextCreate {s : State} {h : HostCmd} {p : Pack} {a n : Nat} (ad : s.admits h 0x11 none)
    (hp : lookup (s.turn h).core.packs (h.arg 0 1) = some p) (hl : (s.turn h).local? (h.arg 8 8) = some a)
    (hq : (s.turn h).core.pathPart h.path = none ∨ (s.turn h).core.pathPart h.path = some p.part) (h1 : h.arg 1 1 ≤ 7)
    (h2 : h.zero 3 1 = true) (h3 : h.zero 24 24 = true) (h4 : h.arg 4 2 ≤ 1023) (h5 : h.arg 4 2 + h.arg 6 2 ≤ 1024) (h6 : a % 4096 = 0)
    (hk : freeKey (s.turn h).core.ctxs 1024 = some n) (hu : (s.turn h).core.quota p.part ≠ 0)
    (hc : (s.turn h).core.access p.part [] a (h.arg 16 8) true = 0)
    (hi : imageSize p.acmMax (maskDies (h.arg 2 1)).length (h.arg 6 2) ≤ h.arg 16 8) :
    exec (.contextCreate h) s = .next (((s.turn h).onCore fun c => c.setCtx n (h.newContext p a)).complete h 0x11 0 n).settle := by
  have hq' : ¬ ((s.turn h).core.pathPart h.path).any (fun q => q != p.part) = true := by
    rcases hq with hq | hq <;> simp [hq]
  have hb : ¬ (7 < h.arg 1 1 ∨ ¬ h.zero 3 1 = true ∨ ¬ h.zero 24 24 = true ∨ 1023 < h.arg 4 2 ∨ 1024 < h.arg 6 2 ∨
      1024 < h.arg 4 2 + h.arg 6 2 ∨ a % 4096 ≠ 0) := by
    simp only [h2, h3, h6, not_true, ne_eq, false_or, or_false]
    omega
  have hs : ¬ ((s.turn h).core.access p.part [] a (h.arg 16 8) true ≠ 0 ∨
      h.arg 16 8 < imageSize p.acmMax (maskDies (h.arg 2 1)).length (h.arg 6 2)) := by
    simp only [hc, ne_eq, not_true, false_or]
    omega
  refine answer_now ad ?_
  dsimp only
  simp only [hp, hl]
  rw [if_neg hq', if_neg hb]
  simp only [hk]
  rw [if_neg hu, if_neg hs]
  rfl

theorem exec_discard {s : State} {h : HostCmd} {cx : Context} (a : s.admits h 0x12 (some h.ctxArg)) (hz : h.zero 2 46 = true)
    (hx : lookup (s.turn h).core.ctxs h.ctxArg = some cx) : exec (.discard h) s =
      .next (((s.turn h).discardCtx h.ctxArg).schedule.complete h 0x12 0 0 3 [] h.ctxArg).settle := by
  refine answer_now a ?_
  rw [if_neg (not_not_true hz), hx]
  rfl

theorem exec_launch {s : State} {h : HostCmd} {cx : Context} (a : s.admits h 0x13 (some h.ctxArg)) (h1 : h.zero 5 3 = true)
    (h2 : h.zero 16 32 = true) (h3 : 0 < h.arg 4 1) (h4 : h.arg 4 1 ≤ 128) (hx : lookup (s.turn h).core.ctxs h.ctxArg = some cx)
    (hs : cx.state ≠ .faulted) (he : ((lookup (s.turn h).core.packs cx.pack).bind fun p => p.entries[h.arg 2 2]?).isSome = true) :
    exec (.launch h) s = .next (((s.turn h).onCore fun c => c.setCtx h.ctxArg
      { cx with nextLaunch := cx.nextLaunch + 1, launches := cx.launches ++
        [{ num := cx.nextLaunch, entry := h.arg 2 2, count := h.arg 4 1, arg := h.arg 8 8, base := none, cmd := some h.ref }] }).schedule).settle := by
  have h0 : ¬ (¬ h.zero 5 3 = true ∨ ¬ h.zero 16 32 = true ∨ h.arg 4 1 = 0 ∨ 128 < h.arg 4 1) := by
    simp only [h1, h2, not_true, false_or]
    omega
  have hn : ¬ ((lookup (s.turn h).core.packs cx.pack).bind fun p => p.entries[h.arg 2 2]?).isNone = true := by
    rw [Option.isNone_iff_eq_none, ← Option.not_isSome_iff_eq_none]
    exact not_not_true he
  refine answer_later a ?_
  dsimp only
  rw [if_neg h0, hx]
  dsimp only
  rw [if_neg hs, if_neg hn]

theorem exec_launchStart {s : State} {j : Fin 1024} {cx : Context} {p : Pack} {l : Launch} {e : Entry} {b : Nat}
    (hx : lookup s.core.ctxs j.val = some cx) (hp : lookup s.core.packs cx.pack = some p) (hl : cx.live = true)
    (hw : cx.launches.find? (fun l => l.base.isNone) = some l) (he : p.entries[l.entry]? = some e) (hb : cx.freeBase l.count = some b)
    (hc : cx.launches.any (fun o => o.base.isSome && (p.entries[o.entry]?).any fun oe => e.conflicts oe) = false) :
    exec (.launchStart j) s = .next (((s.onCore fun c => (c.setCtx j.val { cx with
        launches := cx.launches.map fun o => if o.num = l.num then { o with base := some b } else o
        strands := (List.range l.count).foldl (fun m r => insertKey (b + r) (newStrand l e b r) m) cx.strands }).place cx.part)).wakeCtx
          j.val).settle := by
  have hst : s.core.launchStart j.val = (s.core.setCtx j.val (cx.start p)).place cx.part := by
    unfold Core.launchStart
    rw [hx]
    dsimp only
    rw [hp]
    exact if_pos hl
  have hs : cx.start p = { cx with
        launches := cx.launches.map fun o => if o.num = l.num then { o with base := some b } else o
        strands := (List.range l.count).foldl (fun m r => insertKey (b + r) (newStrand l e b r) m) cx.strands } := by
    unfold Context.start
    rw [hw]
    dsimp only
    rw [he, hb]
    dsimp only
    rw [if_neg (by rw [hc]; decide)]
  have hd : (s.onCore fun c => c.launchStart j.val) = s.onCore fun c => (c.setCtx j.val { cx with
        launches := cx.launches.map fun o => if o.num = l.num then { o with base := some b } else o
        strands := (List.range l.count).foldl (fun m r => insertKey (b + r) (newStrand l e b r) m) cx.strands }).place cx.part :=
    (congrArg (fun c => { s with core := c }) (hst.trans (congrArg (fun cy => (s.core.setCtx j.val cy).place cx.part) hs)) :)
  exact congrArg (fun a : State => answer (a.wakeCtx j.val)) hd

theorem exec_resume {s : State} {h : HostCmd} {cx : Context} (a : s.admits h 0x14 (some h.ctxArg)) (hz : h.zero 2 46 = true)
    (hx : lookup (s.turn h).core.ctxs h.ctxArg = some cx) (hf : cx.state = .faulted) (hs : cx.slot.isSome = true) :
    exec (.resume h) s = .next ((((s.turn h).onCore fun c => { c.setCtx h.ctxArg { cx with faulted := false, trap := none } with
      walks := c.walks.filter fun w => w.ctx != h.ctxArg }).schedule).complete h 0x14 0 0 3 [] h.ctxArg).settle := by
  refine answer_now a ?_
  dsimp only
  rw [if_neg (not_not_true hz), hx]
  dsimp only
  rw [if_neg (not_not_intro hf), if_pos hs]

theorem exec_resume_absent {s : State} {h : HostCmd} {cx : Context} (a : s.admits h 0x14 (some h.ctxArg)) (hz : h.zero 2 46 = true)
    (hx : lookup (s.turn h).core.ctxs h.ctxArg = some cx) (hf : cx.state = .faulted) (hs : cx.slot = none) :
    exec (.resume h) s = .next (((s.turn h).onCore fun c => { c.setCtx h.ctxArg
      { cx with faulted := false, lateFault := false, trap := none, woken := true, resumeCmd := some h.ref } with
        walks := c.walks.filter fun w => w.ctx != h.ctxArg }).schedule).settle := by
  refine answer_later a ?_
  dsimp only
  rw [if_neg (not_not_true hz), hx]
  dsimp only
  rw [if_neg (not_not_intro hf), if_neg (by rw [hs]; decide)]

theorem exec_save {s : State} {h : HostCmd} {cx : Context} (a : s.admits h 0x15 (some h.ctxArg)) (hz : h.zero 2 46 = true)
    (hx : lookup (s.turn h).core.ctxs h.ctxArg = some cx) (hs : cx.slot.isSome = true) : exec (.saveContext h) s =
      .next ((s.turn h).onCore fun c => c.setCtx h.ctxArg { cx with moving := .stopping, saveCmds := cx.saveCmds ++ [h.ref] }).settle := by
  refine answer_later a ?_
  dsimp only
  rw [if_neg (not_not_true hz), hx]
  dsimp only
  rw [if_pos hs]

theorem exec_save_absent {s : State} {h : HostCmd} {cx : Context} (a : s.admits h 0x15 (some h.ctxArg)) (hz : h.zero 2 46 = true)
    (hx : lookup (s.turn h).core.ctxs h.ctxArg = some cx) (hs : cx.slot = none) (hl : cx.savedLen ≠ 0) :
    exec (.saveContext h) s = .next ((s.turn h).complete h 0x15 0 cx.savedLen 3 [] h.ctxArg).settle := by
  refine answer_now a ?_
  dsimp only
  rw [if_neg (not_not_true hz), hx]
  dsimp only
  rw [if_neg (by rw [hs]; decide), if_pos hl]

theorem exec_save_first {s : State} {h : HostCmd} {cx : Context} {p : Pack} {bs : List Byte} {c1 : Core} (a : s.admits h 0x15 (some h.ctxArg))
    (hz : h.zero 2 46 = true) (hx : lookup (s.turn h).core.ctxs h.ctxArg = some cx) (hs : cx.slot = none) (hl : cx.savedLen = 0)
    (hp : lookup (s.turn h).core.packs cx.pack = some p) (hi : (s.turn h).core.image h.ctxArg cx p = (bs, c1)) :
    exec (.saveContext h) s = .next (((s.turn h).onCore fun _ => ((c1.store cx.imgAddr bs).setCtx h.ctxArg { cx with
      savedLen := bs.length, acct := cx.acct.saved bs.length }).account s.nym.devnum h.ctxArg).complete h 0x15 0 bs.length 3 [] h.ctxArg).settle := by
  refine answer_now a ?_
  dsimp only
  rw [if_neg (not_not_true hz), hx]
  dsimp only
  rw [if_neg (by rw [hs]; decide), if_neg (not_not_intro hl), hp]
  dsimp only
  rw [hi]
  rfl

/-- Two changes of the compute side, one after the other. -/
theorem State.onCore_onCore (s : State) (f g : Core → Core) : (s.onCore f).onCore g = s.onCore fun c => g (f c) := rfl

theorem exec_restore {s : State} {h : HostCmd} {cx : Context} {p : Pack} {a : Nat} {c1 : Core} {img : List Byte}
    {ss : List (Nat × Nat × Nat × Nat)} {w : List (Nat × Nat)} (ad : s.admits h 0x16 (some h.ctxArg)) (h1 : h.zero 2 6 = true)
    (h2 : h.zero 16 32 = true) (hx : lookup (s.turn h).core.ctxs h.ctxArg = some cx) (hs : cx.slot = none) (hi : cx.state = .idle)
    (hl : (s.turn h).local? (h.arg 8 8) = some a) (hp : lookup (s.turn h).core.packs cx.pack = some p)
    (ha : (s.turn h).core.access cx.part [] a 128 false = 0)
    (hr : (s.turn h).core.readImage (s.turn h).nym.devnum cx a = (c1, .ok img))
    (hal : (s.turn h).core.access cx.part [] a img.length false = 0) (hf : imageFault cx p (!bit c1.pmode cx.part) img = 0)
    (him : imageParts img = some (ss, w)) :
    let cx1 := cx.fromImage img ss
    exec (.restoreContext h) s = .next ((((s.turn h).onCore fun _ => (c1.store cx.imgAddr img).setCtx h.ctxArg { cx1 with
        strands := cx1.strands.map fun r => (r.1, r.2.parked), num := {}, tiles := [], bars := barsOf (imageBars img)
        late := { ringAddr := cx1.num.ringAddr, ringLog := cx1.num.ringLog, head := cx1.num.head, tail := cx1.num.tail }
        lateRecs := 0, lateFault := false, acct := cx.acct.switched (2 * img.length), savedLen := img.length
        woken := true }).schedule).complete h 0x16 0 0 3 [] h.ctxArg).settle := by
  have h0 : ¬ (¬ h.zero 2 6 = true ∨ ¬ h.zero 16 32 = true) := by simp [h1, h2]
  have h3 : ¬ (cx.slot.isSome = true ∨ cx.state ≠ .idle) := by simp [hs, hi]
  intro cx1
  refine answer_now ad ?_
  dsimp only
  rw [if_neg h0, hx]
  dsimp only
  rw [if_neg h3]
  simp only [hl, hp]
  rw [if_neg (not_not_intro (.inl ha)), hr]
  dsimp only
  rw [if_neg (not_not_intro (.inl hal)), if_neg (not_not_intro hf), him]
  dsimp only
  rw [State.onCore_onCore]

/-- Settles O35: a command that has its turn and passes its checks is its own function's last branch. -/
theorem packAndContextCommandsComplete : Obligations.PackAndContextCommandsComplete := by
  intro s h s0 k
  refine ⟨fun f p num s1 bs a h1 h2 h3 hp hk hf hv hpl => ?_,
    fun p a n ad hp hl hq h1 h2 h3 h4 h5 h6 hk hu hc hi => exec_contextCreate ad hp hl hq h1 h2 h3 h4 h5 h6 hk hu hc hi,
    fun cx a hz hx => exec_discard a hz hx, fun cx a h1 h2 h3 h4 hx hs he => exec_launch a h1 h2 h3 h4 hx hs he,
    fun j cx p l e b hx hp hl hw he hb hc => exec_launchStart hx hp hl hw he hb hc, fun cx a hz hx hf hs => exec_resume a hz hx hf hs,
    fun cx a hz hx hf hs => exec_resume_absent a hz hx hf hs, fun cx a hz hx hs => exec_save a hz hx hs,
    fun cx a hz hx hs hl => exec_save_absent a hz hx hs hl, fun cx p bs c1 a hz hx hs hl hp hi => exec_save_first a hz hx hs hl hp hi,
    fun cx p a c1 img ss w ad h1 h2 hx hs hi hl hp ha hr hal hf him => exec_restore ad h1 h2 hx hs hi hl hp ha hr hal hf him⟩
  intro at' pack hc
  refine ⟨fun hr => ?_, fun l hr hl ha hs => ?_⟩
  · exact exec_packLoad a h1 h2 h3 hp hk hf hv hpl hc hr
  · exact exec_packLoad_report a h1 h2 h3 hp hk hf hv hpl hc hr hl ha hs

end Sys2Proof.Machine
end

section
/-! Binding commands (R25, R27, R315), and what the scheduler does of itself (R318 to R325). -/
namespace Sys2Proof.Machine

/-! ### Bindings -/

/-- What an accepted list leaves to be done. -/
def HostCmd.rebind (h : HostCmd) (us : List (Nat × Nat × Nat)) : Rebind :=
  { cmd := h.ref, units := us, linkWait := us.any fun u => u.1 == 4, args := slice h.args 0 32 }

section
variable {s s1 : State} {h : HostCmd} {bs : List Byte} {us : List (Nat × Nat × Nat)} (a : s.admits h 0x20 none) (h1 : h.zero 12 36 = true)
  (h2 : h.arg 0 8 % 8 = 0) (h3 : 0 < h.arg 8 4) (h4 : h.arg 8 4 ≤ 512)
  (hf : (s.turn h).fetch 0xFF (h.arg 0 8) (8 * h.arg 8 4) = (s1, .ok bs)) (hu : listUnits (wordsOf 8 (h.arg 8 4) bs) = some us)
  (hn : s.rebinds.any (fun r => r.units.any fun u => us.any fun v => v.1 == u.1 && v.2.1 == u.2.1) = false)
include a h1 h2 h3 h4 hf hu hn

theorem exec_binding_accepted (hb : s1.bindFault us = 0) :
    exec (.binding h) s = .next ({ s1 with rebinds := s1.rebinds ++ [h.rebind us] } : State).settle := by
  have h0 : ¬ (¬ h.zero 12 36 = true ∨ h.arg 0 8 % 8 ≠ 0 ∨ h.arg 8 4 = 0 ∨ 512 < h.arg 8 4) := by
    simp only [h1, h2, not_true, ne_eq, false_or]
    omega
  have hn' : (s.turn h).rebinds.any (fun r => r.units.any fun u => us.any fun v => v.1 == u.1 && v.2.1 == u.2.1) = false := hn
  refine answer_later a ?_
  dsimp only
  rw [if_neg h0, hf]
  dsimp only
  rw [hu]
  dsimp only
  rw [if_neg (by rw [hn']; decide), if_neg (not_not_intro hb)]
  rfl

theorem exec_binding_refused (hb : s1.bindFault us ≠ 0) : exec (.binding h) s = .next (s1.complete h 0x20 (s1.bindFault us) 0).settle := by
  have h0 : ¬ (¬ h.zero 12 36 = true ∨ h.arg 0 8 % 8 ≠ 0 ∨ h.arg 8 4 = 0 ∨ 512 < h.arg 8 4) := by
    simp only [h1, h2, not_true, ne_eq, false_or]
    omega
  have hn' : (s.turn h).rebinds.any (fun r => r.units.any fun u => us.any fun v => v.1 == u.1 && v.2.1 == u.2.1) = false := hn
  refine answer_now a ?_
  dsimp only
  rw [if_neg h0, hf]
  dsimp only
  rw [hu]
  dsimp only
  rw [if_neg (by rw [hn']; decide), if_pos hb]
  rfl
end

theorem exec_bindingComplete {s : State} {r : Rebind}
    (h : s.rebinds.find? (fun r => (!r.linkWait || (s.onRebound r).isEmpty) && s.drained r) = some r) :
    exec .bindingComplete s = .next (({ s with rebinds := s.rebinds.erase r } : State).bindDone r).settle := by
  show execBindingComplete s = _
  unfold execBindingComplete
  rw [h]
  rfl

/-- The journal leaves the owners of units. -/
theorem State.journal_owner (s : State) (src : Src) (e : JEntry) (cls u : Nat) : (s.journal src e).core.owner cls u = s.core.owner cls u := by
  unfold State.journal
  split
  · obtain ⟨m, x, w, q, j, o, hj⟩ := Core.journal_ok s.core src e
    dsimp only
    rw [hj]
    rfl
  · rfl

/-- A link or a partition's units of class 7 have nothing to clear. -/
theorem State.clearUnit_plain {s : State} {u : Nat × Nat × Nat} (h : u.1 = 4 ∨ u.1 = 7) : s.clearUnit u = s := by
  unfold State.clearUnit
  rcases h with h | h <;> simp only [h]

/-- A binding command of one unit that changes hands and has nothing to clear. -/
theorem State.bindDone_unit {s : State} {r : Rebind} {u : Nat × Nat × Nat} (hu : r.units = [u]) (hc : u.1 = 4 ∨ u.1 = 7)
    (ho : s.core.owner u.1 u.2.1 ≠ u.2.2) :
    s.bindDone r = (((s.journal (s.srcOf r.cmd.path) { kind := 2, code := 0x20, new := 0, detail := r.args }).onCore fun c =>
      { c with owners := setOwner c.owners u.1 u.2.1 u.2.2 }).onCore fun c =>
        { c with dones := c.dones ++ [{ cmd := r.cmd, status := 0, result := 0 }] }).schedule := by
  unfold State.bindDone
  rw [hu]
  dsimp only [List.foldl]
  rw [State.journal_owner, if_neg ho, State.clearUnit_plain hc]

theorem exec_linkRebindAbort {s : State} {r : Rebind} (h : s.rebinds.find? (fun r => r.linkWait) = some r) :
    let s1 := ((s.onRebound r).foldl (fun (a : State) k => a.abortAll k (statusWord 2 noRank)) s).wakeAll
    exec .linkRebindAbort s =
      .next ({ s1 with rebinds := s1.rebinds.map fun q => if q = r then { q with linkWait := false } else q } : State).settle := by
  show execLinkRebindAbort s = _
  unfold execLinkRebindAbort
  rw [h]
  rfl

/-- Settles O36: the check of the list decides acceptance; the oldest command whose links carry nothing is applied. -/
theorem bindingCommandsComplete : Obligations.BindingCommandsComplete := by
  intro s h r s0
  refine ⟨fun s1 bs us a h1 h2 h3 h4 hf hu hn hb => exec_binding_accepted a h1 h2 h3 h4 hf hu hn hb,
    fun s1 bs us a h1 h2 h3 h4 hf hu hn hb => exec_binding_refused a h1 h2 h3 h4 hf hu hn hb, exec_bindingComplete,
    fun u hu hc ho h => ?_, exec_linkRebindAbort⟩
  have ho' : ({ s with rebinds := s.rebinds.erase r } : State).core.owner u.1 u.2.1 ≠ u.2.2 := ho
  exact (exec_bindingComplete h).trans (settle_congr (State.bindDone_unit hu hc ho'))

/-! ### The period boundary -/

/-- The rations in force and to come. -/
def Core.rations (c : Core) : List Byte × Option (List Byte) := (c.ration, c.nextRation)

theorem Core.flagHolds_rations (c : Core) (dev : Nat) (cx : Context) (r : Strand) : (c.flagHolds dev cx r).1.rations = c.rations := by
  unfold Core.flagHolds
  split
  · rfl
  · dsimp only
    split
    · split <;> rfl
    all_goals rfl

theorem Core.poll_rations (c : Core) (dev : Nat) : (c.poll dev).rations = c.rations := by
  unfold Core.poll
  refine foldl_same Core.rations _ (fun a k => ?_) _ _
  have h : (k.2.strands.foldl (fun (b : Core × Bool) r =>
      ((b.1.flagHolds dev k.2 r.2).1, b.2 || (b.1.flagHolds dev k.2 r.2).2)) (a, false)).1.rations = a.rations :=
    foldl_same (fun b : Core × Bool => b.1.rations) (fun (b : Core × Bool) (r : Nat × Strand) =>
      ((b.1.flagHolds dev k.2 r.2).1, b.2 || (b.1.flagHolds dev k.2 r.2).2)) (fun b (r : Nat × Strand) => Core.flagHolds_rations b.1 dev k.2 r.2) _ _
  dsimp only
  split
  · exact h
  · exact h

theorem Core.loadTables_rations (c : Core) (k quad : Nat) (cx : Context) : (c.loadTables k quad cx).rations = c.rations := by
  unfold Core.loadTables
  refine foldl_same Core.rations _ (fun a j => ?_) _ _
  split <;> rfl

theorem Core.placeStrand_rations (c : Core) (k i : Nat) : (c.placeStrand k i).rations = c.rations := by
  unfold Core.placeStrand
  split
  · rfl
  · split
    · rfl
    · dsimp only
      split
      · rfl
      · exact Core.loadTables_rations _ _ _ _

theorem Core.place_rations (c : Core) (p : Nat) (rotate : Bool) : (c.place p rotate).rations = c.rations := by
  unfold Core.place
  exact foldl_same Core.rations _ (fun a (x : Nat × Nat) => Core.placeStrand_rations a x.1 x.2) _ _

theorem Core.rotate_rations (c : Core) (p : Nat) : (c.rotate p).rations = c.rations := by
  unfold Core.rotate
  split
  · rfl
  · exact Core.place_rations _ _ _

theorem Core.evict_rations (c : Core) (k : Nat) : (c.evict k).rations = c.rations := by
  unfold Core.evict
  split <;> rfl

theorem Core.evictOver_rations (p n : Nat) (c : Core) : (Core.evictOver p n c).rations = c.rations := by
  induction n generalizing c with
  | zero => rfl
  | succ n ih =>
    unfold Core.evictOver
    dsimp only
    split
    · rfl
    · split
      · exact (ih _).trans (Core.evict_rations _ _)
      · rfl

theorem Core.evictBlocked_rations (c : Core) (start p : Nat) : (c.evictBlocked start p).rations = c.rations := by
  unfold Core.evictBlocked
  dsimp only
  split
  · rfl
  · split
    · exact Core.evict_rations _ _
    · rfl

theorem Core.admitAll_rations (p n : Nat) (c : Core) : (Core.admitAll p n c).rations = c.rations := by
  induction n generalizing c with
  | zero => rfl
  | succ n ih =>
    unfold Core.admitAll
    split
    · exact ih _
    · rfl

theorem Core.schedulePart_rations (c : Core) (p : Nat) : (c.schedulePart p).rations = c.rations := by
  unfold Core.schedulePart
  dsimp only
  rw [Core.place_rations]
  split
  · exact (Core.evict_rations _ _).trans (Core.admitAll_rations _ _ _)
  · exact Core.admitAll_rations _ _ _

theorem Core.schedule_rations (c : Core) : c.schedule.rations = c.rations := by
  unfold Core.schedule
  exact foldl_same Core.rations _ Core.schedulePart_rations _ _

theorem Core.sharePool_rations (c : Core) : c.sharePool.rations = c.rations := by
  unfold Core.sharePool
  refine (foldl_same Core.rations _ (fun a m => ?_) c.poolMes _ :)
  split <;> rfl

theorem Core.account_rations (c : Core) (dev k : Nat) : (c.account dev k).rations = c.rations := by
  unfold Core.account
  dsimp only
  split
  · rfl
  · split <;> rfl

theorem Core.ration_of_rations {c : Core} {r : List Byte × Option (List Byte)} (h : c.rations = r) : c.ration = r.1 ∧ c.nextRation = r.2 :=
  ⟨congrArg Prod.fst h, congrArg Prod.snd h⟩

/-- At a period's boundary the next ration comes into force, and none is to come. -/
theorem Core.boundary_rations (c : Core) (dev : Nat) : (c.boundary dev).rations = (c.nextRation.getD c.ration, none) := by
  have h0 : ∀ c0 : Core, ((c0.poll dev).touch.sharePool.grantCredits).rations = c0.rations := fun c0 =>
    (Core.sharePool_rations _).trans (Core.poll_rations c0 dev)
  have h2 : ∀ (per : Nat) (c1 : Core), ((List.range 8).foldl (fun (a : Core) p =>
      a.rotate p |> Core.evictOver p 16 |> (fun b => b.evictBlocked per p)) c1).rations = c1.rations := fun per c1 =>
    foldl_same Core.rations _ (fun a p => (Core.evictBlocked_rations _ _ _).trans ((Core.evictOver_rations _ _ _).trans (Core.rotate_rations _ _))) _ _
  have h3 : ∀ c3 : Core, ((c3.ctxs.map Prod.fst).foldl (fun (a : Core) k => a.account dev k) c3).rations = c3.rations := fun c3 =>
    foldl_same Core.rations _ (fun a k => Core.account_rations a dev k) _ _
  unfold Core.boundary
  extract_lets c0 c1 c2 c3
  have hr : c3.rations = c0.rations := (Core.schedule_rations c2).trans ((h2 c.period c1).trans (h0 c0))
  have hp : ∀ (c : Core) (n : Nat), ({ c with period := n } : Core).rations = c.rations := fun _ _ => rfl
  clear_value c3
  rw [hp, h3, hr]
  show Core.rations (match c.nextRation with
    | some r => { c with ration := r, nextRation := none }
    | none => c) = _
  cases hn : c.nextRation with
  | some r => rfl
  | none => exact Prod.ext rfl hn

/-! ### Scheduling events -/

theorem State.dmp_of_aside {a b : State} (h : a.aside = b.aside) : a.dmp = b.dmp := (congrArg (fun x => x.2.1) h :)

theorem exec_rationPeriodBoundary {s : State} (h : s.dmp.pwrbrk = false) :
    exec .rationPeriodBoundary s = .next (s.onCore fun c => c.boundary s.nym.devnum).wakeAll.settle := by
  have hd : (s.onCore fun c => c.boundary s.nym.devnum).wakeAll.dmp = s.dmp :=
    State.dmp_of_aside ((State.wakeAll_aside _).trans (s.onCore_aside fun c => c.boundary s.nym.devnum))
  refine congrArg answer (if_neg ?_)
  rw [hd, h]
  simp

/-- A context without a NaN trap at its pre-emption point. -/
theorem exec_preemptionPoint {s : State} {k : Fin 1024} {cx : Context} (hx : lookup s.core.ctxs k.val = some cx) (ht : cx.trap = none) :
    exec (.preemptionPointReached k) s = .next ((s.onCore fun c => c.preempted k.val).wakeCtx k.val).settle := by
  have h : ¬ (lookup s.core.ctxs k.val).any (fun cx => cx.trap.isSome) = true := by simp [hx, ht]
  show execPreemptionPointReached k s = _
  unfold execPreemptionPointReached
  rw [if_neg h]
  rfl

theorem Core.preempted_stopping {c : Core} {k : Nat} {cx : Context} (hx : lookup c.ctxs k = some cx) (hm : cx.moving = .stopping) :
    c.preempted k = c.setCtx k { cx with moving := .saving } := by
  unfold Core.preempted
  rw [hx]
  exact if_pos hm

theorem Core.preempted_live {c : Core} {k : Nat} {cx : Context} (hx : lookup c.ctxs k = some cx) (hm : cx.moving = .none)
    (hl : cx.live = true) : c.preempted k = c.rotate cx.part := by
  unfold Core.preempted
  rw [hx]
  dsimp only
  rw [if_neg (by rw [hm]; decide), if_pos hl]

theorem Core.saved_eq {c c1 : Core} {dev k : Nat} {cx : Context} {p : Pack} {bs : List Byte} (hx : lookup c.ctxs k = some cx)
    (hm : cx.moving = .saving) (hp : lookup c.packs cx.pack = some p) (hi : c.image k cx p = (bs, c1)) : c.saved dev k =
      ((((((c1.store cx.imgAddr bs).dropDecodes k).dropLoads k).clearChip k cx fun i => (lookup cx.strands i).isSome).setCtx k { cx with
        slot := none, moving := .none, savedLen := bs.length, woken := false, num := {}, saveCmds := []
        tiles := cx.tiles.filter fun t => !(lookup cx.strands t.1).isSome
        acct := cx.acct.saved bs.length
        late := { ringAddr := cx.num.ringAddr, ringLog := cx.num.ringLog, head := cx.num.head, tail := cx.num.tail }
        lateRecs := 0, lateFault := false
        strands := cx.strands.map fun r => (r.1, r.2.parked) }).account dev k).finishCmds cx.saveCmds k cx.part 0 bs.length := by
  unfold Core.saved
  simp only [hx, hm, hp, hi]

theorem Core.restored_eq {c c1 c2 : Core} {dev k : Nat} {cx cy : Context} {p : Pack} {img : List Byte} (hx : lookup c.ctxs k = some cx)
    (hm : cx.moving = .restoring) (hp : lookup c.packs cx.pack = some p) (hr : c.readImage dev cx cx.imgAddr = (c1, .ok img))
    (hf : imageFault cx p (!bit c1.pmode cx.part) img = 0) (hl : c1.load k cx img = (c2, cy)) : c.restored dev k =
      (c2.setCtx k { cy with
        moving := .none, resumeCmd := none, faulted := (cy.faulted && cx.resumeCmd.isNone) || cx.lateFault
        num := cy.num.after cx.late.dropped cx.lateRecs, late := {}, lateRecs := 0, lateFault := false
        acct := cx.acct.switched img.length }).finishCmds cx.resumeCmd.toList k cx.part 0 0 := by
  unfold Core.restored
  simp only [hx, hm, hp, hr, hf, hl, ne_eq, not_true, if_false]

/-- A change of the compute side given by its value. -/
theorem State.onCore_value {s : State} {f : Core → Core} {c : Core} (h : f s.core = c) : s.onCore f = s.onCore fun _ => c := by
  rw [← h]
  rfl

/-- Settles O37: a context that is stopping goes to its save, and a slot is filled by the scheduler after it. -/
theorem schedulingEventsComplete : Obligations.SchedulingEventsComplete := by
  intro s k cx p
  refine ⟨exec_rationPeriodBoundary, (Core.ration_of_rations (Core.boundary_rations _ _)).1, (Core.ration_of_rations (Core.boundary_rations _ _)).2,
    fun hx ht hm => ?_, fun hx ht hm hl => ?_, fun bs c1 hx hm hp hi => ?_, fun c1 img c2 cy hx hm hp hr hf hl => ?_⟩
  · refine (exec_preemptionPoint hx ht).trans (settle_congr (congrArg (fun a : State => a.wakeCtx k.val) ?_))
    exact State.onCore_value (f := fun c => c.preempted k.val) (Core.preempted_stopping hx hm)
  · refine (exec_preemptionPoint hx ht).trans (settle_congr (congrArg (fun a : State => a.wakeCtx k.val) ?_))
    exact State.onCore_value (f := fun c => c.preempted k.val) (Core.preempted_live hx hm hl)
  · exact congrArg (fun a : State => answer a.schedule) (State.onCore_value (f := fun c => c.saved s.nym.devnum k.val) (Core.saved_eq hx hm hp hi))
  · exact congrArg (fun a : State => answer a.schedule)
      (State.onCore_value (f := fun c => c.restored s.nym.devnum k.val) (Core.restored_eq hx hm hp hr hf hl))

end Sys2Proof.Machine
end

section
/-! The video engines: streams, submits, frames and their ends (R350 to R361). -/
namespace Sys2Proof.Machine

/-- A stream entered on an engine. -/
def State.putStream (s : State) (e i : Nat) (t : Stream) : State := s.modEngine e fun g => { g with streams := insertKey i t g.streams }

/-! ### Streams and submits -/

theorem exec_streamOpen {s s1 s2 : State} {h : HostCmd} {e : Fin 4} {p i : Nat} {b : List Byte} {pool : List (Nat × List Byte)}
    (a : s.admits h 0x30 none) (ho : h.arg 0 1 = 0) (he : h.arg 1 1 = e.val) (h1 : h.zero 2 2 = true) (h2 : h.zero 4 4 = true)
    (h3 : h.zero 16 32 = true) (hp : (s.turn h).core.pathPart h.path = some p) (hq : (s.turn h).core.owner 6 e.val = p)
    (hf : (s.turn h).fetch p (h.arg 8 8) 128 = (s1, .ok b)) (hb : s1.blockOk p b = true) (hl : s1.poolOf p b = (s2, .ok pool))
    (hk : freeKey (s1.engine e.val).streams 256 = some i) :
    exec (.videoStreamOpen h) s = .next ((s2.putStream e.val i {
      part := p, block := b, pool := pool.map Prod.fst, held := [], refs := [], frames := 0, outseq := 0, lastPic := none, subs := []
      recs := pool.map Prod.snd }).complete h 0x30 0 (e.val * 256 + i)).settle := by
  have h0 : ¬ (1 < h.arg 0 1 ∨ 3 < e.val ∨ ¬ h.zero 4 4 = true ∨ ¬ h.zero 16 32 = true ∨ (h.arg 0 1 = 0 ∧ ¬ h.zero 2 2 = true) ∨
      (h.arg 0 1 = 1 ∧ ¬ h.zero 8 8 = true)) := by
    have := e.isLt
    simp only [ho, h1, h2, h3, not_true, and_false, false_or]
    omega
  have hc : h.arg 0 1 ≠ 1 := by omega
  refine answer_now a ?_
  dsimp only
  rw [he, if_neg h0, if_neg hc, hp]
  dsimp only [Option.getD_some]
  rw [if_neg (not_not_intro hq), hf]
  dsimp only
  rw [if_neg (not_not_true hb), hl, hk]
  rfl

theorem exec_streamClose {s : State} {h : HostCmd} {e : Fin 4} {p : Nat} {t : Stream} (a : s.admits h 0x30 none) (ho : h.arg 0 1 = 1)
    (he : h.arg 1 1 = e.val) (h1 : h.zero 4 4 = true) (h2 : h.zero 8 8 = true) (h3 : h.zero 16 32 = true)
    (hp : (s.turn h).core.pathPart h.path = some p) (hn : h.arg 2 2 / 256 = e.val)
    (ht : lookup ((s.turn h).engine e.val).streams (h.arg 2 2 % 256) = some t) (hq : t.part = p) :
    exec (.videoStreamClose h) s = .next (((s.turn h).closeStream e.val (h.arg 2 2 % 256) t).complete h 0x30 0 0).settle := by
  have hlt := e.isLt
  have h0 : ¬ (1 < h.arg 0 1 ∨ 3 < e.val ∨ ¬ h.zero 4 4 = true ∨ ¬ h.zero 16 32 = true ∨ (h.arg 0 1 = 0 ∧ ¬ h.zero 2 2 = true) ∨
      (h.arg 0 1 = 1 ∧ ¬ h.zero 8 8 = true)) := by
    simp only [ho, h1, h2, h3, not_true, and_false, false_or, or_false]
    omega
  refine answer_now a ?_
  dsimp only
  rw [he, if_neg h0, if_pos ho, hp, hn, ht]
  exact if_pos ⟨hq, by omega, rfl⟩

/-- The submit that SUBMIT names. -/
def HostCmd.submit (h : HostCmd) : Submit :=
  { cmd := h.ref, stream := h.arg 0 2 % 256, frame := h.arg 8 8, buf := localOf (h.arg 16 8), len := h.arg 24 4, ready := h.arg 32 8
    readyVal := h.arg 40 8, age := none }

/-- A stream that a submit joins. -/
def Stream.joined (t : Stream) (h : HostCmd) : Stream :=
  { t with held := t.held.filter fun i => !bit (h.arg 28 4) i, subs := t.subs ++ [h.submit] }

section
variable {s : State} {h : HostCmd} {e : Fin 4} {t : Stream} (a : s.admits h 0x31 none) (h1 : h.zero 2 6 = true) (hn : h.arg 0 2 / 256 = e.val)
  (ht : lookup ((s.turn h).engine e.val).streams (h.arg 0 2 % 256) = some t) (hp : (s.turn h).core.pathPart h.path = some t.part)
  (hs : (s.turn h).submitOk h t = true)
include a h1 hn ht hp hs

theorem exec_submit_decode (hd : t.dec = true) :
    exec (.submit h) s = .next ((s.turn h).putStream e.val (h.arg 0 2 % 256) (t.joined h)).settle := by
  have hlt : h.arg 0 2 < 1024 := by have := e.isLt; omega
  have h0 : ¬ (some t.part ≠ (s.turn h).core.pathPart h.path ∨ ¬ (s.turn h).submitOk h t = true) := by simp [hp, hs]
  refine answer_later a ?_
  dsimp only
  rw [if_neg (not_not_true h1), if_pos hlt, hn, ht]
  dsimp only
  rw [if_neg h0, if_pos hd]
  exact if_neg (fun q => q.1 hd)

theorem exec_submit_encode {s1 : State} {b : List Byte} (hd : t.dec = false) (hf : (s.turn h).frameAt t.part false (h.arg 8 8) = (s1, .ok b))
    (hw : fld b 4 2 ≤ fld t.block 8 2) (hh : fld b 6 2 ≤ fld t.block 0xA 2) (hb : fld b 2 1 ≤ fld t.block 7 1)
    (hc : fld b 3 1 = fld t.block 0xC 1) :
    exec (.submit h) s = .next (s1.putStream e.val (h.arg 0 2 % 256) (t.joined h)).settle := by
  have hlt : h.arg 0 2 < 1024 := by have := e.isLt; omega
  have h0 : ¬ (some t.part ≠ (s.turn h).core.pathPart h.path ∨ ¬ (s.turn h).submitOk h t = true) := by simp [hp, hs]
  refine answer_later a ?_
  dsimp only
  rw [if_neg (not_not_true h1), if_pos hlt, hn, ht]
  dsimp only
  rw [if_neg h0, if_neg (by rw [hd]; decide), hf]
  exact if_neg (fun q => q.2 ⟨hw, hh, hb, hc⟩)
end

/-! ### Frames -/

section
variable {s : State} {e : Fin 4} (hr : (s.engine e.val).run = none) (hb : s.lan.bivActive = false)
include hr hb

theorem exec_frameStart_spoilt {i : Nat} {t : Stream} {b : Submit} {s1 : State} {d : List Byte}
    (hs : s.spoilt (s.engine e.val) = some (i, t, b)) (ha : s.acquire b = (s1, .error d)) :
    exec (.frameStart e) s = .next ((s1.putStream e.val i { t with subs := t.subs.drop 1 }).subDone t.part b 0x0210 0 d).settle := by
  have h0 : ¬ ((s.engine e.val).run.isSome = true ∨ s.lan.bivActive = true) := by simp [hr, hb]
  refine congrArg answer ((if_neg h0).trans ?_)
  simp only [hs, ha]
  rfl

variable {i : Nat} {t : Stream} {b : Submit} (hs : s.spoilt (s.engine e.val) = none) (hn : (s.engine e.val).next = some (i, t, b))
include hs hn

/-- A decode that finds no entry of its pool free. -/
theorem exec_frameStart_noEntry (hd : t.dec = true) (hf : t.freeEntry = none) :
    exec (.frameStart e) s =
      .next (((s.acquire b).1.putStream e.val i { t with subs := t.subs.drop 1 }).subDone t.part b 0 (0x40 * 2 ^ 32)).settle := by
  have h0 : ¬ ((s.engine e.val).run.isSome = true ∨ s.lan.bivActive = true) := by simp [hr, hb]
  refine congrArg answer ((if_neg h0).trans ?_)
  simp only [hs, hn]
  exact if_pos ⟨hd, by rw [hf]; rfl⟩

/-- The state once an engine has taken a submit, with the stream it held before saved. -/
def State.switched (s : State) (e i : Nat) (t : Stream) (b : Submit) : State :=
  let s1 := (s.acquire b).1.putStream e i { t with subs := t.subs.drop 1 }
  match (s.engine e).loaded with
  | some j => if j = i then s1 else ((lookup (s.engine e).streams j).map s1.saveStream).getD s1
  | none => s1

/-- A submit that starts reads what its frame is made of. -/
theorem exec_frameStart (hd : t.dec = true → t.freeEntry.isSome = true) :
    exec (.frameStart e) s = answer (match (s.switched e.val i t b).unitData t b with
      | (s3, .error (code, d)) => s3.subDone t.part b code 0 d
      | (s3, .ok (data, height, clamped)) => s3.modEngine e.val fun g => { g with
          run := some { sub := b, entry := if t.dec then t.freeEntry else none, progress := 0, data := data, height := height
                        clamped := clamped }
          loaded := some i, cur := i }) := by
  have h0 : ¬ ((s.engine e.val).run.isSome = true ∨ s.lan.bivActive = true) := by simp [hr, hb]
  have h1 : ¬ (t.dec = true ∧ t.freeEntry.isNone = true) := fun q => by
    have := hd q.1
    rw [Option.isNone_iff_eq_none.1 q.2] at this
    cases this
  refine congrArg answer ((if_neg h0).trans ?_)
  rw [hs, hn]
  exact if_neg h1
end

/-- The stream that an engine switches from is saved, where it is another one. -/
theorem State.switched_eq {s s2 : State} {e i : Nat} {t : Stream} {b : Submit}
    (h : ((s.engine e).loaded = none ∨ (s.engine e).loaded = some i) ∧
        s2 = (s.acquire b).1.putStream e i { t with subs := t.subs.drop 1 } ∨
      ∃ j u, (s.engine e).loaded = some j ∧ j ≠ i ∧ lookup (s.engine e).streams j = some u ∧
        s2 = ((s.acquire b).1.putStream e i { t with subs := t.subs.drop 1 }).saveStream u) : s.switched e i t b = s2 := by
  unfold State.switched
  rcases h with ⟨hl | hl, rfl⟩ | ⟨j, u, hl, hj, hu, rfl⟩
  · rw [hl]
  · rw [hl]
    exact if_pos rfl
  · rw [hl]
    dsimp only
    rw [if_neg hj, hu]
    rfl

/-! ### Encoding -/

/-- A slice of the frame in progress. -/
theorem exec_sliceComplete {s : State} {e : Fin 4} {r : Running} {t : Stream} (h : s.running e.val = some (r, t)) (hd : t.dec = false)
    (hf : r.full = false) (hn : r.denied = 0) (hs : r.slices < t.slices r.height) :
    exec (.sliceComplete e r.slices) s = answer (
      let bytes := Config.vidCode t.block (t.fed ++ [r.data]) r.slices
      let n := r.progress + bytes.length
      let code := s.vidCheck t.part r.sub.buf (64 + n)
      if r.sub.len < 64 + n then s.setRun e.val { r with full := true }
      else if code ≠ 0 then s.setRun e.val { r with denied := code }
      else
        let s1 := (s.vidStore t.part (r.sub.buf + 64 + r.progress) bytes).vidStore t.part r.sub.buf (leBytes 8 n)
        let s2 := s1.setRun e.val { r with progress := n, slices := r.slices + 1 }
        if bit (fld t.block 0x23 1) 0 then
          match r.sub.cmd.path with
          | .roce qp => s2.unsolicited qp 0xFFFD 0 ((e.val * 256 + r.sub.stream) * 2 ^ 32 + t.frames) n
          | _ => s2
        else s2) := by
  have h0 : ¬ (t.dec = true ∨ r.full = true ∨ r.denied ≠ 0 ∨ t.slices r.height ≤ r.slices ∨ r.slices ≠ r.slices) := by
    simp only [hd, hf, hn, ne_eq, not_true, Bool.false_eq_true, false_or, or_false]
    omega
  show execSliceComplete e r.slices s = _
  unfold execSliceComplete
  rw [h]
  exact congrArg answer (if_neg h0)

/-! ### Decoding -/

theorem exec_decodeRow {s : State} {e : Fin 4} {r : Running} {t : Stream} {n rows : Nat} (h : s.running e.val = some (r, t))
    (he : r.entry = some n) (hl : r.progress < rows) (hh : rows ≤ r.height)
    (hm : rows % (t.picture r.data r.height).side = 0 ∨ rows = r.height) (hd : r.data ≠ []) (hx : t.exceeds r.data = false) (hn : r.denied = 0)
    (hc : s.planesCheck t n = 0) : exec (.decodeRowComplete e rows) s = answer (
      let prog := fld (t.recs.getD n []) 8 8
      let code := if prog = 0 then 0 else s.vidCheck t.part (localOf prog) 8
      if code ≠ 0 then s.setRun e.val { r with denied := code } else
      let s1 := (s.decodeRows t n r.data (t.picture r.data r.height) r.progress rows).setRun e.val { r with progress := rows }
      if prog = 0 then s1 else s1.vidStore t.part (localOf prog) (leBytes 8 rows)) := by
  have h0 : ¬ (rows ≤ r.progress ∨ r.height < rows ∨ (rows % (t.picture r.data r.height).side ≠ 0 ∧ rows ≠ r.height) ∨ r.data = [] ∨
      t.exceeds r.data = true ∨ r.denied ≠ 0) := by
    simp only [hd, hx, hn, ne_eq, not_true, Bool.false_eq_true, or_false]
    omega
  show execDecodeRowComplete e rows s = _
  unfold execDecodeRowComplete
  rw [h]
  dsimp only
  rw [he]
  dsimp only
  rw [if_neg h0, hc]
  rfl

/-! ### Ends of frames -/

theorem State.runningOf_eq {s : State} {e i : Nat} {r : Running} {t : Stream} (h : s.running e = some (r, t)) (hi : r.sub.stream = i) :
    s.runningOf e i = some (r, t) := by
  unfold State.runningOf
  simp [h, hi]

section
variable {s : State} {e : Fin 4} {i : Fin 256} {r : Running} {t : Stream} (h : s.running e.val = some (r, t)) (hi : r.sub.stream = i.val)
include h hi

theorem exec_frameComplete_encode (he : r.entry = none) : exec (.frameComplete e i) s = .next (s.encodeDone e.val r t).settle := by
  show execFrameComplete e i s = _
  unfold execFrameComplete
  rw [State.runningOf_eq h hi]
  dsimp only
  rw [he]
  rfl

theorem exec_frameComplete_decode {n : Nat} (he : r.entry = some n) :
    exec (.frameComplete e i) s = .next (s.decodeDone e.val n r t false).settle := by
  show execFrameComplete e i s = _
  unfold execFrameComplete
  rw [State.runningOf_eq h hi]
  dsimp only
  rw [he]
  rfl

theorem exec_videoWatchdog {n : Nat} (he : r.entry = some n) : exec (.videoWatchdog e i) s =
    .next ((s.decodeDone e.val n r t true).modEngine e.val fun g => { g with wdog := satInc g.wdog 0xFFFF }).settle := by
  show execVideoWatchdog e i s = _
  unfold execVideoWatchdog
  rw [State.runningOf_eq h hi]
  dsimp only
  rw [he]
  rfl
end

theorem State.encodeDone_whole {s : State} {e : Nat} {r : Running} {t : Stream} (hn : r.denied = 0) (hf : r.full = false)
    (hs : t.slices r.height ≤ r.slices) :
    s.encodeDone e r t = (s.endFrame e r { t with frames := t.frames + 1, fed := t.fed ++ [r.data] }).subDone t.part
        r.sub 0 (r.progress + t.frames % 65536 * 2 ^ 32 +
          flag (!decide (t.frames = 0 ∨ (fld t.block 0x2C 2 ≠ 0 ∧ t.frames % fld t.block 0x2C 2 = 0))) 48 + flag r.clamped 49) := by
  unfold State.encodeDone
  rw [if_neg (not_not_intro hn), if_neg (by rw [hf]; decide), if_neg (Nat.not_lt.2 hs)]

theorem State.encodeDone_full {s : State} {e : Nat} {r : Running} {t : Stream} (hn : r.denied = 0) (hf : r.full = true)
    (hl : 8 ≤ r.sub.len) : s.encodeDone e r t =
      ((s.vidStore t.part r.sub.buf (List.replicate 8 255)).endFrame e r t).subDone t.part r.sub 0x0A07 0 := by
  unfold State.encodeDone
  rw [if_neg (not_not_intro hn), if_pos hf, if_pos hl]

theorem State.encodeDone_denied {s : State} {e : Nat} {r : Running} {t : Stream} (hn : r.denied ≠ 0) :
    s.encodeDone e r t = (s.endFrame e r t).subDone t.part r.sub r.denied 0 := if_pos hn

theorem State.decodeDone_empty {s : State} {e n : Nat} {r : Running} {t : Stream} (hd : r.data = []) :
    s.decodeDone e n r t false = (s.endFrame e r t).subDone t.part r.sub 0 (0x20 * 2 ^ 32) := if_pos hd

theorem State.decodeDone_exceeds {s : State} {e n : Nat} {r : Running} {t : Stream} (hd : r.data ≠ []) (hx : t.exceeds r.data = true) :
    s.decodeDone e n r t false = (s.endFrame e r { t with fed := t.fed ++ [r.data] }).subDone t.part r.sub 0 (4 * 2 ^ 32) :=
  (if_neg hd).trans (if_pos hx)

/-- Settles O38: what a stream's unit leaves is decided by its limits and by the first access that is refused. -/
theorem videoCommandsComplete : Obligations.VideoCommandsComplete := by
  intro s h e s0 put taken sub
  refine ⟨fun p s1 b s2 pool i a ho he h1 h2 h3 hp hq hf hb hl hk => exec_streamOpen a ho he h1 h2 h3 hp hq hf hb hl hk,
    fun p t a ho he h1 h2 h3 hp hn ht hq => exec_streamClose a ho he h1 h2 h3 hp hn ht hq,
    fun t a h1 hn ht hd hp hs => exec_submit_decode a h1 hn ht hp hs hd,
    fun t s1 b a h1 hn ht hd hp hs hf hw hh hb hc => exec_submit_encode a h1 hn ht hp hs hd hf hw hh hb hc,
    fun hr hb => ⟨fun i t b s1 d hs ha => exec_frameStart_spoilt hr hb hs ha, fun i t b hs hn => ⟨fun hd hf => exec_frameStart_noEntry hr hb hs hn hd hf,
      fun s2 hd hl => ?_⟩⟩,
    fun r t hr hd hf hn hs => ?_, fun r t n rows hr he hl hh hm hd hx hn hc => ?_,
    fun r t i hr hi he hn hf hs => (exec_frameComplete_encode hr hi he).trans (settle_congr (State.encodeDone_whole hn hf hs)),
    fun r t i hr hi he hn hf hl => (exec_frameComplete_encode hr hi he).trans (settle_congr (State.encodeDone_full hn hf hl)),
    fun r t i hr hi he hn => (exec_frameComplete_encode hr hi he).trans (settle_congr (State.encodeDone_denied hn)),
    fun r t n i hr hi he => ⟨exec_frameComplete_decode hr hi he, exec_videoWatchdog hr hi he, State.decodeDone_empty, State.decodeDone_exceeds⟩⟩
  · have hrun := exec_frameStart hr hb hs hn hd
    rw [State.switched_eq hl] at hrun
    refine ⟨fun s3 data height clamped hu => ?_, fun s3 code d hu => ?_⟩
    · rw [hu] at hrun
      exact hrun
    · rw [hu] at hrun
      exact hrun
  · have hrun := exec_sliceComplete hr hd hf hn hs
    intro bytes n
    refine ⟨fun hl => hrun.trans (congrArg answer (if_pos hl)), fun hl hc => hrun.trans (congrArg answer ((if_neg (Nat.not_lt.2 hl)).trans (if_pos hc))),
      fun hl hc => ?_⟩
    have hrun' := hrun.trans (congrArg answer ((if_neg (Nat.not_lt.2 hl)).trans (if_neg (not_not_intro hc))))
    refine ⟨fun hb => hrun'.trans (congrArg answer (if_neg (by rw [hb]; decide))), fun qp hb hp => ?_⟩
    refine hrun'.trans (congrArg answer ((if_pos hb).trans ?_))
    rw [hp]
  · have hrun := exec_decodeRow hr he hl hh hm hd hx hn hc
    intro prog s1
    refine ⟨fun hp => hrun.trans ?_, fun hp hv => hrun.trans ?_⟩
    · dsimp only
      rw [if_pos hp, if_neg (not_not_intro rfl), if_pos hp]
      rfl
    · dsimp only
      rw [if_neg hp, if_neg (not_not_intro hv), if_neg hp]
      rfl

end Sys2Proof.Machine
end

section
/-! Firmware commands, restarts of Lantern, reports, and the exit from bivouac mode (R364 to R377, R399). -/
namespace Sys2Proof.Machine

/-! ### Staging -/

/-- Where a staged object goes, and the number its command is answered with. -/
def State.stagePlace (s : State) (image : Bool) : Option (Region × Nat) :=
  if image then s.stageSlot.map (fun n => (Region.slot n, n)) else some (.staged, 2)

section
variable {s s1 : State} {h : HostCmd} {bs : List Byte} {image : Bool} (a : s.admits h 0x40 none) (hi : h.arg 12 1 = if image then 0 else 1)
  (hz : h.zero 13 35 = true) (hf : (s.turn h).fetch 0xFF (h.arg 0 8) (h.arg 8 4) = (s1, .ok bs))
include a hi hz hf

/-- An object whose command is in order and whose bytes are read. -/
theorem exec_firmwareStage {ok w : Bool} {s2 : State} {st res : Nat} (e : (if s1.stageFault image bs ≠ 0 then no s1 (s1.stageFault image bs)
      else match s1.stagePlace image with
        | none => no s1 0x0B06
        | some (r, n) =>
          if ¬ ok then no s1 0x0B08
          else if w then (s1.program false r (some bs), .now 0 n) else no (s1.program false r none) 0x0B08) = (s2, .now st res)) :
    exec (.firmwareStage h ok w) s = .next (s2.complete h 0x40 st res).settle := by
  have h0 : ¬ (1 < h.arg 12 1 ∨ ¬ h.zero 13 35 = true) := by
    rw [hi, hz]
    cases image <;> simp
  have hb : (h.arg 12 1 == 0) = image := by
    rw [hi]
    cases image <;> rfl
  refine answer_now a ?_
  dsimp only
  rw [if_neg h0, hf, hb]
  exact e

theorem exec_firmwareStage_refused (ok w : Bool) (hv : s1.stageFault image bs ≠ 0) :
    exec (.firmwareStage h ok w) s = .next (s1.complete h 0x40 (s1.stageFault image bs) 0).settle :=
  exec_firmwareStage a hi hz hf (if_pos hv)

variable (hv : s1.stageFault image bs = 0) {r : Region} {n : Nat} (hp : s1.stagePlace image = some (r, n))
include hv hp

theorem exec_firmwareStage_done : exec (.firmwareStage h true true) s = .next ((s1.program false r (some bs)).complete h 0x40 0 n).settle := by
  refine exec_firmwareStage a hi hz hf ?_
  rw [if_neg (not_not_intro hv), hp]
  rfl

theorem exec_firmwareStage_unwritten :
    exec (.firmwareStage h true false) s = .next ((s1.program false r none).complete h 0x40 0x0B08 0).settle := by
  refine exec_firmwareStage a hi hz hf ?_
  rw [if_neg (not_not_intro hv), hp]
  rfl

theorem exec_firmwareStage_unerased (w : Bool) : exec (.firmwareStage h false w) s = .next (s1.complete h 0x40 0x0B08 0).settle := by
  refine exec_firmwareStage a hi hz hf ?_
  rw [if_neg (not_not_intro hv), hp]
  rfl
end

/-- Firmware writes every region but two (R364). -/
theorem State.program_written {s : State} {r : Region} (h1 : r ≠ .rollback) (h2 : r ≠ .carrier) (o : Option (List Byte)) :
    s.program false r o = { s with flash := s.flash.put r o } := by
  have h : s.sec.mayWrite false r = true := by
    cases r with
    | rollback => exact absurd rfl h1
    | carrier => exact absurd rfl h2
    | dirA => rfl
    | dirB => rfl
    | slot n => rfl
    | staged => rfl
  exact if_pos h

/-! ### Activation -/

theorem State.program_sec (s : State) (rom : Bool) (r : Region) (o : Option (List Byte)) : (s.program rom r o).sec = s.sec := by
  unfold State.program
  split <;> rfl

theorem State.writeDir_sec (s : State) (rom : Bool) (d t : Nat) : (s.writeDir rom d t).sec = s.sec := by
  unfold State.writeDir
  split
  · exact State.program_sec _ _ _ _
  · exact State.program_sec _ _ _ _
  · exact State.program_sec _ _ _ _

/-- Outside recovery the rollback region alone gives MINSEC. -/
theorem State.activateMin_eq {s : State} {m : Nat} (h : s.minsecNow = some m) (hs : s.sec.stage ≠ 6) : s.activateMin = some m := by
  unfold State.activateMin
  rw [h, if_neg hs]

section
variable {s : State} {h : HostCmd} {m : Nat} (a : s.admits h 0x41 none) (h0 : h.arg 0 1 ≤ 1) (hz : h.zero 3 45 = true)
  (hm : (s.turn h).minsecNow = some m) (hc : (s.turn h).slotCheck (h.arg 0 1) m = 0) (hs : (s.turn h).sec.stage ≠ 6)
include a h0 hz hm hc hs

theorem exec_firmwareActivate_default (h1 : h.arg 1 1 = 1) (h2 : h.arg 2 1 = 0) (hw : (s.turn h).sec.wantRestart = none) :
    exec (.firmwareActivate h) s = .next (((s.turn h).writeDir false (h.arg 0 1) 0xFF).complete h 0x41 0 0).settle := by
  have hb : ¬ (1 < h.arg 0 1 ∨ 1 < h.arg 1 1 ∨ 1 < h.arg 2 1 ∨ ¬ h.zero 3 45 = true) := by
    simp only [hz, not_true, or_false]
    omega
  have h3 : ¬ h.arg 1 1 = 0 := by omega
  have h4 : ¬ (h.arg 2 1 = 1 ∨ (s.turn h).sec.stage = 6) := by
    rintro (q | q)
    · omega
    · exact hs q
  refine answer_now a ?_
  dsimp only
  rw [if_neg hb, State.activateMin_eq hm hs]
  dsimp only
  rw [if_neg (not_not_intro hc), if_neg h3, if_neg h4, hw]
  have hk : ((s.turn h).writeDir false (h.arg 0 1) 0xFF).sec.wantRestart = none := by rw [State.writeDir_sec, hw]
  generalize (s.turn h).writeDir false (h.arg 0 1) 0xFF = s1 at hk
  rw [← hk]

theorem exec_firmwareActivate_try (h1 : h.arg 1 1 = 0) (h2 : h.arg 2 1 = 1) :
    let s1 := (s.turn h).writeDir false (((s.turn h).flash.dir.map fun d => d.2.dflt).getD (h.arg 0 1)) (h.arg 0 1)
    exec (.firmwareActivate h) s =
      .next (({ s1 with sec := { s1.sec with wantRestart := some h.ref } } : State).complete h 0x41 0 0).settle := by
  have hb : ¬ (1 < h.arg 0 1 ∨ 1 < h.arg 1 1 ∨ 1 < h.arg 2 1 ∨ ¬ h.zero 3 45 = true) := by
    simp only [hz, not_true, or_false]
    omega
  intro s1
  refine answer_now a ?_
  dsimp only
  rw [if_neg hb, State.activateMin_eq hm hs]
  dsimp only
  rw [if_neg (not_not_intro hc), if_pos h1, if_pos (.inl h2)]
end

/-! ### Restarts -/

theorem exec_lanternRestart {s : State} {q : CmdRef} (hq : s.sec.wantRestart = some q)
    (hr : s.eth.recs.any (fun r => Path.roce r.qp == q.path && r.cmdid == q.id && !r.unsol) = false) :
    exec .lanternRestart s = answer (if s.sec.stage = 6 then
        { s.remakeRollback with sec := { s.remakeRollback.sec with stage := 1, wantRestart := none } }
      else s.restartLantern) := by
  show execLanternRestart s = _
  unfold execLanternRestart
  rw [hq]
  dsimp only
  rw [if_neg (by rw [hr]; decide)]

theorem State.restartLantern_eq {s : State} (h : (s.startImage s.sec.minsec).sec.stage = 2) : s.restartLantern =
    { s.startImage s.sec.minsec with sec := { (s.startImage s.sec.minsec).sec with
        restart := s.sec.restart || decide (5 ≤ s.sec.stage), wantRestart := none } } := if_pos h

/-! ### Reports -/

/-- The state once a report's number is taken. -/
def State.reported (s : State) : State := { s with core := s.core.readWclk.2, sec := { s.sec with rseq := s.sec.rseq + 1 } }

/-- The signed report of a state (Table 18.4). -/
def State.report (s : State) (nonce : List Byte) : List Byte :=
  let head := s.reported.reportHead s.core.readWclk.1 (s.sec.rseq + 1) nonce
  head ++ slice (mlSign (mlKeyGen (s.sec.seed.getD [])).2 head) 0 2420

/-- The certificate chain that goes with a report. -/
def State.reportChain (s : State) (certs : Nat) : List Byte := if certs = 1 then s.flash.chain.take 16384 else []

section
variable {s : State} {h : HostCmd} (a : s.admits h 0x42 none) (h1 : h.arg 40 1 ≤ 1) (hz : h.zero 41 7 = true) (hi : (s.turn h).sec.idok = true)
include a h1 hz hi

theorem exec_report_host {qp : Nat} (hp : h.path = .roce qp) :
    let s1 := (s.turn h).reported
    let chain := (s.turn h).reportChain (h.arg 40 1)
    let rep := (s.turn h).report (slice h.args 0 32)
    let s2 := s1.request qp (.hostWrite qp (h.arg 32 8) (s1.eth.queue qp).rkey rep) rep
    exec (.attestationReport h) s = .next ((if chain.isEmpty then s2 else s2.request qp
      (.hostWrite qp (h.arg 32 8 + 5184) (s1.eth.queue qp).rkey chain) chain).complete h 0x42 0
        (((s.turn h).sec.rseq + 1) % 2 ^ 48 + chain.length * 2 ^ 48)).settle := by
  have h0 : ¬ (1 < h.arg 40 1 ∨ ¬ h.zero 41 7 = true ∨ (¬ true = true ∧ h.arg 32 8 ≠ 0)) := by
    simp only [hz, not_true, false_and, or_false]
    omega
  intro s1 chain rep s2
  refine answer_now a ?_
  dsimp only
  rw [hp]
  dsimp only
  rw [if_neg h0, if_neg (not_not_true hi)]
  rfl

theorem exec_report_other (hp : ∀ qp, h.path ≠ .roce qp) (ha : h.arg 32 8 = 0) :
    let chain := (s.turn h).reportChain (h.arg 40 1)
    exec (.attestationReport h) s = .next ((s.turn h).reported.complete h 0x42 0
        (((s.turn h).sec.rseq + 1) % 2 ^ 48 + chain.length * 2 ^ 48) 3 [] h.ctx ((s.turn h).report (slice h.args 0 32) ++ chain)).settle := by
  have h0 : ¬ (1 < h.arg 40 1 ∨ ¬ h.zero 41 7 = true ∨ (¬ false = true ∧ h.arg 32 8 ≠ 0)) := by
    simp only [hz, ha, not_true, ne_eq, and_false, or_false]
    omega
  intro chain
  refine answer_now a ?_
  dsimp only
  cases hq : h.path with
  | roce qp => exact absurd hq (hp qp)
  | mailbox n =>
    dsimp only
    rw [if_neg h0, if_neg (not_not_true hi)]
    rfl
  | mctp b n =>
    dsimp only
    rw [if_neg h0, if_neg (not_not_true hi)]
    rfl
end

/-! ### The exit from bivouac mode -/

section
variable {s : State} {h : HostCmd} (a : s.admits h 0x50 none) (hz : h.zero 0 48 = true)
include a hz

theorem exec_bivouacExit_idle (hb : (s.turn h).lan.bivActive = false) (cause : Option (Fin 8)) :
    exec (.bivouacExit h cause) s = .next ((s.turn h).complete h 0x50 0 2).settle := by
  refine answer_now a ?_
  dsimp only
  rw [if_neg (not_not_true hz), if_pos (by rw [hb]; decide)]

/-- The cause that bring-up meets. -/
def State.exitCause (s : State) (cause : Option (Fin 8)) : Option Nat :=
  if s.board.refclk ∧ ¬ s.board.thermtrip then cause.map (fun c => c.val + 1) else some 4

theorem exec_bivouacExit_clear {cause : Option (Fin 8)} (hb : (s.turn h).lan.bivActive = true) (hc : (s.turn h).exitCause cause = none) :
    exec (.bivouacExit h cause) s = .next (((s.turn h).bringUp.complete h 0x50 0 0).journal Src.lantern { kind := 6 }).settle := by
  unfold State.exitCause at hc
  refine answer_later a ?_
  dsimp only
  rw [if_neg (not_not_true hz), if_neg (not_not_true hb), hc]

theorem exec_bivouacExit_cause {cause : Option (Fin 8)} {c : Nat} (hb : (s.turn h).lan.bivActive = true)
    (hc : (s.turn h).exitCause cause = some c) :
    exec (.bivouacExit h cause) s = .next (((s.turn h).bringUp.complete h 0x50 0 (1 + c * 2 ^ 8)).bivouac c).settle := by
  unfold State.exitCause at hc
  refine answer_later a ?_
  dsimp only
  rw [if_neg (not_not_true hz), if_neg (not_not_true hb), hc]
end

/-- Settles O39: the slots, the directory and the device key decide each command's branch. -/
theorem firmwareCommandsComplete : Obligations.FirmwareCommandsComplete := by
  intro s h s0
  refine ⟨fun s1 bs n a hi hz hf hv hs => ?_, fun s1 bs a hi hz hf hv => ?_,
    fun s1 bs img ok w a hi hz hf hv => exec_firmwareStage_refused a hi hz hf ok w hv, fun r o h1 h2 => ?_, fun o => ⟨rfl, rfl⟩,
    fun m a h0 h1 h2 hz hm hc hs hw => exec_firmwareActivate_default a h0 hz hm hc hs h1 h2 hw,
    fun m a h0 h1 h2 hz hm hc hs => exec_firmwareActivate_try a h0 hz hm hc hs h1 h2, fun q hq hr => ⟨fun hs => ?_, fun hs h2 => ?_⟩,
    fun a h1 hz hi => ?_, fun cause a hz hb => exec_bivouacExit_idle a hz hb cause, fun a hz hb hc ht => exec_bivouacExit_clear a hz hb ?_,
    fun cause c a hz hb hc h0 => exec_bivouacExit_cause a hz hb ?_⟩
  · have hp : s1.stagePlace true = some (.slot n, n) := by simp [State.stagePlace, hs]
    exact ⟨exec_firmwareStage_done (image := true) a hi hz hf hv hp, exec_firmwareStage_unwritten (image := true) a hi hz hf hv hp,
      exec_firmwareStage_unerased (image := true) a hi hz hf hv hp⟩
  · have hp : s1.stagePlace false = some (.staged, 2) := rfl
    exact ⟨exec_firmwareStage_done (image := false) a hi hz hf hv hp, exec_firmwareStage_unwritten (image := false) a hi hz hf hv hp,
      exec_firmwareStage_unerased (image := false) a hi hz hf hv hp⟩
  · rw [State.program_written h1 h2]
    exact ⟨rfl, rfl, rfl⟩
  · exact (exec_lanternRestart hq hr).trans (congrArg answer (if_pos hs))
  · exact (exec_lanternRestart hq hr).trans (congrArg answer ((if_neg hs).trans (State.restartLantern_eq h2)))
  · intro w s1 head rep chain res
    refine ⟨fun qp hp => ?_, fun hp ha => exec_report_other a h1 hz hi hp ha⟩
    have hrun := exec_report_host a h1 hz hi hp
    intro s2
    exact ⟨fun hc => hrun.trans (settle_congr (congrArg (fun x : State => x.complete h 0x42 0 res) (if_pos (by
        rw [show (s.turn h).reportChain (h.arg 40 1) = [] from hc]; rfl)))),
      fun hc => hrun.trans (settle_congr (congrArg (fun x : State => x.complete h 0x42 0 res) (if_neg fun q => hc (List.isEmpty_iff.1 q))))⟩
  · exact if_pos ⟨hc, by rw [ht]; decide⟩
  · unfold State.exitCause
    simp only [Bool.not_eq_true]
    by_cases hq : (s.turn h).board.refclk = true ∧ (s.turn h).board.thermtrip = false
    · rw [if_pos hq] at hc
      rw [if_pos hq]
      cases cause with
      | none => exact absurd hc h0
      | some x => exact congrArg some hc.symm
    · rw [if_neg hq] at hc
      rw [if_neg hq, hc]

end Sys2Proof.Machine
end

section
/-! Addresses of registers (R97, R98), and command and completion rings (R302 to R306). -/
namespace Sys2Proof.Machine

/-! ### Registers by address -/

/-- Registers of slots lie in the SCH and LDL blocks alone. -/
theorem slotRegOf_block {n o : Nat} (h1 : n ≠ 0x0B) (h2 : n ≠ 0x02) (ho : o < 0x1000000) : slotRegOf (blockOff n + o) = none := by
  unfold slotRegOf blockOff
  generalize mgmtBase = m
  dsimp only
  rw [if_neg (by omega), if_neg (by omega), if_neg (by omega), if_neg (by omega), if_neg (by omega)]

/-- Where the offsets of a block lie. -/
theorem block_bounds {m e n o : Nat} (hend : e = m + 0x11000000) (hbase : m % 0x1000000 = 0) (hn : n ≤ 0x10) (ho : o < 0x1000000) :
    (m ≤ m + n * 0x1000000 + o ∧ m + n * 0x1000000 + o < e) ∧ (m + n * 0x1000000 + o - m) / 0x1000000 = n ∧
      (m + n * 0x1000000 + o) % 0x1000000 = o := by
  omega

/-- An address that is no slot register's names a register of its block. -/
theorem regAt_eq {a : Nat} (h : slotRegOf a = none) : regAt a =
    if mgmtBase ≤ a ∧ a < mgmtEnd then blockReg ((a - mgmtBase) / 0x1000000) (a % 0x1000000) else none := by
  unfold regAt
  rw [h]

/-- An address of a block that is no slot register's names the block's register at its offset. -/
theorem regAt_of_block {n o : Nat} (hn : n ≤ 0x10) (ho : o < 0x1000000) (h : slotRegOf (blockOff n + o) = none) :
    regAt (blockOff n + o) = blockReg n o := by
  have hend : mgmtEnd = mgmtBase + 0x11000000 := by decide
  have hbase : mgmtBase % 0x1000000 = 0 := by decide
  have hoff : blockOff n = mgmtBase + n * 0x1000000 := by simp only [blockOff]
  have hb := block_bounds hend hbase hn ho
  rw [← hoff] at hb
  generalize blockOff n + o = a at h hb ⊢
  obtain ⟨hin, hblock, hreg⟩ := hb
  rw [regAt_eq h, if_pos hin, hblock, hreg]

/-- A register of a block without slot registers, at an aligned offset. -/
theorem regAt_block {n o : Nat} {r : Reg} (hn : n ≤ 0x10) (h1 : n ≠ 0x0B) (h2 : n ≠ 0x02) (ho : o < 0x1000000) (hr : blockReg n o = some r)
    (ha : o % 8 = 0) : regAt (blockOff n + o) = some r ∧ (blockOff n + o) % 8 = 0 := by
  have hbase : mgmtBase % 8 = 0 := by decide
  have hoff : blockOff n = mgmtBase + n * 0x1000000 := by simp only [blockOff]
  exact ⟨(regAt_of_block hn ho (slotRegOf_block h1 h2 ho)).trans hr, by omega⟩

/-- The registers of a queue (R301). -/
theorem regAt_queue {n k : Nat} {r : Reg} (hn : n < 4096) (hk : (k = 0 ∧ r = .cmdq n) ∨ (k = 8 ∧ r = .cplq n) ∨ (k = 16 ∧ r = .cplkey n)) :
    regAt (blockOff 0x08 + 0x10000 + n * 0x20 + k) = some r ∧ (blockOff 0x08 + 0x10000 + n * 0x20 + k) % 8 = 0 := by
  have hr : blockReg 0x08 (0x10000 + n * 0x20 + k) = some r := by
    have hd : (0x10000 + n * 0x20 + k - 0x10000) / 0x20 = n := by omega
    have hm : (0x10000 + n * 0x20 + k) % 0x20 = k := by omega
    show ethReg _ = _
    unfold ethReg
    rw [if_neg (by omega), if_pos (by omega), hm, hd]
    obtain ⟨rfl, rfl⟩ | ⟨rfl, rfl⟩ | ⟨rfl, rfl⟩ := hk <;> rfl
  have h := regAt_block (n := 0x08) (by decide) (by decide) (by decide) (by omega) hr (by omega)
  rwa [show blockOff 0x08 + (0x10000 + n * 0x20 + k) = blockOff 0x08 + 0x10000 + n * 0x20 + k by omega] at h

/-- The journal leaves every part but the compute side. -/
theorem State.logged_beside (s : State) (p : Path) (a : Nat) (r : Reg) (v : Nat) : ∃ c, s.logged p a r v = { s with core := c } := by
  obtain ⟨m, x, w, q, j, o, e⟩ := s.logged_ok p a r v
  exact ⟨_, e⟩

theorem State.logged_eth (s : State) (p : Path) (a : Nat) (r : Reg) (v : Nat) : (s.logged p a r v).eth = s.eth := by
  obtain ⟨c, e⟩ := s.logged_beside p a r v
  rw [e]

/-- A change of the Ethernet side is its value's. -/
theorem State.onEth_eq {s : State} {f g : Eth → Eth} (h : f s.eth = g s.eth) : s.onEth f = s.onEth g :=
  congrArg (fun e => { s with eth := e }) h

theorem State.regApply_cmdq (s : State) (n v : Nat) : s.regApply (.cmdq n) v = s.onEth fun e => e.setQueue n { e.queue n with
    addr := v / 4096 * 4096, log2d := v % 16, chead := 0, ctail := 0, cpltail := 0, cplhead := 0, stale := false, stopped := false } := rfl

theorem State.regApply_cplq (s : State) (n v : Nat) :
    s.regApply (.cplq n) v = s.onEth fun e => e.setQueue n { e.queue n with haddr := v } := rfl

theorem State.regApply_cplkey (s : State) (n v : Nat) : s.regApply (.cplkey n) v = s.onEth fun e => e.setQueue n { e.queue n with
    rkey := v / 2 ^ 32, clog2d := v % 16 } := rfl

/-! ### Doorbells -/

/-- A doorbell that reaches its queue. -/
theorem State.ring_ok {s : State} {qp n o : Nat} {act : State → State} (ht : s.through (.roce qp) (s.spellings (pageBase + n * 4096 + o)) 8 true = true)
    (hm : s.mayRing qp n = true) : s.ring qp n o act = act s := by
  unfold State.ring
  rw [if_neg (not_not_true ht), if_neg (not_not_true hm)]

theorem State.cmdtail_taken {s : State} {qp n v a : Nat} (h1 : v < 65536) (h2 : (v + 65536 - (s.eth.queue n).chead) % 65536 ≤ 2 ^ (s.eth.queue n).log2d)
    (h3 : ((s.eth.queue n).ctail + 65536 - (s.eth.queue n).chead) % 65536 ≤ (v + 65536 - (s.eth.queue n).chead) % 65536) :
    s.cmdtail qp n v a = s.onEth fun e => e.setQueue n { s.eth.queue n with ctail := v } := if_pos ⟨h1, h2, h3⟩

theorem State.cmdtail_refused {s : State} {qp n v a : Nat} (h : 2 ^ (s.eth.queue n).log2d < (v + 65536 - (s.eth.queue n).chead) % 65536) :
    s.cmdtail qp n v a = s.unsolicited qp 0xFFFF 0x0803 0 a := if_neg fun q => absurd q.2.1 (Nat.not_le.2 h)

/-! ### Entries -/

/-- An entry in order becomes a command that has started. -/
theorem State.enter_started {s : State} {h : HostCmd} (hg : s.gate h.path h.opc ≠ .deny) (ha : s.allow h h.opc none = 0)
    (hf : firmwareOpc h.opc = false ∨ s.started.any (fun x => firmwareOpc x.opc) = false) :
    s.enter h false = { s with started := s.started ++ [h] } := by
  have hb : (firmwareOpc h.opc && s.started.any (fun x => firmwareOpc x.opc)) = false := by
    rcases hf with hf | hf
    · rw [hf, Bool.false_and]
    · rw [hf, Bool.and_false]
  unfold State.enter
  rw [if_neg (by decide)]
  cases hq : s.gate h.path h.opc with
  | deny => exact absurd hq hg
  | run => simp [hb, ha]
  | wait => simp [hb, ha]

/-- A ring whose next entry can be read. -/
structure State.RingReads (s : State) (n : Nat) (b : List Byte) : Prop where
  addr : (s.eth.queue n).addr ≠ 0
  goes : (s.eth.queue n).stopped = false
  some : (s.eth.queue n).chead ≠ (s.eth.queue n).ctail
  stage : s.sec.stage = 5
  up : s.sec.restart = false
  access : s.core.access (s.core.qpOwner n) (s.core.partPantry (s.core.qpOwner n))
    (localOf (s.eth.queue n).addr + (s.eth.queue n).chead % 2 ^ (s.eth.queue n).log2d * 64) 64 false = 0
  clean : s.noErrors
  bytes : s.core.mem.read (localOf (s.eth.queue n).addr + (s.eth.queue n).chead % 2 ^ (s.eth.queue n).log2d * 64) 64 = b

theorem State.readEntry_eq {s : State} {n : Nat} {b : List Byte} (r : s.RingReads n b) : s.readEntry n = (
    let q := s.eth.queue n
    let h := entryCmd (.roce n) b
    if bit h.flags 0 ≠ (q.chead / 2 ^ q.log2d % 2 == 0) then s.onEth fun e => e.setQueue n { q with stale := true }
    else if bit h.flags 2 ∧ (q.running ≠ 0 ∨ s.eth.recs.any (fun r => r.qp == n && !r.unsol)) then s
    else (s.onEth fun e => e.setQueue n { q with chead := (q.chead + 1) % 65536, running := q.running + 1, stale := false }).enter h
      (entryBad b h)) := by
  obtain ⟨h1, h2, h3, h4, h5, h6, h7, h8⟩ := r
  have h0 : ¬ ((s.eth.queue n).addr = 0 ∨ (s.eth.queue n).stopped = true ∨ (s.eth.queue n).chead = (s.eth.queue n).ctail ∨
      ¬ (s.sec.stage = 5 ∨ (s.lan.bivActive = true ∧ s.sec.stage = 7 ∧ s.serves n = true)) ∨ s.sec.restart = true) := by
    simp [h1, h2, h3, h4, h5]
  unfold State.readEntry
  dsimp only
  rw [if_neg h0, if_neg (not_not_intro h6), scanRange_clean h7]
  dsimp only
  rw [h8]
  rfl

/-! ### Settled -/

/-- Settles O40: a doorbell, an entry and a record each move one index of their ring, which the journal leaves as it was. -/
theorem queuesComplete : Obligations.QueuesComplete := by
  intro s n v q page
  refine ⟨fun qp hm => ⟨fun ht => ⟨fun h1 h2 h3 => ?_, fun h => ?_⟩, fun ht h1 h2 => ?_⟩, fun b h1 h2 h3 h4 h5 => ?_,
    fun r rest h1 h2 h3 h4 h5 h6 => ?_, fun p => ⟨fun g k => ?_, fun g k => ?_, fun g k => ?_⟩⟩
  · exact congrArg answer ((State.ring_ok (o := 0) ht hm).trans (State.cmdtail_taken h1 h2 h3))
  · exact congrArg answer ((State.ring_ok (o := 0) ht hm).trans (State.cmdtail_refused h))
  · exact congrArg answer ((State.ring_ok (o := 8) ht hm).trans (if_pos ⟨h1, h2⟩))
  · intro a o h6 h7 h8 h
    have hread := State.readEntry_eq (s := s) (n := n.val) (b := b) ⟨h1, h2, h3, h4, h5, h6, h7, h8⟩
    refine ⟨fun hp hfence hbad hg ha hf => ?_, fun hp hs => ?_⟩
    · have hfn : ¬ (bit h.flags 2 = true ∧ (q.running ≠ 0 ∨ s.eth.recs.any (fun r => r.qp == n.val && !r.unsol) = true)) := by
        rintro ⟨f1, f2⟩
        rcases hfence with f | ⟨f, g⟩
        · exact absurd f1 (by rw [f]; decide)
        · rcases f2 with f2 | f2
          · exact f2 f
          · exact absurd f2 (by rw [g]; decide)
      have hgo := hread.trans ((if_neg (not_not_intro hp)).trans (if_neg hfn))
      rw [hbad] at hgo
      intro s1
      replace hgo : s.readEntry n.val = s1 := hgo.trans (State.enter_started hg ha hf)
      exact ⟨fun hs => congrArg answer ((if_neg (by rw [show (s.eth.queue n.val).stale = false from hs]; decide)).trans hgo),
        fun hs => congrArg answer ((if_pos hs).trans hgo)⟩
    · exact congrArg answer ((if_neg (by rw [show (s.eth.queue n.val).stale = false from hs]; decide)).trans (hread.trans (if_pos hp)))
  · intro w b s1 s2 s3 s4
    have h0 : ¬ (q.addr = 0 ∨ q.stopped = true ∨ ¬ ((s.eth.qp n.val).state = .ready ∨ (s.eth.qp n.val).state = .error) ∨
        ¬ s.serves n.val = true ∨ 2 ^ q.clog2d ≤ (q.cpltail + 65536 - q.cplhead) % 65536) := by
      simp only [h2, h3, h4, h5, not_true, Bool.false_eq_true, false_or]
      omega
    show execCompletionRecordWrite n s = _
    unfold execCompletionRecordWrite
    rw [h1]
    exact congrArg answer (if_neg h0)
  · refine (exec_regRow (a := blockOff 0x08 + 0x10000 + n.val * 0x20 + 0) rfl (regAt_queue n.isLt (.inl ⟨rfl, rfl⟩)) g k).trans
      (settle_congr ((State.regApply_cmdq _ _ _).trans (State.onEth_eq ?_)))
    rw [State.logged_eth]
  · refine (exec_regRow (a := blockOff 0x08 + 0x10000 + n.val * 0x20 + 8) rfl (regAt_queue n.isLt (.inr (.inl ⟨rfl, rfl⟩))) g k).trans
      (settle_congr ((State.regApply_cplq _ _ _).trans (State.onEth_eq ?_)))
    rw [State.logged_eth]
  · refine (exec_regRow (a := blockOff 0x08 + 0x10000 + n.val * 0x20 + 16) rfl (regAt_queue n.isLt (.inr (.inr ⟨rfl, rfl⟩))) g k).trans
      (settle_congr ((State.regApply_cplkey _ _ _).trans (State.onEth_eq ?_)))
    rw [State.logged_eth]

end Sys2Proof.Machine
end

section
/-! Queue pairs: RDMA through windows, connections and timers (R297 to R299, R306). -/
namespace Sys2Proof.Machine

/-! ### RDMA -/

/-- A WRITE whose window covers it reaches main memory. -/
theorem exec_rdmaWrite {s : State} {qp : Fin 4096} {va : W64} {rkey : W32} {data : List Byte} {l : Nat} (hc : s.carries qp.val = true)
    (hn : data.length ≤ 2 ^ 31) (hw : s.inWindow qp.val va.toNat rkey.toNat data.length true = true) (hd : data ≠ [])
    (hl : s.local? va.toNat = some l) (ha : (areaOf l).1 = .hbm) (hm : s.qpMem qp.val l data.length true = 0) :
    exec (.rdmaWriteReceived qp va rkey data) s = .next (s.onCore fun c => c.store l data).settle := by
  have h0 : ¬ data.length = 0 := fun q => hd (List.length_eq_zero_iff.1 q)
  refine congrArg answer ?_
  dsimp only
  rw [if_neg (not_not_true hc), if_neg (Nat.not_lt.2 hn), if_neg (not_not_true hw), if_neg h0, hl]
  dsimp only
  rw [ha]
  exact if_pos hm

theorem exec_rdmaWrite_outside {s : State} {qp : Fin 4096} {va : W64} {rkey : W32} {data : List Byte} (hc : s.carries qp.val = true)
    (hn : data.length ≤ 2 ^ 31) (hw : s.inWindow qp.val va.toNat rkey.toNat data.length true = false) :
    exec (.rdmaWriteReceived qp va rkey data) s =
      .next ((s.wireQp qp.val (.roce qp.val "NAK remote access error" [])).qpError (.roce qp.val)).settle := by
  refine congrArg answer ?_
  dsimp only
  rw [if_neg (not_not_true hc), if_neg (Nat.not_lt.2 hn), if_pos (by rw [hw]; decide)]
  rfl

theorem exec_rdmaRead {s : State} {qp : Fin 4096} {va : W64} {rkey : W32} {len l : Nat} (hc : s.carries qp.val = true)
    (hn : len ≤ 2 ^ 31) (hr : s.core.readsOf qp.val < 16) (hw : s.inWindow qp.val va.toNat rkey.toNat len false = true) (hd : 0 < len)
    (hl : s.local? va.toNat = some l) (ha : (areaOf l).1 = .hbm) (hm : s.qpMem qp.val l len false = 0) (he : s.noErrors) :
    exec (.rdmaReadReceived qp va rkey len) s =
      .next (s.wireQp qp.val (.roce qp.val "read response" (s.core.mem.read l len))).settle := by
  have h0 : ¬ (2 ^ 31 < len ∨ 16 ≤ s.core.readsOf qp.val) := by omega
  refine congrArg answer ?_
  dsimp only
  rw [if_neg (not_not_true hc), if_neg h0, if_neg (not_not_true hw), if_neg (Nat.ne_of_gt hd), hl]
  dsimp only
  rw [ha]
  dsimp only
  rw [hm, if_neg (by decide), if_neg (by decide), State.readMem_clean he]

/-! ### Connections -/

theorem exec_req {s : State} {port : Fin 4} {service : W64} {remote mtu : Nat} {peer : Caller} {n : Nat} (hu : (s.eth.port port.val).up = true)
    (hs : s.serves (service.toNat % 64 * 64) = true)
    (hf : (span (service.toNat % 64 * 64) 64).find? (fun n => (s.eth.qp n).state == .idle) = some n) (hm : mtu ∈ [256, 512, 1024, 2048, 4096]) :
    exec (.req port service remote mtu peer) s = .next ((s.free.2.onEth fun e => e.setQp n {
        state := .replied, port := port.val, remote := remote, mtu := mtu, retryCnt := peer.retry % 8, retries := peer.retry % 8
        prio := peer.tc.val, epsn := peer.psn % 2 ^ 24, npsn := s.free.1 % 2 ^ 24 }).wirePort port.val (.roce n "REP" [])).settle := by
  have h0 : ¬ (¬ (s.eth.port port.val).up = true ∨ ¬ s.serves (service.toNat % 64 * 64) = true) := by simp [hu, hs]
  refine congrArg answer ?_
  dsimp only
  rw [if_neg h0, hf]
  exact if_pos (List.contains_iff_mem.2 hm)

theorem exec_req_full {s : State} {port : Fin 4} {service : W64} {remote mtu : Nat} {peer : Caller} (hu : (s.eth.port port.val).up = true)
    (hs : s.serves (service.toNat % 64 * 64) = true)
    (hf : (span (service.toNat % 64 * 64) 64).find? (fun n => (s.eth.qp n).state == .idle) = none) :
    exec (.req port service remote mtu peer) s = .next (s.wirePort port.val (.frame port.val "REJ no resources" [])).settle := by
  have h0 : ¬ (¬ (s.eth.port port.val).up = true ∨ ¬ s.serves (service.toNat % 64 * 64) = true) := by simp [hu, hs]
  refine congrArg answer ?_
  dsimp only
  rw [if_neg h0, hf]

/-! ### Timers -/

theorem Eth.qp_setQp (e : Eth) (n : Nat) (q : Qp) : (e.setQp n q).qp n = q := by
  unfold Eth.qp Eth.setQp
  dsimp only
  rw [lookup_insertKey, if_pos rfl]
  rfl

theorem State.retry_again {s : State} {qp : Nat} (h : (s.eth.qp qp).state = .ready) (hu : (s.eth.qp qp).unacked ≠ [])
    (hr : 0 < (s.eth.qp qp).retries) :
    s.retry qp = (s.eth.qp qp).unacked.foldl (fun (a : State) b => a.wireQp qp (.roce qp "retransmit" b.2))
      (s.onEth fun e => e.setQp qp { s.eth.qp qp with retries := (s.eth.qp qp).retries - 1 }) := by
  have h0 : ¬ ((s.eth.qp qp).state ≠ .ready ∨ (s.eth.qp qp).unacked = []) := by simp [h, hu]
  unfold State.retry
  dsimp only
  rw [if_neg h0, if_neg (Nat.ne_of_gt hr)]
  unfold State.sendAgain
  exact congrArg (fun q : Qp => q.unacked.foldl (fun (a : State) b => a.wireQp qp (.roce qp "retransmit" b.2))
    (s.onEth fun e => e.setQp qp { s.eth.qp qp with retries := (s.eth.qp qp).retries - 1 })) (Eth.qp_setQp s.eth qp _)

theorem State.retry_exhausted {s : State} {qp : Nat} (h : (s.eth.qp qp).state = .ready) (hu : (s.eth.qp qp).unacked ≠ [])
    (hr : (s.eth.qp qp).retries = 0) : s.retry qp = s.undeliverable qp := by
  have h0 : ¬ ((s.eth.qp qp).state ≠ .ready ∨ (s.eth.qp qp).unacked = []) := by simp [h, hu]
  exact (if_neg h0).trans (if_pos hr)

/-- Settles O41: a window that covers the access is found or not; connections move by their state. -/
theorem queuePairsComplete : Obligations.QueuePairsComplete := by
  intro s qp q
  refine ⟨fun va rkey data l hc hn hw hd hl ha hm => exec_rdmaWrite hc hn hw hd hl ha hm,
    fun va rkey data hc hn hw => exec_rdmaWrite_outside hc hn hw, fun va rkey len l hc hn hr hw hd hl ha hm he =>
    exec_rdmaRead hc hn hr hw hd hl ha hm he, fun h1 h2 h3 => congrArg answer (if_pos ⟨h1, h2, h3⟩), fun h => congrArg answer (if_pos h),
    fun port service remote mtu peer n hu hs hf hm => exec_req hu hs hf hm, fun port service remote mtu peer hu hs hf => exec_req_full hu hs hf,
    fun h => congrArg answer (if_pos h), fun h => congrArg answer (if_neg h), fun h => congrArg answer (if_pos h),
    fun h => congrArg answer (if_pos h), fun h hu hr => congrArg answer (State.retry_again h hu hr),
    fun h hu hr => congrArg answer (State.retry_exhausted h hu hr)⟩

end Sys2Proof.Machine
end

section
/-! Frames, ports and mailboxes (R295 to R298, R306 to R309), and the messages of management (R310, R311). -/
namespace Sys2Proof.Machine

/-! ### Ports -/

theorem Eth.port_modPort {e : Eth} {n : Nat} {f : Port → Port} (h : n < 4) : (e.modPort n f).port n = f (e.port n) := by
  simp [Eth.port, Eth.modPort, Vector.toList_setIfInBounds, h]

/-- A port that changes its state is reported. -/
theorem State.portState_changed {s : State} {n : Nat} {up : Bool} (h : (s.eth.port n).up = !up) : s.portState n up =
    (s.onEth fun e => e.modPort n fun p => { p with up := up }).telEvent 6
      (leBytes 1 (0x80 + n) ++ leBytes 1 (flag (!up) 0) ++ leBytes 1 (flag up 0)) := by
  unfold State.portState
  rw [if_neg (by rw [h]; cases up <;> decide)]

/-- A packet that is not marked calls for no CNP. -/
theorem State.cnp_unmarked (s : State) (port qp : Nat) : s.cnp port qp false = s := by
  unfold State.cnp
  exact if_neg (by simp)

/-- What a frame does on a port that is up. -/
theorem exec_frameReceived_ack {s : State} {port : Fin 4} {qp psn : Nat} (hu : (s.eth.port port.val).up = true) (hq : qp < 4096)
    (hs : (s.eth.qp qp).state ≠ .idle) : exec (.frameReceived port (.ack qp psn false)) s =
      .next (s.onEth fun e => e.setQp qp ((s.eth.qp qp).acked psn)).settle := by
  have h0 : ¬ (4096 ≤ qp ∨ (s.eth.qp qp).state = .idle) := by simp [hs, hq]
  refine congrArg answer ((if_neg (not_not_true hu)).trans ?_)
  dsimp only
  rw [if_neg h0, State.cnp_unmarked]
  rfl

theorem exec_frameReceived_roce {s : State} {port : Fin 4} {qp psn : Nat} (hu : (s.eth.port port.val).up = true) (hq : qp < 4096)
    (hs : (s.eth.qp qp).state = .ready ∨ (s.eth.qp qp).state = .replied) (hp : psn = (s.eth.qp qp).epsn) :
    exec (.frameReceived port (.roce qp psn false)) s = .next ((s.onEth fun e => e.setQp qp { s.eth.qp qp with
      epsn := (psn + 1) % 2 ^ 24 }).wireQp qp (.roce qp "ACK" (leBytes 3 psn))).settle := by
  have h0 : ¬ (4096 ≤ qp ∨ (s.eth.qp qp).state = .idle) := by rcases hs with hs | hs <;> simp [hs, hq]
  have h1 : ¬ (s.eth.qp qp).state = .error := by rcases hs with hs | hs <;> simp [hs]
  refine congrArg answer ((if_neg (not_not_true hu)).trans ?_)
  dsimp only
  rw [if_neg h0, if_neg h1, State.cnp_unmarked]
  exact if_pos hp

theorem exec_portUp {s : State} {port : Fin 4} (hm : s.portMay port.val = true) (hu : (s.eth.port port.val).up = false) :
    exec (.portUp port) s = .next (((s.onEth fun e => e.modPort port.val fun p => { p with andone := true }).onEth fun e =>
      e.modPort port.val fun p => { p with up := true }).telEvent 6 (leBytes 1 (0x80 + port.val) ++ leBytes 1 0 ++ leBytes 1 1)).settle := by
  have h : ((s.onEth fun e => e.modPort port.val fun p => { p with andone := true }).eth.port port.val).up = !true :=
    (congrArg Port.up (Eth.port_modPort (e := s.eth) port.isLt)).trans hu
  exact congrArg answer ((if_pos hm).trans (State.portState_changed h))

/-- The control registers of the ports (R296). -/
theorem regAt_portCtl {n : Nat} (h : n < 4) :
    regAt (blockOff 0x08 + n * 0x40) = some (.portCtl n) ∧ (blockOff 0x08 + n * 0x40) % 8 = 0 := by
  have hr : blockReg 0x08 (n * 0x40) = some (.portCtl n) := by
    show ethReg _ = _
    unfold ethReg
    rw [if_pos (by omega), show n * 0x40 % 0x40 = 0 by omega, show n * 0x40 / 0x40 = n by omega] <;> rfl
  exact regAt_block (by decide) (by decide) (by decide) (by omega) hr (by omega)

theorem State.portEnable_kept {s : State} {n v : Nat} (h : bit v 0 = true ∨ (s.eth.port n).up = false ∧ (s.eth.port n).andone = false) :
    s.portEnable n v = s.onEth fun e => e.modPort n fun p => { p with ctl := v } := by
  refine if_neg ?_
  rintro ⟨h1, h2⟩
  rcases h with h | ⟨h3, h4⟩
  · exact h1 h
  · simp [h3, h4] at h2

theorem State.portEnable_down {s : State} {n v : Nat} (h : bit v 0 = false) (hu : (s.eth.port n).up = true) :
    s.portEnable n v = ((s.onEth fun e => e.modPort n fun p => { p with ctl := v }).onEth fun e => e.modPort n fun p =>
      { p with up := false, andone := false }).telEvent 6 (leBytes 1 (0x80 + n) ++ leBytes 1 1 ++ leBytes 1 0) :=
  (if_pos ⟨by rw [h]; decide, .inl hu⟩).trans (if_pos hu)

/-! ### Mailboxes -/

/-- A mailbox row that reaches its mailbox. -/
theorem State.boxRow_ok {s : State} {p : Path} {m o n : Nat} {wr : Bool} {act : State → Nat × State} (hu : s.boxesUp = true)
    (ht : s.through p (s.spellings (boxBase + m * 4096 + o)) n wr = true) (hp : s.boxPath p = true) : s.boxRow p m o n wr act =
      if (act s).1 = 0 then (act s).2 else (act s).2.refuseAccess p (act s).1 (boxBase + m * 4096 + o) := by
  unfold State.boxRow
  rw [if_neg (not_not_true hu), if_neg (not_not_true ht), if_neg (not_not_true hp)]

/-- A row that is accepted. -/
theorem State.boxRow_done {s s1 : State} {p : Path} {m o n : Nat} {wr : Bool} {act : State → Nat × State} (hu : s.boxesUp = true)
    (ht : s.through p (s.spellings (boxBase + m * 4096 + o)) n wr = true) (hp : s.boxPath p = true) (ha : act s = (0, s1)) :
    s.boxRow p m o n wr act = s1 := by
  rw [State.boxRow_ok hu ht hp, ha]
  rfl

/-- A row that is refused. -/
theorem State.boxRow_refused {s s1 : State} {p : Path} {m o n code : Nat} {wr : Bool} {act : State → Nat × State} (hu : s.boxesUp = true)
    (ht : s.through p (s.spellings (boxBase + m * 4096 + o)) n wr = true) (hp : s.boxPath p = true) (ha : act s = (code, s1))
    (hc : code ≠ 0) : s.boxRow p m o n wr act = s1.refuseAccess p code (boxBase + m * 4096 + o) := by
  rw [State.boxRow_ok hu ht hp, ha]
  exact if_neg hc

theorem State.boxData_done {s : State} {p : Path} {m o : Nat} {bs : List Byte} (hs : isSender p m = true) (hf : (s.lan.box m).full = false)
    (hb : bs.length = 64 ∧ o = 0 ∨ (bs.length = 4 ∨ bs.length = 8) ∧ o % bs.length = 0 ∧ o + bs.length ≤ 64) :
    s.boxData p m o bs = (0, s.modBox m fun b => { b with data := putWords b.data o bs }) := by
  unfold State.boxData
  dsimp only
  rw [if_neg (not_not_intro hb), if_neg (not_not_true hs), if_neg (by rw [hf]; decide)]

section
variable {s : State} {p : Path} {m : Nat}

theorem State.boxGo_empty {v : Nat} (hs : isSender p m = true) (hf : (s.lan.box m).full = false) (hv : v = 1) : s.boxGo p m v =
    (0, if 16 ≤ m ∧ (s.eth.queue 0).addr ≠ 0 then (s.modBox m fun b => { b with full := true }).unsolicited 0 0xFFFE 0 0 m
      else s.modBox m fun b => { b with full := true }) := by
  subst hv
  unfold State.boxGo
  rw [if_neg (by decide), if_neg (not_not_true hs), if_neg (by rw [hf]; decide), if_neg (by decide)]
  rfl

theorem State.boxGo_full {v : Nat} (hs : isSender p m = true) (hf : (s.lan.box m).full = true) (hv : v ≤ 1) :
    s.boxGo p m v = (0x0805, s.modBox m Mailbox.refuse) := by
  unfold State.boxGo
  rw [if_neg (Nat.not_lt.2 hv), if_neg (not_not_true hs), if_pos hf]

theorem State.boxGo_receiver {v : Nat} (hs : isSender p m = false) (hv : v ≤ 1) : s.boxGo p m v = (0, s) := by
  unfold State.boxGo
  rw [if_neg (Nat.not_lt.2 hv), if_pos (by rw [hs]; decide)]
end

theorem State.boxTake_receiver {s : State} {p : Path} {m : Nat} (hs : isSender p m = false) :
    s.boxTake p m = (flag (s.lan.box m).full 0, s.modBox m fun b => { b with full := false }) := by
  unfold State.boxTake
  rw [if_neg (by rw [hs]; decide)]

/-- Settles O42: ports change where their state differs; a mailbox row that reaches its box does what the box's side and FULL say. -/
theorem portsAndMailboxesComplete : Obligations.PortsAndMailboxesComplete := by
  intro s port n p
  refine ⟨fun hu => congrArg answer (if_neg (not_not_true hu)), fun hu hi => ?_, fun qp psn hu hq hs => exec_frameReceived_ack hu hq hs,
    fun qp psn hu hq hs hp => exec_frameReceived_roce hu hq hs hp, fun prios hu => congrArg answer (if_neg (not_not_true hu)),
    fun hu f => congrArg answer (if_pos (by rw [show (s.eth.port port.val).up = false from hu]; decide)), fun hm hu => exec_portUp hm hu,
    fun hu => congrArg answer (State.portState_changed (up := false) hu), fun prio => rfl, fun w v g k => ?_,
    fun m w o bs hb ht hp hs hf hl => congrArg answer (State.boxRow_done hb ht hp (State.boxData_done hs hf hl)),
    fun m w v => ?_, fun m w hb ht hp hs => ?_⟩
  · exact congrArg answer ((if_neg (not_not_true hu)).trans (if_pos ⟨rfl, hi⟩))
  · have hrun := exec_regRow (i := .portctlWrite w port v) (a := blockOff 0x08 + port.val * 0x40) rfl (regAt_portCtl port.isLt) g k
    have he := State.logged_eth s w (blockOff 0x08 + n * 0x40) (.portCtl n) v.toNat
    intro s1
    refine ⟨fun hb => hrun.trans (settle_congr (State.portEnable_kept ?_)), fun hb hu => hrun.trans (settle_congr (State.portEnable_down hb ?_))⟩
    · rw [he]
      exact hb
    · rw [he]
      exact hu
  · intro a hb ht hp
    refine ⟨fun hs hm hf hv => congrArg answer (State.boxRow_done hb ht hp ?_), fun hs hm hq hf hv => congrArg answer (State.boxRow_done hb ht hp ?_),
      fun hs hf hv => congrArg answer (State.boxRow_refused hb ht hp (State.boxGo_full hs hf hv) (by decide)),
      fun hs hv => congrArg answer (State.boxRow_done hb ht hp (State.boxGo_receiver hs hv)),
      fun hv => congrArg answer (State.boxRow_refused hb ht hp (if_pos hv) (by decide))⟩
    · refine (State.boxGo_empty hs hf (by rw [hv]; rfl)).trans (congrArg (Prod.mk 0) (if_neg ?_))
      rintro ⟨h1, h2⟩
      rcases hm with hm | hm
      · omega
      · exact h2 hm
    · exact (State.boxGo_empty hs hf (by rw [hv]; rfl)).trans (congrArg (Prod.mk 0) (if_pos ⟨hm, hq⟩))
  · refine congrArg answer (State.boxRow_done hb ht hp ?_)
    dsimp only
    rw [State.boxTake_receiver hs]

end Sys2Proof.Machine
end

section
/-! MCTP and PLDM (R310, R311, Tables 14.15 and 14.16). -/
namespace Sys2Proof.Machine

/-! ### The readings of the sensors -/

/-- A reading put under its sensor's number, where there is one. -/
def putReading (f : Nat → Option Nat) (l : List (Nat × Nat)) (n : Nat) : List (Nat × Nat) :=
  match f n with
  | some v => insertKey n v l
  | none => l

theorem lookup_putReading {f : Nat → Option Nat} {l : List (Nat × Nat)} {n k : Nat} (h : n ≠ k) :
    lookup (putReading f l n) k = lookup l k := by
  unfold putReading
  split
  · rw [lookup_insertKey, if_neg h]
  · rfl

theorem lookup_foldl_putReading {f : Nat → Option Nat} {k v m : Nat} {l : List (Nat × Nat)} (hv : f k = some v) (hk : k < m) :
    lookup ((List.range m).foldl (putReading f) l) k = some v := by
  induction m with
  | zero => omega
  | succ m ih =>
    rw [List.range_succ, List.foldl_append, List.foldl_cons, List.foldl_nil]
    by_cases h : m = k
    · subst h
      unfold putReading
      rw [hv]
      exact (lookup_insertKey _ _ _ _).trans (if_pos rfl)
    · exact (lookup_putReading h).trans (ih (by omega))

theorem State.scanSensors_sensors (s : State) (vs : List (Nat × Nat)) : (s.scanSensors vs).lan.sensors =
    (List.range 20).foldl (putReading fun n => (s.dmp.measured n).orElse fun _ => lookup vs n) s.lan.sensors := rfl

theorem State.scanSensors_reading {s : State} {vs : List (Nat × Nat)} {n v : Nat} (h : (s.dmp.measured n).orElse (fun _ => lookup vs n) = some v)
    (hn : n < 20) : lookup (s.scanSensors vs).lan.sensors n = some v := by
  rw [State.scanSensors_sensors]
  exact lookup_foldl_putReading h hn

/-! ### Answers -/

theorem State.mctpUp_of {s : State} (h : 1 ≤ s.sec.stage) : s.mctpUp = true := decide_eq_true h

theorem State.pldmUp_of {s : State} (h : 2 ≤ s.sec.stage) (h6 : s.sec.stage ≠ 6) : s.pldmUp = true := by
  unfold State.pldmUp
  simp [h, h6]

section
variable {s s1 : State} {i : Bool} {a v : Nat}

theorem answer_mctp (h : s.mctpUp = true) : answer (s.mctpAnswer i a v) = .next (s.send (.answer (.mctp i a) 0 v)).settle :=
  congrArg answer (if_pos h)

theorem answer_pldm (h : s.pldmUp = true) : answer (s.pldmAnswer i a v) = .next (s.send (.answer (.mctp i a) 0 v)).settle :=
  congrArg answer (if_pos h)

/-- A change of the terminus that is answered. -/
theorem answer_pldm_changed (h : s.pldmUp = true) (h1 : s1.pldmUp = true) : answer (if s.pldmUp then s1.pldmAnswer i a v else s) =
    .next (s1.send (.answer (.mctp i a) 0 v)).settle :=
  (congrArg answer (if_pos h)).trans (answer_pldm h1)
end

theorem exec_getSensorReading_on {s : State} {i : Bool} {a n : Nat} (h : s.pldmUp = true) (hn : n < 22) (ho : n ∉ s.lan.sensorsOff) :
    exec (.getSensorReading i a n) s = .next (s.send (.answer (.mctp i a) 0 (s.sensorValue n))).settle := by
  refine congrArg answer ((if_pos h).trans (congrArg s.send (if_neg ?_)))
  rintro (h1 | h1)
  · exact ho (by simpa using h1)
  · exact absurd (show 22 ≤ n from h1) (by omega)

theorem exec_getSensorReading_off {s : State} {i : Bool} {a n : Nat} (h : s.pldmUp = true) (ho : 22 ≤ n ∨ n ∈ s.lan.sensorsOff) :
    exec (.getSensorReading i a n) s = .next (s.send (.answer (.mctp i a) 1 0)).settle := by
  refine congrArg answer ((if_pos h).trans (congrArg s.send (if_pos ?_)))
  rcases ho with h1 | h1
  · exact .inr h1
  · exact .inl (by simpa using h1)

theorem exec_getStateSensorReadings {s : State} {i : Bool} {a : Nat} (h : s.pldmUp = true) : exec (.getStateSensorReadings i a 21) s =
    .next (s.send (.answer (.mctp i a) 0 (if s.lan.bivActive then 1 else 0))).settle := by
  have hv : s.sensorValue 21 = if s.lan.bivActive then 1 else 0 := by
    unfold State.sensorValue
    rw [if_neg (by decide), if_pos rfl]
    rfl
  exact congrArg answer ((if_pos h).trans (congrArg s.send ((if_pos rfl).trans (by rw [hv]))))

/-! ### Vendor messages (R310, R311) -/

section
variable {s : State} {i : Bool} {a : Nat} {vid : W32} {e : List Byte}

theorem exec_vendorMessage_entered (h : s.mctpUp = true) (hv : vid.toNat = s.vendorId) (he : e.length = 64)
    (hf : (entryCmd (.mctp i a) e).frec = 0) : exec (.mctpVendorMessage i a vid e) s =
      .next (s.enter { entryCmd (.mctp i a) e with flags := (entryCmd (.mctp i a) e).flags / 2 * 2 }
        (entryBad e (entryCmd (.mctp i a) e))).settle := by
  have hn : ¬ (vid.toNat ≠ s.vendorId ∨ e.length ≠ 64 ∨ (entryCmd (.mctp i a) e).frec ≠ 0) := by simp [hv, he, hf]
  exact congrArg answer ((if_neg (not_not_true h)).trans (if_neg hn))

theorem exec_vendorMessage_bad (h : s.mctpUp = true) (hv : vid.toNat ≠ s.vendorId) : exec (.mctpVendorMessage i a vid e) s =
    .next ((if s.journalUp then ({ s with lan := { s.lan with badVendor := s.lan.badVendor + 1 } } : State).journal (s.srcOf (.mctp i a))
        { kind := 3, code := 0x0807 } else { s with lan := { s.lan with badVendor := s.lan.badVendor + 1 } }).send
      (.answer (.mctp i a) 0x0807 0)).settle :=
  congrArg answer ((if_neg (not_not_true h)).trans (if_pos (.inl hv)))
end

/-- An agent of the MCTP endpoint acts for the operator, whom R305 refuses nothing. -/
theorem State.allow_mctp (s : State) {h : HostCmd} {i : Bool} {a : Nat} (hp : h.path = .mctp i a) (opc : Nat) (ctx : Option Nat) :
    s.allow h opc ctx = 0 := by
  unfold State.allow
  rw [hp]
  rfl

/-- Settles O43: the endpoint and the terminus answer while they are up; a sample puts each reading under its sensor. -/
theorem managementMessagesComplete : Obligations.ManagementMessagesComplete := by
  intro s i a ans drawn
  refine ⟨fun h1 => ?_, fun h2 h6 => ?_⟩
  · have hu := State.mctpUp_of h1
    refine ⟨fun e => ?_, answer_mctp hu, fun t => answer_mctp (s := s.free.2) hu, answer_mctp hu, answer_mctp (s := s.free.2) hu,
      congrArg answer (if_pos hu), fun vid e hv he => ?_, fun vid e hv hj => ?_, fun vid e hv hj => ?_⟩
    · exact (congrArg answer (if_pos hu)).trans (answer_mctp (s := { s with lan := { s.lan with eid := e.toNat } }) hu)
    · intro h hf hb hg hw
      refine (exec_vendorMessage_entered hu hv he hf).trans (settle_congr ?_)
      rw [hb]
      exact State.enter_started hg (State.allow_mctp s rfl _ _) hw
    · refine (exec_vendorMessage_bad hu hv).trans ?_
      rw [if_neg (by rw [hj]; decide)]
    · refine (exec_vendorMessage_bad hu hv).trans ?_
      rw [if_pos hj]
  · have hu := State.pldmUp_of h2 h6
    refine ⟨answer_pldm hu, fun t => answer_pldm (s := s.free.2) hu, answer_pldm hu, fun t => answer_pldm hu, answer_pldm hu,
      fun hd => answer_pldm (s := s.free.2) hu, fun n hn ho => exec_getSensorReading_on hu hn ho, fun n ho => exec_getSensorReading_off hu ho,
      exec_getStateSensorReadings hu, fun n => answer_pldm_changed hu ?_, fun n => answer_pldm_changed hu ?_, fun e => answer_pldm_changed hu ?_,
      fun vs => congrArg answer (if_pos hu), fun vs n v hm hn => ?_, fun vs n v hm hv hn => ?_, fun vs n ho he => ?_⟩
    · exact hu
    · exact hu
    · exact hu
    · exact State.scanSensors_reading (by rw [hm]; rfl) hn
    · exact State.scanSensors_reading (by rw [hm]; exact hv) hn
    · refine congrArg answer ((if_pos hu).trans ?_)
      have hfil : [n].filter (fun n => !s.lan.sensorsOff.contains n) = [n] := by simp [ho]
      rw [hfil]
      exact if_neg he

end Sys2Proof.Machine
end

section
/-! A register write that comes through its path (R9 to R11, R20, R299, R389). -/
namespace Sys2Proof.Machine

section
variable {s : State} {p : Path} {a v d : Nat} {r : Reg}

/-- An access that is not 8 bytes is refused before its register is looked at (log 85). -/
theorem State.accessCheck_size {n : Nat} (g : s.reaches p r) (hn : n ≠ 8) : s.accessCheck p a n true d = 0x0402 := by
  obtain ⟨_, _, g3⟩ := g
  have hk : ¬ (s.lan.bivActive = true ∧ ¬ s.keeps p = true) := fun q => q.2 (g3 q.1)
  unfold State.accessCheck
  rw [if_neg hk, if_pos (.inl hn)]

/-- A register write whose value is refused is journalled. -/
theorem State.regWrite_refused (h : regAt a = some r) (c : s.accessCheck p a 8 true d = 0) (k : s.regCheck r v ≠ 0) :
    s.regWrite (s.srcOf p) p a 8 v d = (s.regCheck r v, s.journal (s.srcOf p)
      { kind := 1, code := s.regCheck r v, addr := a, old := s.regRead r, new := v }) := by
  unfold State.regWrite
  simp only [h, c, k, ne_eq, not_true, if_false]

/-- A register write whose access is refused is journalled. -/
theorem State.regWrite_denied {n code : Nat} (h : regAt a = some r) (c : s.accessCheck p a n true d = code) (hc : code ≠ 0) :
    s.regWrite (s.srcOf p) p a n v d = (code, s.journal (s.srcOf p)
      { kind := 1, code := code, addr := a, old := s.regRead r, new := v }) := by
  unfold State.regWrite
  simp only [h, c, hc, ne_eq, not_false_eq_true, if_true, if_false]

/-- A register write that has come through and is refused. -/
theorem State.regSent_refused {s1 : State} {n b code : Nat} (h : regAt a = some r) (g : s.reaches p r)
    (hw : s.regWrite (s.srcOf p) p a n v 0x0804 = (code, s1)) (hc : code ≠ 0) : s.regSent p a n v b = s1.refuseAccess p code b := by
  unfold State.regSent
  rw [if_neg (not_not_true g.1)]
  dsimp only
  rw [State.writeAt_reg h, hw]
  exact if_neg hc
end

section
variable {s : State} {p : Path} {a v : W64} {n : Nat}

/-- A write at an address of this module that comes through. -/
theorem exec_registerWrite_own (ht : s.through p [a.toNat] n true = true) (hn : s.names p a.toNat = true) :
    exec (.registerWrite p a n v) s = .next (s.regSent p (localOf a.toNat) n v.toNat a.toNat).settle :=
  congrArg answer ((if_neg (not_not_true ht)).trans (if_pos hn))

/-- A write at an address of another module, by a path that is not carried there. -/
theorem exec_registerWrite_foreign (hn : s.names p a.toNat = false) (hp : ∀ q, p ≠ .roce q) (hu : s.regsUp = true) :
    exec (.registerWrite p a n v) s = .next (s.send (.answer p 0x0201 a.toNat)).settle := by
  have hb : ¬ (s.names p a.toNat = true) := by rw [hn]; decide
  cases p with
  | roce q => exact absurd rfl (hp q)
  | mctp i b => exact congrArg answer ((if_neg (not_not_true rfl)).trans ((if_neg hb).trans (if_pos hu)))
  | mailbox m => exact congrArg answer ((if_neg (not_not_true rfl)).trans ((if_neg hb).trans (if_pos hu)))

theorem exec_registerWrite_carried {q : Nat} (hn : s.names (.roce q) a.toNat = false) (ht : s.through (.roce q) [a.toNat] n true = true) :
    exec (.registerWrite (.roce q) a n v) s = .next (s.qpRemote q a.toNat 2 ((leBytes 8 v.toNat).take n) 0).settle :=
  congrArg answer ((if_neg (not_not_true ht)).trans (if_neg (by rw [hn]; decide)))

theorem exec_registerWrite_turnedAway {q : Nat} (hc : s.carries q = true) (ht : s.through (.roce q) [a.toNat] n true = false) :
    exec (.registerWrite (.roce q) a n v) s =
      .next ((s.wireQp q (.roce q "NAK remote access error" [])).qpError (.roce q)).settle :=
  congrArg answer ((if_pos (by rw [ht]; decide)).trans (if_pos hc))
end

/-- Settles O44: the access check, then the register's own check, decide between taking effect and being journalled only. -/
theorem registerWriteTakesEffect : Obligations.RegisterWriteTakesEffect := by
  intro s p a v size
  refine ⟨fun hn hp hu => exec_registerWrite_foreign hn hp hu, fun q hp hn ht => ?_, fun q hp hc ht => ?_, fun r hn ht g h m =>
    ⟨fun hs k => ?_, fun hs k => ?_, fun k => if_pos k, fun hs => ?_⟩⟩
  · subst hp
    exact exec_registerWrite_carried hn ht
  · subst hp
    exact exec_registerWrite_turnedAway hc ht
  · subst hs
    exact (exec_registerWrite_own ht hn).trans (settle_congr (State.regSent_ok h g m k _))
  · subst hs
    exact (exec_registerWrite_own ht hn).trans (settle_congr (State.regSent_refused h g
      (State.regWrite_refused h (State.accessCheck_ok h g m) k) k))
  · exact (exec_registerWrite_own ht hn).trans (settle_congr (State.regSent_refused h g
      (State.regWrite_denied h (State.accessCheck_size g hs) (by decide)) (by decide)))

end Sys2Proof.Machine
end

section
/-! The register writes that have rows of their own, of a context slot and of the units, and the save windows. -/
namespace Sys2Proof.Machine

/-! ### The registers of a slot (R53, R56, R109, R153, R177) -/

/-- Blocks begin at multiples of 8, and the LDL block stands before the SCH block. -/
theorem slotBlocks : blockOff 0x0B = mgmtBase + 0x0B000000 ∧ blockOff 0x02 = mgmtBase + 0x02000000 ∧ mgmtBase % 8 = 0 := by
  have h : mgmtBase % 8 = 0 := by decide
  exact ⟨by simp only [blockOff], by simp only [blockOff], h⟩

theorem regAt_slot {a n : Nat} {g : SlotReg} (h : slotRegOf a = some (n, g)) (ha : a % 8 = 0) : regAt a = some (.slot n g) ∧ a % 8 = 0 := by
  refine ⟨?_, ha⟩
  unfold regAt
  rw [h]

section
variable {n : Nat} (hn : n < 16)
include hn

theorem regAt_numctl : regAt (blockOff 0x0B + 0x20000 + n * 0x20) = some (.slot n .numctl) ∧ (blockOff 0x0B + 0x20000 + n * 0x20) % 8 = 0 := by
  obtain ⟨h1, h2, hm⟩ := slotBlocks
  refine regAt_slot ?_ (by omega)
  unfold slotRegOf
  generalize blockOff 0x0B = b at *
  dsimp only
  rw [if_pos (by omega), if_pos (by omega), show (b + 0x20000 + n * 0x20 - b - 0x20000) / 0x20 = n by omega]

theorem regAt_fpflags : regAt (blockOff 0x0B + 0x20008 + n * 0x20) = some (.slot n .fpflags) ∧ (blockOff 0x0B + 0x20008 + n * 0x20) % 8 = 0 := by
  obtain ⟨h1, h2, hm⟩ := slotBlocks
  refine regAt_slot ?_ (by omega)
  unfold slotRegOf
  generalize blockOff 0x0B = b at *
  dsimp only
  rw [if_pos (by omega), if_neg (by omega), if_pos (by omega), show (b + 0x20008 + n * 0x20 - b - 0x20000) / 0x20 = n by omega]

theorem regAt_fltring : regAt (blockOff 0x0B + 0x30000 + n * 0x10) = some (.slot n .fltring) ∧ (blockOff 0x0B + 0x30000 + n * 0x10) % 8 = 0 := by
  obtain ⟨h1, h2, hm⟩ := slotBlocks
  refine regAt_slot ?_ (by omega)
  unfold slotRegOf
  generalize blockOff 0x0B = b at *
  dsimp only
  rw [if_neg (by omega), if_pos (by omega), if_pos (by omega), show (b + 0x30000 + n * 0x10 - b - 0x30000) / 0x10 = n by omega]

theorem regAt_fltstat : regAt (blockOff 0x0B + 0x30008 + n * 0x10) = some (.slot n .fltstat) ∧ (blockOff 0x0B + 0x30008 + n * 0x10) % 8 = 0 := by
  obtain ⟨h1, h2, hm⟩ := slotBlocks
  refine regAt_slot ?_ (by omega)
  unfold slotRegOf
  generalize blockOff 0x0B = b at *
  dsimp only
  rw [if_neg (by omega), if_pos (by omega), if_neg (by omega), if_pos (by omega),
    show (b + 0x30008 + n * 0x10 - b - 0x30000) / 0x10 = n by omega]

theorem regAt_fitstat : regAt (blockOff 0x02 + 0x10000 + n * 8) = some (.slot n .fitstat) ∧ (blockOff 0x02 + 0x10000 + n * 8) % 8 = 0 := by
  obtain ⟨h1, h2, hm⟩ := slotBlocks
  refine regAt_slot ?_ (by omega)
  unfold slotRegOf
  generalize blockOff 0x0B = b at *
  generalize blockOff 0x02 = l at *
  generalize mgmtBase = m at *
  dsimp only
  rw [if_neg (by omega), if_neg (by omega), if_pos (by omega), show (l + 0x10000 + n * 8 - l - 0x10000) / 8 = n by omega]

theorem regAt_rcpstat : regAt (blockOff 0x02 + 0x10800 + n * 8) = some (.slot n .rcpstat) ∧ (blockOff 0x02 + 0x10800 + n * 8) % 8 = 0 := by
  obtain ⟨h1, h2, hm⟩ := slotBlocks
  refine regAt_slot ?_ (by omega)
  unfold slotRegOf
  generalize blockOff 0x0B = b at *
  generalize blockOff 0x02 = l at *
  generalize mgmtBase = m at *
  dsimp only
  rw [if_neg (by omega), if_neg (by omega), if_neg (by omega), if_pos (by omega),
    show (l + 0x10800 + n * 8 - l - 0x10800) / 8 = n by omega]

theorem regAt_histctl {h : Nat} (hh : h < 4) : regAt (blockOff 0x02 + 0x40000 + n * 0x1000 + h * 0x400) = some (.slot n (.histctl h)) ∧
    (blockOff 0x02 + 0x40000 + n * 0x1000 + h * 0x400) % 8 = 0 := by
  obtain ⟨h1, h2, hm⟩ := slotBlocks
  refine regAt_slot ?_ (by omega)
  unfold slotRegOf
  generalize blockOff 0x0B = b at *
  generalize blockOff 0x02 = l at *
  generalize mgmtBase = m at *
  dsimp only
  rw [if_neg (by omega), if_neg (by omega), if_neg (by omega), if_neg (by omega), if_pos (by omega), if_pos (by omega),
    show (l + 0x40000 + n * 0x1000 + h * 0x400 - l - 0x40000) / 0x1000 = n by omega,
    show (l + 0x40000 + n * 0x1000 + h * 0x400 - l) % 0x1000 / 0x400 = h by omega]
end

/-! ### The registers of the units -/

theorem regAt_eccCnt {u : Nat} (h : u < 64) :
    regAt (blockOff 0x0D + 0x1000 + u * 0x10) = some (.eccCnt u) ∧ (blockOff 0x0D + 0x1000 + u * 0x10) % 8 = 0 := by
  have hr : blockReg 0x0D (0x1000 + u * 0x10) = some (.eccCnt u) := by
    show memReg _ = _
    unfold memReg
    rw [if_neg (by omega), if_pos (by omega), if_pos (by omega), show (0x1000 + u * 0x10 - 0x1000) / 16 = u by omega]
  have hb := regAt_block (n := 0x0D) (by decide) (by decide) (by decide) (by omega) hr (by omega)
  rwa [← Nat.add_assoc] at hb

theorem regAt_smpCtl {d : Nat} (h : d < 8) :
    regAt (blockOff 0x05 + d * 0x10 + 8) = some (.smpCtl d) ∧ (blockOff 0x05 + d * 0x10 + 8) % 8 = 0 := by
  have hr : blockReg 0x05 (d * 0x10 + 8) = some (.smpCtl d) := by
    show tndReg _ = _
    unfold tndReg
    rw [if_pos (by omega), if_neg (by omega), show (d * 0x10 + 8) / 16 = d by omega]
  have hb := regAt_block (n := 0x05) (by decide) (by decide) (by decide) (by omega) hr (by omega)
  rwa [← Nat.add_assoc] at hb

/-- The first register of a block. -/
theorem regAt_blockStart {n : Nat} {r : Reg} (hn : n ≤ 0x10) (h1 : n ≠ 0x0B) (h2 : n ≠ 0x02) (hr : blockReg n 0 = some r) :
    regAt (blockOff n) = some r ∧ blockOff n % 8 = 0 := by
  have h := regAt_block hn h1 h2 (by decide) hr (by decide)
  rwa [Nat.add_zero] at h

/-! ### RES0 spans (R11) -/

/-- A value below a span has no bit in it. -/
theorem and_spanBits_of_lt {v lo : Nat} (hi : Nat) (h : v < 2 ^ lo) : v &&& spanBits hi lo = 0 := by
  refine Nat.eq_of_testBit_eq fun i => ?_
  unfold spanBits
  rw [Nat.testBit_and, Nat.testBit_mul_two_pow, Nat.zero_testBit]
  by_cases hi : lo ≤ i
  · rw [Nat.testBit_lt_two_pow (Nat.lt_of_lt_of_le h (Nat.pow_le_pow_right (by decide) hi)), Bool.false_and]
  · simp [hi]

/-- Of a value only the bits below `2 ^ k` matter to a mask below it. -/
theorem and_eq_mod_and {v m k : Nat} (h : m < 2 ^ k) : v &&& m = v % 2 ^ k &&& m := by
  calc v &&& m = v &&& (m % 2 ^ k) := by rw [Nat.mod_eq_of_lt h]
    _ = v % 2 ^ k &&& m := by rw [← Nat.and_two_pow_sub_one_eq_mod, ← Nat.and_two_pow_sub_one_eq_mod, Nat.and_comm m, ← Nat.and_assoc]

/-- A command bit set in a value that leaves the low 12 bits clear (R276). -/
theorem or_routing {v k : Nat} (h : v % 4096 = 0) (hk : k < 4096) : v ||| k = v + k := by
  have hv : v = 2 ^ 12 * (v / 4096) := by omega
  rw [hv]
  exact (Nat.two_pow_add_eq_or_of_lt hk _).symm

theorem or_abort {v : Nat} (h : v < 2 ^ 64) : v ||| 2 ^ 63 = v % 2 ^ 63 + 2 ^ 63 := by
  have hl : v % 2 ^ 63 < 2 ^ 63 := Nat.mod_lt _ (by decide)
  have h1 : (v % 2 ^ 63) ||| 2 ^ 63 = v % 2 ^ 63 + 2 ^ 63 := by
    rw [Nat.or_comm, Nat.add_comm]
    exact (Nat.two_pow_add_eq_or_of_lt (i := 63) hl 1).symm
  rcases Nat.lt_or_ge v (2 ^ 63) with hv | hv
  · rwa [Nat.mod_eq_of_lt hv] at h1 ⊢
  · have h2 : v = 2 ^ 63 ||| v % 2 ^ 63 := by
      rw [Nat.or_comm, h1]
      omega
    calc v ||| 2 ^ 63 = 2 ^ 63 ||| (2 ^ 63 ||| v % 2 ^ 63) := by rw [← h2, Nat.or_comm]
      _ = v % 2 ^ 63 + 2 ^ 63 := by rw [← Nat.or_assoc, Nat.or_self, Nat.or_comm, h1]

/-- A routing command has no bit in the RES0 span, names its address and sets one of the three bits. -/
theorem routing_res0 {v k : Nat} (h : v % 4096 = 0) (hk : k < 4096) (h0 : k &&& spanBits 8 4 = 0) : (v + k) &&& spanBits 8 4 = 0 := by
  rw [and_eq_mod_and (k := 12) (by decide), show (v + k) % 2 ^ 12 = k by omega, h0]

/-! ### The writes of the units' registers -/

section
variable {s : State} {p : Path} {v : Nat}

/-- Of a routing command the low bits are those set beside the address. -/
theorem bit_routing {k i : Nat} (h : v % 4096 = 0) (hi : i < 12) : bit (v + k) i = bit k i := by
  have hm : (v + k) % 2 ^ 12 = k % 2 ^ 12 := by omega
  have hb : ∀ x, bit x i = (x % 2 ^ 12).testBit i := fun x => by
    rw [bit_eq_testBit, Nat.testBit_mod_two_pow, decide_eq_true hi, Bool.true_and]
  rw [hb, hb, hm]

theorem State.regCheck_rtCtl {k : Nat} (h : v % 4096 = 0) (hk : k = 2 ^ 11 ∧ s.nym.pstate ≠ 1 ∧ s.nym.oldLive = false ∨
    k = 2 ^ 10 ∧ s.nym.pstate = 2 ∨ k = 2 ^ 9 ∧ s.nym.oldLive = false) : s.regCheck .rtCtl (v + k) = 0 := by
  have h0 : (v + k) &&& spanBits 8 4 = 0 := by
    rcases hk with ⟨rfl, -⟩ | ⟨rfl, -⟩ | ⟨rfl, -⟩ <;> exact routing_res0 h (by decide) (by decide)
  refine (if_neg (not_not_intro h0)).trans ?_
  dsimp only
  rw [bit_routing h (by decide), bit_routing h (by decide), bit_routing h (by decide)]
  rcases hk with ⟨rfl, h1, h2⟩ | ⟨rfl, h1⟩ | ⟨rfl, h1⟩
  · simp [bit, h1, h2]
  · simp [bit, h1]
  · simp [bit, h1]

/-- What a routing command does, by the bits set beside its address (R276). -/
theorem State.routing_eq {k : Nat} (h : v % 4096 = 0) (hk : k < 4096) : s.routing (v + k) =
    (let s0 := s.onNym fun n => { n with rtAddr := v }
    let s1 := if bit k 10 then s0.onNym Nym.activateBank else s0
    let s2 := if bit k 9 then s1.onNym Nym.retireBank else s1
    if bit k 11 then s2.loadRouting else s2) := by
  have ha : (v + k) / 4096 * 4096 = v := by omega
  unfold State.routing
  rw [ha, bit_routing h (by decide), bit_routing h (by decide), bit_routing h (by decide)]

theorem State.regCheck_slotPart (h : ∀ j, j < 16 → bits v (4 * j) 4 < 8 ∨ bits v (4 * j) 4 = 15) : s.regCheck .slotPart v = 0 := by
  refine (if_neg (not_not_intro (Nat.and_zero v))).trans (if_pos ?_)
  simpa [List.all_eq_true] using h

theorem State.regCheck_devnum (h : v < 2 ^ 24) (ht : s.nym.tables = false)
    (hl : s.nym.links.toList.any (fun l => l.state == 1 || l.state == 2) = false) : s.regCheck .devnum v = 0 :=
  (if_neg (not_not_intro (and_spanBits_of_lt 63 h))).trans (if_neg (by rw [ht, hl]; decide))

theorem State.regCheck_hbmmap (h : v < 2 ^ 48) (hu : (s.core.mapChanges v).any s.core.setInUse = false) : s.regCheck .hbmmap v = 0 :=
  (if_neg (not_not_intro (and_spanBits_of_lt 63 h))).trans (if_neg (by rw [hu]; decide))

theorem State.regCheck_cap (h1 : 600 ≤ v) (h2 : v ≤ 2500) : s.regCheck .cap v = 0 :=
  (if_neg (not_not_intro (and_spanBits_of_lt 63 (show v < 2 ^ 12 by omega)))).trans (if_pos ⟨h1, h2⟩)

theorem State.regCheck_alert (h : v < 8) : s.regCheck .alert v = 0 := if_neg (not_not_intro (and_spanBits_of_lt 63 (show v < 2 ^ 3 by omega)))

theorem State.regCheck_nymStall (h : v % 2 ^ 63 < 2 ^ 32) : s.regCheck .nymStall (v % 2 ^ 63 + 2 ^ 63) = 0 := by
  have h0 : (v % 2 ^ 63 + 2 ^ 63) &&& spanBits 62 32 = 0 := by
    rw [and_eq_mod_and (k := 63) (by decide), show (v % 2 ^ 63 + 2 ^ 63) % 2 ^ 63 = v % 2 ^ 63 by omega]
    exact and_spanBits_of_lt 62 h
  exact if_neg (not_not_intro h0)
end

/-- The journal leaves the requests of a sampler. -/
theorem State.logged_sampling (s : State) (p : Path) (a : Nat) (r : Reg) (v d : Nat) : (s.logged p a r v).core.sampling d = s.core.sampling d := by
  obtain ⟨m, x, w, q, j, o, e⟩ := s.logged_ok p a r v
  rw [e]
  rfl

theorem State.logged_alert (s : State) (p : Path) (a : Nat) (r : Reg) (v : Nat) : (s.logged p a r v).lan.alert = s.lan.alert := by
  obtain ⟨c, e⟩ := s.logged_beside p a r v
  rw [e]

section
variable {s : State} {p : Path}

/-- A routing command that is accepted. -/
theorem exec_routingRow {i : Instr} {v k : Nat} (e : exec i s = .next (s.regRow p (blockOff 0x07 + 8) (v ||| k)).settle) (h : v % 4096 = 0)
    (hk : k < 4096) (g : s.rowReaches p (blockOff 0x07 + 8) .rtCtl) (c : s.regCheck .rtCtl (v + k) = 0) :
    exec i s = .next ((s.logged p (blockOff 0x07 + 8) .rtCtl (v + k)).routing (v + k)).settle := by
  rw [or_routing h hk] at e
  exact exec_regRow e (regAt_block (by decide) (by decide) (by decide) (by decide) rfl (by decide)) g c

theorem State.regApply_test (s : State) (d : Nat) : s.regApply (.smpCtl d) 1 = s.sampler d (samplerTest !(s.core.sampling d).isEmpty) := by
  show (if bit 1 0 then s.sampler d (samplerTest !(s.core.sampling d).isEmpty) else s) = _
  rw [if_pos (by decide)]

theorem State.regApply_hbmmap (s : State) (v : Nat) : s.regApply .hbmmap v = s.onCore fun c => c.remap v := rfl

theorem State.regApply_slotPart (s : State) (v : Nat) : s.regApply .slotPart v =
    s.onCore fun c => (List.range 16).foldl (fun (a : Core) j => a.setTslot j ((a.tslot j).assign (bits v (4 * j) 4))) c := rfl

theorem State.regApply_devnum (s : State) (v : Nat) : s.regApply .devnum v =
    s.onNym fun n => { n with devnum := bits v 0 16, level := bits v 16 8 } := rfl

/-- The test of a sampler. -/
theorem exec_samplerTest {d : Fin 8} (g : s.rowReaches p (blockOff 0x05 + d.val * 0x10 + 8) (.smpCtl d.val)) :
    exec (.samplerTest p d 1) s = .next ((s.logged p (blockOff 0x05 + d.val * 0x10 + 8) (.smpCtl d.val) 1).sampler d.val
      (samplerTest !(s.core.sampling d.val).isEmpty)).settle := by
  have c : s.regCheck (.smpCtl d.val) 1 = 0 := if_neg (not_not_intro (show 1 &&& spanBits 63 1 = 0 by decide))
  refine (exec_regRow (v := 1) (i := .samplerTest p d 1) rfl (regAt_smpCtl d.isLt) g c).trans (settle_congr ?_)
  rw [State.regApply_test, State.logged_sampling]

/-- A stalled transfer aborted (R289). -/
theorem exec_stallAbort {v : W64} (g : s.rowReaches p (blockOff 0x07 + 0x28) .nymStall) (hv : v.toNat % 2 ^ 63 < 2 ^ 32) :
    exec (.stallAbort p v) s = .next (s.logged p (blockOff 0x07 + 0x28) .nymStall (v.toNat % 2 ^ 63 + 2 ^ 63)).abortStalled.settle := by
  have e : exec (.stallAbort p v) s = .next (s.regRow p (blockOff 0x07 + 0x28) (v.toNat ||| 2 ^ 63)).settle := rfl
  rw [or_abort v.isLt] at e
  have c := State.regCheck_nymStall (s := s) hv
  generalize v.toNat % 2 ^ 63 = x at *
  have hb : bit (x + 2 ^ 63) 63 = true := by
    unfold bit
    rw [show (x + 2 ^ 63) / 2 ^ 63 = 1 by omega]
    rfl
  exact (exec_regRow e (regAt_block (by decide) (by decide) (by decide) (by decide) rfl (by decide)) g c).trans (settle_congr (if_pos hb))

/-- The numbers of a module in a word of its register (R276). -/
theorem devnum_fields {v : Nat} (h : v < 2 ^ 24) : bits v 0 16 = v % 65536 ∧ bits v 16 8 = v / 65536 := by
  unfold bits
  omega
end

/-! ### The save windows (R257) -/

section
variable {s : State} {p : Path} {me o : Nat}

/-- Where an offset of an ME's window lies. -/
theorem window_parts (hm : me < 128) (ho : o < 0x400000) : (winBase + me * 0x400000 + o - winBase) / 0x400000 = me ∧
    (winBase + me * 0x400000 + o - winBase) % 0x400000 = o ∧ (BitVec.ofNat 64 (winBase + me * 0x400000 + o)).toNat = winBase + me * 0x400000 + o := by
  have hw : winBase ≤ 2 ^ 48 := by decide
  rw [BitVec.toNat_ofNat]
  generalize winBase = w at *
  omega

theorem State.windowCheck_ok {n : Nat} (hb : s.lan.bivActive = false) (hp : s.core.pathPart p = none) (hm : me < 128) (ho : o % 64 = 0)
    (hs : s.core.strandOn me = false) (hn : n % 64 = 0) (h0 : 0 < n) (hf : o + n ≤ 0x280000) :
    s.windowCheck p (winBase + me * 0x400000 + o) n = 0 := by
  obtain ⟨h1, h2, -⟩ := window_parts hm (show o < 0x400000 by omega)
  have hend : winEnd = winBase + 0x20000000 := by decide
  have hal : winBase % 64 = 0 := by decide
  unfold State.windowCheck
  dsimp only
  rw [h1, h2, hend, hp, hs]
  generalize winBase = w at *
  rw [if_neg (by rw [hb]; decide), if_neg (by decide), if_neg (by omega), if_neg (by omega), if_neg (by omega), if_neg (by decide)]

theorem exec_saveWindowAccess (s : State) (p : Path) (a : W64) (w : Option (List Byte)) (len : Nat) :
    exec (.saveWindowAccess p a w len) s = execSaveWindowAccess p a w len s := rfl

theorem exec_window_write {bs : List Byte} {len a : Nat} (hu : s.regsUp = true) (h1 : (a - winBase) / 0x400000 = me)
    (h2 : (a - winBase) % 0x400000 = o) (h3 : (BitVec.ofNat 64 a).toNat = a) (hc : s.windowCheck p a bs.length = 0) :
    exec (.saveWindowAccess p (BitVec.ofNat 64 a) (some bs) len) s =
      .next ((s.onCore fun c => c.windowWrite me o bs).send (.answer p 0 a)).settle := by
  refine congrArg answer ((if_neg (not_not_true hu)).trans ?_)
  dsimp only [Option.map, Option.getD]
  rw [h3]
  refine (if_neg (not_not_intro hc)).trans ?_
  rw [h1, h2]

theorem exec_window_read {len a : Nat} {c : Core} {bs : List Byte} (hu : s.regsUp = true) (h1 : (a - winBase) / 0x400000 = me)
    (h2 : (a - winBase) % 0x400000 = o) (h3 : (BitVec.ofNat 64 a).toNat = a) (hc : s.windowCheck p a len = 0)
    (hr : s.core.windowRead me o len = (c, .ok bs)) :
    exec (.saveWindowAccess p (BitVec.ofNat 64 a) none len) s = .next (({ s with core := c } : State).send (.record p bs)).settle := by
  subst h1 h2
  rw [exec_saveWindowAccess]
  unfold execSaveWindowAccess
  rw [if_neg (not_not_true hu), Option.map_none, Option.getD_none, h3]
  extract_lets b n code me o
  rw [if_neg (not_not_intro hc), show s.core.windowRead me o n = _ from hr] <;> rfl

/-- A read that finds an uncorrectable word (R262). -/
theorem exec_window_read_ue {len a w : Nat} {c : Core} (hu : s.regsUp = true) (h1 : (a - winBase) / 0x400000 = me)
    (h2 : (a - winBase) % 0x400000 = o) (h3 : (BitVec.ofNat 64 a).toNat = a) (hc : s.windowCheck p a len = 0)
    (hr : s.core.windowRead me o len = (c, .error w)) :
    exec (.saveWindowAccess p (BitVec.ofNat 64 a) none len) s = .next ((({ s with core := c } : State).reportFault p 0x0210
      (ueDetail s.nym.devnum w (0x28 + me / 16) false)).refuse p 0x0210 a).settle := by
  subst h1 h2
  rw [exec_saveWindowAccess]
  unfold execSaveWindowAccess
  rw [if_neg (not_not_true hu), Option.map_none, Option.getD_none, h3]
  extract_lets b n code me o
  rw [if_neg (not_not_intro hc), show s.core.windowRead me o n = _ from hr] <;> rfl
end

/-! ### The rows of the units -/

section
variable {s : State} {p : Path} {v : W64}

/-- The counts of a unit cleared (R265). -/
theorem exec_ecccntClr {u : Fin 64} (g : s.rowReaches p (blockOff 0x0D + 0x1000 + u.val * 0x10) (.eccCnt u.val)) (hv : v.toNat = 2 ^ 63) :
    exec (.ecccntClr p u v) s = .next ((s.logged p (blockOff 0x0D + 0x1000 + u.val * 0x10) (.eccCnt u.val) v.toNat).onCore fun c =>
      { c with ecc := c.ecc.modCount u.val fun k => { ueAddr := k.ueAddr } }).settle := by
  have c : s.regCheck (.eccCnt u.val) v.toNat = 0 := by
    rw [hv]
    exact if_neg (not_not_intro (show 2 ^ 63 &&& spanBits 62 56 = 0 by decide))
  have hb : bit v.toNat 63 = true := by
    rw [hv]
    decide
  exact (exec_regRow (i := .ecccntClr p u v) rfl (regAt_eccCnt u.isLt) g c).trans (settle_congr (if_pos hb))

theorem exec_lanAlertClear (g : s.rowReaches p (blockOff 0x00 + 0x128) .alert) (hv : v.toNat < 8) : exec (.lanAlertClear p v) s =
    .next ((s.logged p (blockOff 0x00 + 0x128) .alert v.toNat).regApply .alert v.toNat).settle :=
  exec_regRow (i := .lanAlertClear p v) rfl (regAt_block (by decide) (by decide) (by decide) (by decide) rfl (by decide)) g
    (State.regCheck_alert hv)

theorem exec_hbmmapWrite (g : s.rowReaches p (blockOff 0x0D) .hbmmap) (hv : v.toNat < 2 ^ 48)
    (hu : (s.core.mapChanges v.toNat).any s.core.setInUse = false) : exec (.hbmmapWrite p v) s =
      .next ((s.logged p (blockOff 0x0D) .hbmmap v.toNat).regApply .hbmmap v.toNat).settle :=
  exec_regRow (i := .hbmmapWrite p v) rfl (regAt_blockStart (by decide) (by decide) (by decide) rfl) g (State.regCheck_hbmmap hv hu)

theorem exec_slotpartWrite (g : s.rowReaches p (blockOff 0x03) .slotPart)
    (hv : ∀ j, j < 16 → bits v.toNat (4 * j) 4 < 8 ∨ bits v.toNat (4 * j) 4 = 15) : exec (.slotpartWrite p v) s =
      .next ((s.logged p (blockOff 0x03) .slotPart v.toNat).regApply .slotPart v.toNat).settle :=
  exec_regRow (i := .slotpartWrite p v) rfl (regAt_blockStart (by decide) (by decide) (by decide) rfl) g (State.regCheck_slotPart hv)

theorem exec_devnumWrite (g : s.rowReaches p (blockOff 0x07) .devnum) (hv : v.toNat < 2 ^ 24) (ht : s.nym.tables = false)
    (hl : s.nym.links.toList.any (fun l => l.state == 1 || l.state == 2) = false) : exec (.devnumWrite p v) s =
      .next ((s.logged p (blockOff 0x07) .devnum v.toNat).regApply .devnum v.toNat).settle :=
  exec_regRow (i := .devnumWrite p v) rfl (regAt_blockStart (by decide) (by decide) (by decide) rfl) g (State.regCheck_devnum hv ht hl)

theorem exec_capWrite (g : s.rowReaches p (blockOff 0x01) .cap) (h1 : 600 ≤ v.toNat) (h2 : v.toNat ≤ 2500) : exec (.capWrite p v) s =
    .next ((s.logged p (blockOff 0x01) .cap v.toNat).regApply .cap v.toNat).settle :=
  exec_regRow (i := .capWrite p v) rfl (regAt_blockStart (by decide) (by decide) (by decide) rfl) g (State.regCheck_cap h1 h2)

/-- LOAD (R275). -/
theorem exec_routingLoad (g : s.rowReaches p (blockOff 0x07 + 8) .rtCtl) (hv : v.toNat % 4096 = 0) (h1 : s.nym.pstate ≠ 1)
    (h2 : s.nym.oldLive = false) : exec (.routingLoad p v) s = .next (((s.logged p (blockOff 0x07 + 8) .rtCtl (v.toNat + 2 ^ 11)).onNym fun n =>
      { n with rtAddr := v.toNat }).loadRouting).settle :=
  (exec_routingRow (i := .routingLoad p v) rfl hv (by decide) g (State.regCheck_rtCtl hv (.inl ⟨rfl, h1, h2⟩))).trans
    (settle_congr (State.routing_eq hv (by decide)))

/-- ACTIVATE (R276). -/
theorem exec_routingActivate (g : s.rowReaches p (blockOff 0x07 + 8) .rtCtl) (hv : v.toNat % 4096 = 0) (h : s.nym.pstate = 2) :
    exec (.routingActivate p v) s = .next (((s.logged p (blockOff 0x07 + 8) .rtCtl (v.toNat + 2 ^ 10)).onNym fun n =>
      { n with rtAddr := v.toNat }).onNym Nym.activateBank).settle :=
  (exec_routingRow (i := .routingActivate p v) rfl hv (by decide) g (State.regCheck_rtCtl hv (.inr (.inl ⟨rfl, h⟩)))).trans
    (settle_congr (State.routing_eq hv (by decide)))

/-- RETIRE (R276). -/
theorem exec_routingRetire (g : s.rowReaches p (blockOff 0x07 + 8) .rtCtl) (hv : v.toNat % 4096 = 0) (h : s.nym.oldLive = false) :
    exec (.routingRetire p v) s = .next (((s.logged p (blockOff 0x07 + 8) .rtCtl (v.toNat + 2 ^ 9)).onNym fun n =>
      { n with rtAddr := v.toNat }).onNym Nym.retireBank).settle :=
  (exec_routingRow (i := .routingRetire p v) rfl hv (by decide) g (State.regCheck_rtCtl hv (.inr (.inr ⟨rfl, h⟩)))).trans
    (settle_congr (State.routing_eq hv (by decide)))
end

/-- Settles O45: each row's address names its register, and its value passes the register's check. -/
theorem slotAndUnitRegisterWritesComplete : Obligations.SlotAndUnitRegisterWritesComplete := by
  refine ⟨fun s p n v => ?_, fun s p v => ?_, fun s p me o hu hp hb hm ho hs => ?_⟩
  · intro done
    refine ⟨?_, ?_, ?_, ?_, ?_, ?_, ?_⟩
    · intro a g hv
      exact exec_slotRow (i := .fpflagsClear p n v) rfl (regAt_fpflags n.isLt) g (if_pos hv)
    · intro a g hv
      exact exec_slotRow (i := .numctlWrite p n v) rfl (regAt_numctl n.isLt) g (if_pos hv)
    · intro h a g h1 h2 h3 h4
      exact exec_slotRow (i := .histctlClr p n h v) rfl (regAt_histctl n.isLt h.isLt) g (if_pos ⟨h1, h2, h3, h4⟩)
    · intro a g h1 h2
      exact exec_slotRow (i := .fitstatClr p n v) rfl (regAt_fitstat n.isLt) g ((if_pos h1).trans (by rw [if_pos h2]))
    · intro a g h1 h2
      exact exec_slotRow (i := .rcpstatClr p n v) rfl (regAt_rcpstat n.isLt) g ((if_pos h1).trans (by rw [if_pos h2]))
    · intro a g h1 h2 h3
      exact exec_slotRow (i := .fltringWrite p n v) rfl (regAt_fltring n.isLt) g (if_pos ⟨h1, h2, h3⟩)
    · intro a g h1 h2
      exact exec_slotRow (i := .tailWrite p n v) rfl (regAt_fltstat n.isLt) g (if_pos ⟨h1, h2⟩)
  · refine ⟨fun u g hv => exec_ecccntClr g hv, ?_, ?_, ?_, ?_, ?_, ?_, fun g hv => exec_stallAbort g hv, fun g h1 h2 => exec_capWrite g h1 h2⟩
    · intro a g hv s1
      have ha : s1.lan.alert = s.lan.alert := State.logged_alert ..
      rw [← ha]
      exact exec_lanAlertClear g hv
    · intro d a g hv
      rw [hv]
      exact exec_samplerTest g
    · intro a g hv hu
      have hrun := exec_hbmmapWrite g hv hu
      rw [State.regApply_hbmmap] at hrun
      exact hrun
    · intro a g hv
      have hrun := exec_slotpartWrite g hv
      rw [State.regApply_slotPart] at hrun
      exact hrun
    · intro a g hv ht hl
      obtain ⟨h1, h2⟩ := devnum_fields hv
      have hrun := exec_devnumWrite g hv ht hl
      rw [State.regApply_devnum, h1, h2] at hrun
      exact hrun
    · intro a g hv
      exact ⟨fun h1 h2 => exec_routingLoad g hv h1 h2, fun h => exec_routingActivate g hv h, fun h => exec_routingRetire g hv h⟩
  · intro a
    refine ⟨fun bs len hn h0 hf => ?_, fun c bs len hn h0 hf hr => ?_, fun c w len hn h0 hf hr => ?_⟩
    · have hl := List.length_pos_iff.2 h0
      obtain ⟨h1, h2, h3⟩ := window_parts hm (show o < 0x400000 by omega)
      exact exec_window_write hu h1 h2 h3 (State.windowCheck_ok hb hp hm ho hs hn hl hf)
    · obtain ⟨h1, h2, h3⟩ := window_parts hm (show o < 0x400000 by omega)
      exact exec_window_read hu h1 h2 h3 (State.windowCheck_ok hb hp hm ho hs hn h0 hf) hr
    · obtain ⟨h1, h2, h3⟩ := window_parts hm (show o < 0x400000 by omega)
      exact exec_window_read_ue hu h1 h2 h3 (State.windowCheck_ok hb hp hm ho hs hn h0 hf) hr

end Sys2Proof.Machine
end

section
/-! Scrubbing and clearing (R382, R383), errors of stored words (R260), calibration (R384), the journal's copy (R391), telemetry (R393)
and the hours. -/
namespace Sys2Proof.Machine

/-- A change of the compute side is its value there. -/
theorem State.onCore_eq {s : State} {f g : Core → Core} (h : f s.core = g s.core) : s.onCore f = s.onCore g :=
  congrArg (fun c => ({ s with core := c } : State)) h

theorem State.settle_uncleared (s : State) : s.settle.core.ecc.uncleared = s.core.ecc.uncleared :=
  (congrArg (fun c : Core => c.ecc.uncleared) s.settle_core :)

/-! ### Words -/

section
variable {s : State} {addr : W64} {p : WordPlace} {w : Nat}

theorem exec_scrubRead (hs : s.scrubs addr.toNat = true) (hw : s.wordAt addr.toNat = some (p, w)) :
    exec (.scrubRead addr) s = .next (s.onCore fun c => c.scrub p w).settle := by
  refine congrArg answer ((if_neg (not_not_true hs)).trans ?_)
  rw [hw]

theorem Core.scrub_clean {c : Core} (h : errWords (p.space c) c.ecc w 64 = []) : c.scrub p w = c :=
  if_pos (by rw [h]; rfl)

theorem Core.scrub_erroneous {c : Core} (h : errWords (p.space c) c.ecc w 64 ≠ []) : c.scrub p w =
    ({ c with ecc := (scanWord (p.space c) (c.placeMem p) c.ecc w).2.1 } : Core).setPlaceMem p (scanWord (p.space c) (c.placeMem p) c.ecc w).1 :=
  if_neg (by rwa [List.isEmpty_iff])

/-- A symbol of a word without errors is disturbed (R259, R260). -/
theorem exec_memorySymbolError {sym : Fin 68} {flip : Byte} (hw : s.wordAt addr.toNat = some (.main, w)) (hf : flip ≠ 0)
    (hu : s.core.ecc.uncleared.any (fun r => r.1 ≤ s.core.space.off + w / 64 && s.core.space.off + w / 64 < r.2) = false)
    (he : lookup s.core.ecc.errs (s.core.space.off + w / 64) = none) : exec (.memorySymbolError addr (some sym) flip) s =
      .next (s.onCore fun c => { c with ecc := { c.ecc with
        errs := insertKey (s.core.space.off + w / 64) [(sym.val, flip)] c.ecc.errs } }).settle := by
  have hx : (0 : Byte) ^^^ flip = flip := BitVec.zero_xor
  refine congrArg answer ?_
  rw [hw]
  dsimp only [WordPlace.space]
  rw [if_neg (by rw [hu]; decide)]
  refine State.onCore_eq ?_
  simp only [he, Option.getD_none, lookup_nil, hx, hf, if_false, insertKey, List.isEmpty_cons, Bool.false_eq_true]

/-- The next transfer of a word of DRAM fails (log 84). -/
theorem exec_memoryTransferError {flip : Byte} (hw : s.wordAt addr.toNat = some (.main, w))
    (ha : (areaOf addr.toNat).1 = .hbm ∨ (areaOf addr.toNat).1 = .lp) : exec (.memorySymbolError addr none flip) s =
      .next (s.onCore fun c => { c with ecc := { c.ecc with once := insertNat (s.core.space.off + w / 64) c.ecc.once } }).settle := by
  refine congrArg answer ?_
  rw [hw]
  rcases ha with ha | ha
  · rw [ha]
    rfl
  · rw [ha]
    rfl
end

/-! ### Clearing -/

theorem exec_regionClearWrite {s : State} {r : Nat × Nat × Nat} (hb : s.bgRuns = true) (hr : s.clearingNow = some r) :
    exec .regionClearWrite s = .next (s.clearNext r).settle := by
  refine congrArg answer ?_
  rw [hr]
  exact if_pos hb

/-- The first region of the list is cleared now, in bivouac mode if it is one of LPDDR5X. -/
theorem State.clearingNow_cons {s : State} {cls u o : Nat} {rest : List (Nat × Nat × Nat)} (h : s.bg.clearing = (cls, u, o) :: rest)
    (hb : s.lan.bivActive = false ∨ cls = 3) : s.clearingNow = some (cls, u, o) := by
  unfold State.clearingNow
  rw [h]
  refine List.find?_cons_of_pos ?_
  rcases hb with hb | hb
  · simp [hb]
  · simp [hb]

/-! ### Calibration -/

section
variable {s : State} {u : Fin 64} {t : Int}

theorem exec_memoryRetrain_first (hu : s.trains u.val = true) (h : lookup s.bg.trained u.val = none) :
    exec (.memoryRetrain u t) s = .next ({ s with bg := { s.bg with trained := insertKey u.val t s.bg.trained } } : State).settle := by
  refine congrArg answer (if_pos ⟨hu, ?_⟩)
  rw [h]

theorem exec_memoryRetrain_near {old : Int} (h : lookup s.bg.trained u.val = some old) (h1 : -10 < t - old)
    (h2 : t - old < 10) : exec (.memoryRetrain u t) s = .next s.settle := by
  refine congrArg answer (if_neg fun q => ?_)
  obtain ⟨-, hq⟩ := q
  rw [h] at hq
  have := of_decide_eq_true hq
  omega
end

/-! ### The journal's copy -/

section
variable {s : State} {n : Nat}

theorem exec_journalFlashCopy (hr : s.board.resetN = true) (hj : s.sec.journalled = true) (hl : s.core.jnl.ringLost = false) :
    exec .journalFlashCopy s = .next (s.onCore Core.copyEntry).settle :=
  congrArg answer (if_pos ⟨hr, hj, hl⟩)

theorem Core.copyEntry_read {c : Core} (hn : c.jnl.copyNext = some n) (hr : (scanRange c.space c.mem c.ecc (ringSlot n) 128).2.2 = none) :
    c.copyEntry = (let r := scanRange c.space c.mem c.ecc (ringSlot n) 128
      { c with mem := r.1, ecc := r.2.1, jnl := { c.jnl with
        copied := n, flash := keepFlash (c.jnl.flash ++ [(n, r.1.read (ringSlot n) 128)]), wear := c.jnl.wear.write 128 } }) := by
  unfold Core.copyEntry
  rw [hn]
  dsimp only
  rw [hr]
  rfl

/-- An entry that cannot be read is counted as copied (log 80). -/
theorem Core.copyEntry_lost {c : Core} (hn : c.jnl.copyNext = some n) (hr : (scanRange c.space c.mem c.ecc (ringSlot n) 128).2.2 ≠ none) :
    c.copyEntry = (let r := scanRange c.space c.mem c.ecc (ringSlot n) 128
      { c with mem := r.1, ecc := r.2.1, jnl := { c.jnl with copied := n, flash := keepFlash c.jnl.flash, wear := c.jnl.wear.write 0 } }) := by
  unfold Core.copyEntry
  rw [hn]
  dsimp only
  rw [if_pos (Option.isSome_iff_ne_none.2 hr), List.append_nil]
  rfl
end

/-- Settles O46: each activity that runs now is its own last branch; the copy is decided by what the ring's read finds. -/
theorem backgroundWorkCompletes : Obligations.BackgroundWorkCompletes := by
  intro s
  refine ⟨fun addr p w hs hw => ⟨fun h => ?_, fun h => ?_⟩, fun cls u o hb hc => ?_, fun cls u o rest h hb => State.clearingNow_cons h hb,
    fun addr sym flip w hw hf hu he => exec_memorySymbolError hw hf hu he, fun addr flip w hw ha => exec_memoryTransferError hw ha,
    fun u t hu h => exec_memoryRetrain_first hu h, fun u t old hu h h1 h2 => exec_memoryRetrain_near h h1 h2, fun i d hb => ?_,
    fun n hr hj hl hn => ?_, fun hb ht => congrArg answer (if_pos ⟨hb, ht⟩), fun hd h2 h6 => ?_⟩
  · exact (exec_scrubRead hs hw).trans (settle_congr (State.onCore_eq (g := fun c => c) (Core.scrub_clean h)))
  · exact (exec_scrubRead hs hw).trans (settle_congr (State.onCore_eq (Core.scrub_erroneous h)))
  · refine ⟨_, exec_regionClearWrite hb hc, State.settle_mem _, State.settle_errs _, State.settle_uncleared _, fun ho => ?_, fun ho => ?_⟩
    · rw [State.settle_bg]
      exact if_pos ho
    · rw [State.settle_bg]
      exact if_neg (Nat.not_le.2 ho)
  · exact congrArg answer ((if_neg (not_not_true hb)).trans (if_pos rfl))
  · intro r
    exact ⟨fun h => (exec_journalFlashCopy hr hj hl).trans (settle_congr (State.onCore_eq (Core.copyEntry_read hn h))),
      fun h => (exec_journalFlashCopy hr hj hl).trans (settle_congr (State.onCore_eq (Core.copyEntry_lost hn h)))⟩
  · exact ⟨_, congrArg answer (if_pos ⟨hd, h2, h6⟩), State.settle_dmp _, State.settle_flash _⟩

end Sys2Proof.Machine
end

section
/-! The Damper (R286, R333 to R343). -/
namespace Sys2Proof.Machine

/-! ### The Damper's state -/

theorem State.onDmp_eq {s : State} {f g : Dmp → Dmp} (h : f s.dmp = g s.dmp) : s.onDmp f = s.onDmp g :=
  congrArg (fun m => ({ s with dmp := m } : State)) h

theorem Dmp.modDie_eq {m : Dmp} {d : Nat} {f g : Die → Die} (h : f (m.die d) = g (m.die d)) : m.modDie d f = m.modDie d g := by
  unfold Dmp.modDie
  rw [h]

/-! ### The estimate loop (R334, R335) -/

theorem Dmp.gating_keeps (m : Dmp) (ceil : Nat) (est : Int) : (m.gating ceil est).dies = m.dies ∧ (m.gating ceil est).cap = m.cap := by
  unfold Dmp.gating
  split
  · exact ⟨rfl, rfl⟩
  · split
    · split
      · exact ⟨rfl, rfl⟩
      · exact ⟨rfl, rfl⟩
    · exact ⟨rfl, rfl⟩

/-- An element of a vector that is mapped with its indices. -/
theorem die_zipIdx_map (v : Vector Die 8) (f : Die × Nat → Die) (e : Fin 8) :
    (v.zipIdx.map f).toList.getD e.val {} = f (v.toList.getD e.val {}, e.val) := by
  have h := e.isLt
  simp [List.getD_eq_getElem?_getD, h]

theorem State.loopTick_die (s : State) (e : Fin 8) (hp : (s.dmp.die e.val).powered = true) : s.loopTick.dmp.die e.val =
    ((s.dmp.die e.val).retarget (s.core.preference e.val) (s.dmp.capCeil s.core.seq) s.nym.follow s.dmp.vtfall s.dmp.pwrbrk).tick s.dmp.hours := by
  refine (die_zipIdx_map _ _ e).trans ?_
  obtain ⟨hd, -⟩ := s.dmp.gating_keeps (s.dmp.capCeil s.core.seq) (s.dmp.held (s.dmp.calibrated (s.dmp.rawAt s.core.seq Die.op)))
  dsimp only
  rw [hd]
  exact if_pos hp

theorem State.loopTick_cap (s : State) : s.loopTick.dmp.cap = s.dmp.cap := (s.dmp.gating_keeps _ _).2

section
variable (x : Die) (pref ceil : Nat) (follow fallback brk : Bool)

/-- A target is the least of its limits, or OP0 under PWRBRK_N. -/
theorem Die.retarget_le : (brk = true → (x.retarget pref ceil follow fallback brk).target = 0) ∧
    (x.retarget pref ceil follow fallback brk).target ≤ pref ∧ (x.retarget pref ceil follow fallback brk).target ≤ ceil ∧
    (x.retarget pref ceil follow fallback brk).target ≤ x.thceil ∧
    (x.retarget pref ceil follow fallback brk).target ≤ (x.retarget pref ceil follow fallback brk).limceil ∧
    (x.retarget pref ceil follow fallback brk).target ≤ (x.retarget pref ceil follow fallback brk).folceil := by
  unfold Die.retarget
  dsimp only
  cases brk with
  | true => simp only [if_true, Nat.zero_le, and_self, implies_true]
  | false =>
    generalize (if follow then x.follow.getD 15 else 15) = fol
    simp only [Bool.false_eq_true, if_false, false_implies, true_and]
    omega
end

theorem Die.tick_target (x : Die) (h : Nat) : (x.tick h).target = x.target := by
  unfold Die.tick
  dsimp only
  split
  · rfl
  · split
    · rfl
    · rfl

theorem Die.tick_down {x : Die} {h : Nat} (ht : x.target < x.op) : (x.tick h).op = x.op - 1 := by
  unfold Die.tick
  dsimp only
  rw [if_pos ht]
  rfl

theorem Die.tick_stays {x : Die} {h : Nat} (ht : x.op ≤ x.target) : (x.tick h).op = x.op := by
  unfold Die.tick
  dsimp only
  rw [if_neg (Nat.not_lt.2 ht)]
  split
  · rfl
  · rfl

/-! ### The measured loop and the fit (R336) -/

section
variable {s : State}

theorem exec_calibrationFit_bad (hd : s.damperUp = true) (hw : s.dmp.window ≠ []) (hb : s.dmp.fit.1.1 * 10 < s.dmp.fit.1.2 * 8 ∨
    s.dmp.fit.1.2 * 125 < s.dmp.fit.1.1 * 100 ∨ 150 * s.dmp.fit.2.2 < s.dmp.fit.2.1 ∨ s.dmp.fit.2.1 < -150 * s.dmp.fit.2.2) :
    exec .calibrationFit s = .next (((s.onDmp fun d => { d with calhold := true }).noteFault 0x0902).telEvent 5 (leBytes 2 0x0902)).settle :=
  congrArg answer ((if_neg (by simp [hd, hw])).trans (if_pos (decide_eq_true hb)))

theorem exec_calibrationFit_good (hd : s.damperUp = true) (hw : s.dmp.window ≠ []) (hb : ¬ (s.dmp.fit.1.1 * 10 < s.dmp.fit.1.2 * 8 ∨
    s.dmp.fit.1.2 * 125 < s.dmp.fit.1.1 * 100 ∨ 150 * s.dmp.fit.2.2 < s.dmp.fit.2.1 ∨ s.dmp.fit.2.1 < -150 * s.dmp.fit.2.2)) :
    exec .calibrationFit s = .next ((s.onCore fun c => { c with seq := c.seq + 2 }).onDmp fun d => { d with
      calhold := false
      gain := ((s.dmp.gain : Int) + freeRound s.core.seq (s.dmp.fit.1.1 * 16384 - s.dmp.gain * s.dmp.fit.1.2) (4 * s.dmp.fit.1.2)).toNat
      offset := s.dmp.offset + freeRound (s.core.seq + 1) (s.dmp.fit.2.1 - s.dmp.offset * s.dmp.fit.2.2) (4 * s.dmp.fit.2.2) }).settle :=
  congrArg answer ((if_neg (by simp [hd, hw])).trans (if_neg (by rw [decide_eq_true_eq]; exact hb)))
end

/-! ### Droop and temperatures (R340, R342, R343) -/

section
variable {s : State} {d : Fin 8}

theorem exec_droopDetected {n : Nat} (hp : (s.dmp.die d.val).powered = true) : exec (.droopDetected d n) s =
    .next (s.onDmp fun m => m.modDie d.val fun y => { y with
      stretched := true, droops := satInc y.droops 0xFFFF, lim := if 1000 < n then some (y.op - 1) else y.lim }).settle :=
  congrArg answer (if_pos hp)

theorem exec_sensorSample {rs : List Int} {hbm : Int} (hd : s.damperUp = true) (hp : (s.dmp.die d.val).powered = true)
    (hv : 12 ≤ validCount (sampleAll (s.dmp.die d.val).sensors rs)) :
    exec (.sensorSample ⟨d.val, Nat.lt_succ_of_lt d.isLt⟩ rs hbm) s = .next (s.onDmp fun m => m.modDie d.val fun y => { y with
      sensors := sampleAll (s.dmp.die d.val).sensors rs, temp := hottest (sampleAll (s.dmp.die d.val).sensors rs) (some (2 * hbm)), hbm := hbm
      tj := encInt 8 (hottest (sampleAll (s.dmp.die d.val).sensors rs) (some (2 * hbm)) / 2)
      nsens := validCount (sampleAll (s.dmp.die d.val).sensors rs) }).settle := by
  have h8 : ¬ (d.val = 8) := by omega
  refine congrArg answer ((if_neg (not_not_true hd)).trans ((if_neg h8).trans ((if_neg (not_not_true hp)).trans ?_)))
  exact if_neg fun q => absurd q.2 (Nat.not_lt.2 hv)

theorem exec_thermalCeilingStep_hot (hp : (s.dmp.die d.val).powered = true)
    (ht : 190 ≤ (s.dmp.die d.val).temp ∨ 190 ≤ hottest s.dmp.hub none) : exec (.thermalCeilingStep d) s =
      .next (s.onDmp fun m => m.modDie d.val fun y => { y with thceil := y.thceil - 1 }).settle :=
  congrArg answer (((if_neg (not_not_true hp)).trans (if_pos ht)).trans (State.onDmp_eq (Dmp.modDie_eq rfl)))

theorem exec_thermalCeilingStep_cool (hp : (s.dmp.die d.val).powered = true) (ht : (s.dmp.die d.val).temp < 186)
    (hh : hottest s.dmp.hub none < 190) : exec (.thermalCeilingStep d) s =
      .next (s.onDmp fun m => m.modDie d.val fun y => { y with thceil := min 15 (y.thceil + 1) }).settle := by
  have hn : ¬ (190 ≤ (s.dmp.die d.val).temp ∨ 190 ≤ hottest s.dmp.hub none) := by omega
  exact congrArg answer (((if_neg (not_not_true hp)).trans ((if_neg hn).trans (if_pos ht))).trans (State.onDmp_eq (Dmp.modDie_eq rfl)))
end

/-- Settles O47: a target is the least of its limits, and a tick keeps it; the other events change one die or all. -/
theorem damperCompletes : Obligations.DamperCompletes := by
  intro s d x put
  refine ⟨fun hd => ⟨_, congrArg answer (if_pos hd), ?_, ?_, fun e hp => ?_⟩, fun hp hr ho hs => congrArg answer (if_pos ⟨hp, hr, ho, hs⟩),
    fun mv ma hd => ⟨_, congrArg answer (if_pos hd), ?_, ?_, ?_, ?_⟩, fun hd hw => ?_, fun hd he => congrArg answer (if_pos ⟨hd, he⟩),
    fun n hp hn => ?_, fun n hp hn => ?_, rfl, rfl, fun rs hbm hd hp hv => exec_sensorSample hd hp hv, fun hp ht => exec_thermalCeilingStep_hot hp ht,
    fun hp ht hh => exec_thermalCeilingStep_cool hp ht hh, fun op hf hw => congrArg answer (if_pos ⟨hf, hw⟩), rfl⟩
  · rw [State.settle_dmp]
    exact s.loopTick_cap
  · exact State.settle_board _
  · intro y
    rw [State.settle_dmp, State.loopTick_die s e hp]
    obtain ⟨h0, h1, h2, h3, h4, h5⟩ := (s.dmp.die e.val).retarget_le (s.core.preference e.val) (s.dmp.capCeil s.core.seq) s.nym.follow
      s.dmp.vtfall s.dmp.pwrbrk
    exact ⟨Die.tick_target _ _, h0, h1, h2, h3, h4, h5, fun ht => Die.tick_down ht, fun ht => Die.tick_stays ht⟩
  · rw [State.settle_dmp]
    rfl
  · rw [State.settle_dmp]
    rfl
  · rw [State.settle_dmp]
    rfl
  · rw [State.settle_dmp]
    exact List.length_take
  · intro f
    refine ⟨fun hb => exec_calibrationFit_bad hd hw hb, fun hb => ⟨_, exec_calibrationFit_good hd hw hb, ?_, ?_, ?_⟩⟩
    · rw [State.settle_dmp]
      rfl
    · rw [State.settle_dmp]
      rfl
    · rw [State.settle_dmp]
      rfl
  · refine (exec_droopDetected hp).trans (settle_congr (State.onDmp_eq (Dmp.modDie_eq ?_)))
    rw [if_pos hn]
  · refine (exec_droopDetected hp).trans (settle_congr (State.onDmp_eq (Dmp.modDie_eq ?_)))
    rw [if_neg (Nat.not_lt.2 hn)]

end Sys2Proof.Machine
end

section
/-! The causes of bivouac mode, its entry and its power-down (R396, R397), and the thermal trip (R344). -/
namespace Sys2Proof.Machine

/-! ### What stays once bivouac mode is entered -/

/-- The boot stage, the binding commands, and Lantern but for ALERT and telemetry's records. -/
def State.entered (s : State) : Nat × List Rebind × Lan := (s.sec.stage, s.rebinds, s.lan.kept)

/-- The known contexts and the packs. -/
def State.tenants (s : State) : List (Nat × Context) × List (Nat × Pack) := (s.core.ctxs, s.core.packs)

theorem State.entered_of_kept {s s' : State} (h : s'.kept = s.kept) : s'.entered = s.entered := by
  simp only [State.kept, Prod.mk.injEq] at h
  obtain ⟨-, -, -, hsec, -, -, -, -, -, hreb, -, -, hlan⟩ := h
  simp only [State.entered, hsec, hreb, hlan]

theorem State.tenants_of_kept {s s' : State} (h : s'.kept = s.kept) : s'.tenants = s.tenants := by
  simp only [State.kept, Prod.mk.injEq] at h
  obtain ⟨-, hcore, -⟩ := h
  have hctxs : s'.core.ctxs = s.core.ctxs := (congrArg Core.ctxs hcore :)
  have hpacks : s'.core.packs = s.core.packs := (congrArg Core.packs hcore :)
  simp only [State.tenants, hctxs, hpacks]

theorem State.journal_entered (s : State) (src : Src) (e : JEntry) : (s.journal src e).entered = s.entered := by
  unfold State.journal
  split
  · rfl
  · rfl

theorem State.complete_entered (s : State) (h : HostCmd) (opc st res src : Nat) (d : List Byte) (c : Nat) (x : List Byte) :
    (s.complete h opc st res src d c x).entered = s.entered := by
  unfold State.complete
  dsimp only
  split
  · exact State.journal_entered _ _ _
  · rfl

theorem State.bivouacDeny_entered (s : State) (h : HostCmd) : (s.bivouacDeny h).entered = s.entered := by
  unfold State.bivouacDeny
  split
  · rfl
  · exact State.complete_entered ..

theorem State.bivouacUnbind_entered (s : State) (r : Rebind) : (s.bivouacUnbind r).entered = s.entered := State.journal_entered _ _ _

theorem State.journal_lan (s : State) (src : Src) (e : JEntry) : (s.journal src e).lan = s.lan := by
  unfold State.journal
  split
  · rfl
  · rfl

theorem State.bootJournal_lan (s : State) (ring : Bool) : (s.bootJournal ring).lan = s.lan := by
  unfold State.bootJournal
  split
  · rfl
  · exact (foldl_same State.lan _ (fun a f => a.journal_lan _ _) _ _).trans (State.journal_lan _ _ _)

theorem State.tellMembers_entered (s : State) (k status : Nat) : (s.tellMembers k status).entered = s.entered := by
  unfold State.tellMembers
  split
  · rfl
  · refine foldl_same State.entered _ (fun a m => ?_) _ s
    split
    · rfl
    · split
      · rfl
      · split
        · rfl
        · rfl

theorem State.abortAll_entered (s : State) (k status : Nat) : (s.abortAll k status).entered = s.entered := by
  unfold State.abortAll
  split
  · split
    · exact s.tellMembers_entered k status
    · rfl
  · rfl

theorem State.discardCtx_entered (s : State) (k : Nat) : (s.discardCtx k).entered = s.entered := by
  unfold State.discardCtx
  split
  · rfl
  · exact s.abortAll_entered k _

theorem State.dropContexts_entered (s : State) (code : Nat) : (s.dropContexts code).entered = s.entered :=
  (foldl_same State.entered _ State.discardCtx_entered _ _).trans (foldl_same State.entered _ (fun a k => a.abortAll_entered k _) _ s)

theorem State.portState_entered (s : State) (n : Nat) (up : Bool) : (s.portState n up).entered = s.entered := by
  unfold State.portState
  split
  · rfl
  · exact (State.entered_of_kept (State.telEvent_kept _ _ _)).trans rfl

theorem State.portState_tenants (s : State) (n : Nat) (up : Bool) : (s.portState n up).tenants = s.tenants := by
  unfold State.portState
  split
  · rfl
  · exact (State.tenants_of_kept (State.telEvent_kept _ _ _)).trans rfl

theorem State.linkState_entered (s : State) (l st : Nat) : (s.linkState l st).entered = s.entered := by
  unfold State.linkState
  dsimp only
  split
  · rfl
  · exact (State.entered_of_kept (State.telEvent_kept _ _ _)).trans rfl

theorem State.linkState_tenants (s : State) (l st : Nat) : (s.linkState l st).tenants = s.tenants := by
  unfold State.linkState
  dsimp only
  split
  · rfl
  · exact (State.tenants_of_kept (State.telEvent_kept _ _ _)).trans rfl

theorem State.sendIdentity_entered (s : State) (l : Nat) : (s.sendIdentity l).entered = s.entered :=
  foldl_same State.entered (fun (a : State) (e : Nat) => a.send (.event "training epoch" l e)) (fun _ _ => rfl) _ _

theorem State.linkEnable_entered (s : State) : s.linkEnable.entered = s.entered := by
  refine foldl_same State.entered _ (fun a l => ?_) _ s
  dsimp only
  split
  · exact a.linkState_entered _ _
  · split
    · exact (State.sendIdentity_entered _ _).trans (a.linkState_entered _ _)
    · rfl

theorem State.sendIdentity_tenants (s : State) (l : Nat) : (s.sendIdentity l).tenants = s.tenants :=
  foldl_same State.tenants (fun (a : State) (e : Nat) => a.send (.event "training epoch" l e)) (fun _ _ => rfl) _ _

theorem State.linkEnable_tenants (s : State) : s.linkEnable.tenants = s.tenants := by
  refine foldl_same State.tenants _ (fun a l => ?_) _ s
  dsimp only
  split
  · exact a.linkState_tenants _ _
  · split
    · exact (State.sendIdentity_tenants _ _).trans (a.linkState_tenants _ _)
    · rfl

/-! ### No context remains (R344, R397) -/

theorem lookup_eq_none_iff {α : Type} {l : List (Nat × α)} {k : Nat} : lookup l k = none ↔ ∀ p ∈ l, p.1 ≠ k := by
  simp [lookup]

/-- A key that is found is that of an entry. -/
theorem exists_of_lookup {α : Type} {l : List (Nat × α)} {k : Nat} (h : lookup l k ≠ none) : ∃ p ∈ l, p.1 = k :=
  Classical.byContradiction fun hn => h (lookup_eq_none_iff.2 fun p hp hk => hn ⟨p, hp, hk⟩)

theorem lookup_eraseKey_self {α : Type} (k : Nat) (l : List (Nat × α)) : lookup (eraseKey k l) k = none := by
  simp [lookup_eq_none_iff, eraseKey]

theorem lookup_eraseKey_none {α : Type} {k j : Nat} {l : List (Nat × α)} (h : lookup l j = none) : lookup (eraseKey k l) j = none := by
  rw [lookup_eq_none_iff] at h ⊢
  exact fun p hp => h p (List.mem_filter.1 hp).1

/-- A list in which no key is found is empty. -/
theorem eq_nil_of_lookup {α : Type} {l : List (Nat × α)} (h : ∀ k, lookup l k = none) : l = [] :=
  List.eq_nil_iff_forall_not_mem.2 fun p hp => lookup_eq_none_iff.1 (h p.1) p hp rfl

/-- A known context replaced makes no other known. -/
theorem Core.setCtx_unknown {c : Core} {k j : Nat} {cx cy : Context} (hk : lookup c.ctxs k = some cx) (h : lookup c.ctxs j = none) :
    lookup (c.setCtx k cy).ctxs j = none := by
  have hn : k ≠ j := by
    rintro rfl
    rw [hk] at h
    cases h
  rw [Core.setCtx_ctxs, lookup_insertKey, if_neg hn, h]

theorem Core.abortCtx_unknown {c : Core} {k j st : Nat} (h : lookup c.ctxs j = none) : lookup (c.abortCtx k st).ctxs j = none := by
  unfold Core.abortCtx
  split
  · next hk => exact Core.setCtx_unknown hk h
  · exact h

theorem Core.account_unknown {c : Core} {dev k j : Nat} (h : lookup c.ctxs j = none) : lookup (c.account dev k).ctxs j = none := by
  unfold Core.account
  dsimp only
  split
  · exact h
  · split
    · exact h
    · next hk => exact Core.setCtx_unknown (c := Core.store _ _ _) hk h

theorem Core.dropDecodes_ctxs (c : Core) (k : Nat) : (c.dropDecodes k).ctxs = c.ctxs := by
  refine foldl_same Core.ctxs _ (fun a q => ?_) _ c
  unfold Core.dropDecode Core.release
  split
  · rfl
  · rfl

theorem Core.clearChip_ctxs (c : Core) (k : Nat) (cx : Context) (gone : Nat → Bool) : (c.clearChip k cx gone).ctxs = c.ctxs :=
  foldl_same Core.ctxs (fun (a : Core) (r : Nat × Nat) => { a with mem := a.mem.clear r.1 r.2, ecc := a.ecc.forget a.space r.1 r.2 })
    (fun _ _ => rfl) cx.pantry c

/-- A context that is forgotten is known no longer. -/
theorem Core.forgetCtx_ctxs (c : Core) (k : Nat) : (c.forgetCtx k).ctxs = eraseKey k c.ctxs := by
  unfold Core.forgetCtx
  split
  · next hk =>
    rw [lookup_eq_none_iff] at hk
    exact (List.filter_eq_self.2 fun p hp => by simpa using hk p hp).symm
  · dsimp only
    split
    · exact congrArg (eraseKey k) ((Core.clearChip_ctxs _ _ _ _).trans (c.dropDecodes_ctxs k))
    · exact congrArg (eraseKey k) (c.dropDecodes_ctxs k)

theorem Core.forgetCtx_unknown {c : Core} {k j : Nat} (h : k = j ∨ lookup c.ctxs j = none) : lookup (c.forgetCtx k).ctxs j = none := by
  rw [Core.forgetCtx_ctxs]
  rcases h with rfl | h
  · exact lookup_eraseKey_self k _
  · exact lookup_eraseKey_none h

/-- A fold reaches what one of its steps brings about and the others keep. -/
theorem foldl_reaches {α σ : Type} {P : σ → Prop} {f : σ → α → σ} (h : ∀ s a, P s → P (f s a)) {l : List α} {a : α} (ha : a ∈ l)
    (hf : ∀ s, P (f s a)) (s : σ) : P (l.foldl f s) := by
  obtain ⟨l1, l2, rfl⟩ := List.append_of_mem ha
  rw [List.foldl_append, List.foldl_cons]
  exact foldl_keeps h l2 _ (hf _)

theorem State.tellMembers_unknown {s : State} {k j st : Nat} (h : lookup s.core.ctxs j = none) :
    lookup (s.tellMembers k st).core.ctxs j = none := by
  unfold State.tellMembers
  split
  · exact h
  · refine foldl_keeps (P := fun a : State => lookup a.core.ctxs j = none) (fun a m ha => ?_) _ _ h
    split
    · exact ha
    · split
      · exact Core.abortCtx_unknown ha
      · split
        · exact ha
        · exact ha

theorem State.abortAll_unknown {s : State} {k j st : Nat} (h : lookup s.core.ctxs j = none) :
    lookup (s.abortAll k st).core.ctxs j = none := by
  unfold State.abortAll
  split
  · split
    · exact Core.abortCtx_unknown (State.tellMembers_unknown h)
    · exact h
  · exact h

theorem State.discardCtx_unknown {s : State} {k j : Nat} (h : k = j ∨ lookup s.core.ctxs j = none) :
    lookup (s.discardCtx k).core.ctxs j = none := by
  unfold State.discardCtx
  split
  · next hk =>
    rcases h with rfl | h
    · exact hk
    · exact h
  · refine Core.forgetCtx_unknown ?_
    rcases h with h | h
    · exact .inl h
    · exact .inr (Core.account_unknown (State.abortAll_unknown h))

theorem State.dropContexts_tenants (s : State) (code : Nat) : (s.dropContexts code).tenants = ([], []) := by
  refine Prod.ext (eq_nil_of_lookup fun j => ?_) rfl
  unfold State.dropContexts
  extract_lets ks s1 s2
  show lookup s2.core.ctxs j = none
  by_cases hj : lookup s.core.ctxs j = none
  · have h1 : lookup s1.core.ctxs j = none :=
      foldl_keeps (P := fun a : State => lookup a.core.ctxs j = none) (fun a k ha => State.abortAll_unknown ha) ks s hj
    exact foldl_keeps (P := fun a : State => lookup a.core.ctxs j = none) (fun a k ha => State.discardCtx_unknown (.inr ha)) ks s1 h1
  · have hm : j ∈ ks := by
      obtain ⟨p, hp, hk⟩ := exists_of_lookup hj
      exact List.mem_map.2 ⟨p, hp, hk⟩
    exact foldl_reaches (P := fun a : State => lookup a.core.ctxs j = none) (f := State.discardCtx) (fun a k ha => State.discardCtx_unknown (.inr ha)) hm
      (fun a => State.discardCtx_unknown (.inl rfl)) s1

theorem State.loseContexts_ctxs (s : State) : s.loseContexts.core.ctxs = [] := by
  refine eq_nil_of_lookup fun j => ?_
  have hstep : ∀ (a : State) (k : Nat × Context), lookup a.core.ctxs j = none →
      lookup (a.onCore fun c => (c.forgetCtx k.1).finishCmds k.2.orphans k.1 k.2.part 0x0C02 0).core.ctxs j = none :=
    fun a k ha => Core.forgetCtx_unknown (.inr ha)
  by_cases hj : lookup s.core.ctxs j = none
  · exact foldl_keeps (P := fun a : State => lookup a.core.ctxs j = none) hstep s.core.ctxs s hj
  · obtain ⟨p, hp, hk⟩ := exists_of_lookup hj
    exact foldl_reaches (P := fun a : State => lookup a.core.ctxs j = none) hstep hp (fun a => Core.forgetCtx_unknown (.inl hk)) s

/-! ### Entry (R396 to R398) -/

theorem State.closeEngine_entered (s : State) (e code : Nat) : (s.closeEngine e code).entered = s.entered := rfl
theorem State.closeEngine_tenants (s : State) (e code : Nat) : (s.closeEngine e code).tenants = s.tenants := rfl

/-- What the fields of an entered state are. -/
theorem State.fields_of_entered {s s' : State} (h : s'.entered = s.entered) : s'.sec.stage = s.sec.stage ∧ s'.rebinds = s.rebinds ∧
    s'.lan.bivActive = s.lan.bivActive ∧ s'.lan.bivCause = s.lan.bivCause ∧ s'.lan.bivCount = s.lan.bivCount ∧
    s'.lan.stopping = s.lan.stopping := by
  simp only [State.entered, Prod.mk.injEq] at h
  obtain ⟨hstage, hreb, hlan⟩ := h
  exact ⟨hstage, hreb, (congrArg Lan.bivActive hlan :), (congrArg Lan.bivCause hlan :), (congrArg Lan.bivCount hlan :),
    (congrArg Lan.stopping hlan :)⟩

/-- The state in which bivouac mode has been entered. -/
theorem State.bivouac_entered {s : State} (h2 : 2 ≤ s.sec.stage) (h6 : s.sec.stage ≠ 6) (hb : s.lan.bivActive = false) (c : Nat) :
    (∃ l, (s.bivouac c).entered = (7, [], l) ∧ l.bivActive = true ∧ l.bivCause = c ∧ l.bivCount = satInc s.lan.bivCount 0xFF ∧
      l.stopping = true) ∧ (s.bivouac c).tenants = ([], []) := by
  unfold State.bivouac
  rw [if_neg (by omega)]
  extract_lets s0 s1 kept lan sec s2 s3 s4 s5 s6 s7
  rw [if_neg (by rw [hb]; decide)]
  have hc : s1.lan.bivCount = s.lan.bivCount := congrArg Lan.bivCount ((s0.journal_lan _ _).trans (s.bootJournal_lan _))
  have e2 : s2.entered = (7, s2.rebinds, s2.lan.kept) := rfl
  have e3 : s3.entered = s2.entered := foldl_same State.entered _ State.bivouacDeny_entered _ _
  have e4 : s4.entered = (s3.sec.stage, [], s3.lan.kept) := foldl_same State.entered _ State.bivouacUnbind_entered _ _
  have e5 : s5.entered = s4.entered := s4.dropContexts_entered 1
  have e6 : s6.entered = s5.entered := foldl_same State.entered _ (fun a e => a.closeEngine_entered e _) _ _
  have e7 : s7.entered = s6.entered := foldl_same State.entered _ (fun a p => by
    split
    · rfl
    · exact a.portState_entered p false) _ _
  have e8 : (((s7.alert 2).telEvent 7 (leBytes 1 c)).platform 2 c).entered = s7.entered :=
    (State.entered_of_kept (State.platform_kept _ _ _)).trans ((State.entered_of_kept (State.telEvent_kept _ _ _)).trans rfl)
  have t5 : s5.tenants = ([], []) := s4.dropContexts_tenants 1
  have t6 : s6.tenants = s5.tenants := foldl_same State.tenants _ (fun a e => a.closeEngine_tenants e _) _ _
  have t7 : s7.tenants = s6.tenants := foldl_same State.tenants _ (fun a p => by
    split
    · rfl
    · exact a.portState_tenants p false) _ _
  have t8 : (((s7.alert 2).telEvent 7 (leBytes 1 c)).platform 2 c).tenants = s7.tenants :=
    (State.tenants_of_kept (State.platform_kept _ _ _)).trans ((State.tenants_of_kept (State.telEvent_kept _ _ _)).trans rfl)
  have hk : (s3.sec.stage, s3.lan.kept) = (7, s2.lan.kept) := congrArg (fun q : Nat × List Rebind × Lan => (q.1, q.2.2)) (e3.trans e2)
  have hs : s4.entered = (7, [], s2.lan.kept) := e4.trans (congrArg (fun q : Nat × Lan => (q.1, [], q.2)) hk)
  exact ⟨⟨s2.lan.kept, e8.trans (e7.trans (e6.trans (e5.trans hs))), rfl, rfl, congrArg (fun n => satInc n 0xFF) hc, rfl⟩,
    t8.trans (t7.trans (t6.trans t5))⟩

/-! ### Power-down and thermal trip -/

/-- Dies that are powered down have no power. -/
theorem powered_allDies (m : Dmp) (e : Fin 8) : ((m.allDies Die.powerDown).die e.val).powered = false := by
  have h := e.isLt
  simp [Dmp.die, Dmp.allDies, List.getD_eq_getElem?_getD, h, Die.powerDown]

theorem State.powerDown_stopping (s : State) : s.powerDown.lan.stopping = false := by
  have h := State.linkEnable_entered (({ s with dmp := s.dmp.allDies Die.powerDown
                                                board := { s.board with corePower := false, hbmPower := false }
                                                lan := { s.lan with stopping := false } } : State).onCore fun c =>
    { c.loseChip with mem := (c.loseChip.mem).clear 0 hbmEnd, ecc := (c.loseChip.ecc).forget c.space 0 hbmEnd })
  obtain ⟨-, -, -, -, -, hstop⟩ := State.fields_of_entered h
  exact hstop

theorem State.board_of_aside {a b : State} (h : a.aside = b.aside) : a.board = b.board := (congrArg (fun x => x.2.2.2.2.2.1) h :)

theorem State.settle_stopping (s : State) : s.settle.lan.stopping = s.lan.stopping := (congrArg Lan.stopping s.settle_lan :)

/-- The state after a thermal trip. -/
def State.tripped (s : State) : State :=
  (((s.loseContexts.onCore fun c => c.loseChip.clearGens).onBoard fun b => { b with thermtrip := true, corePower := false }).onDmp
    fun d => d.allDies Die.powerDown).linkEnable

theorem exec_thermtrip {s : State} (h : s.board.pgood = true) : exec .thermtrip s = .next s.tripped.settle :=
  congrArg answer (if_neg (not_not_true h))

theorem State.tripped_board (s : State) : s.tripped.board = { s.board with thermtrip := true, corePower := false } := by
  have h : s.loseContexts.board = s.board := State.board_of_aside s.loseContexts_aside
  refine (State.board_of_aside (State.linkEnable_aside _)).trans ?_
  show ({ s.loseContexts.board with thermtrip := true, corePower := false } : Board) = _
  rw [h]

theorem State.tripped_ctxs (s : State) : s.tripped.core.ctxs = [] := by
  have h := congrArg Prod.fst (State.linkEnable_tenants (((s.loseContexts.onCore fun c => c.loseChip.clearGens).onBoard fun b =>
    { b with thermtrip := true, corePower := false }).onDmp fun d => d.allDies Die.powerDown))
  exact h.trans s.loseContexts_ctxs

theorem State.tripped_dies (s : State) (e : Fin 8) : (s.tripped.dmp.die e.val).powered = false := by
  have h : s.tripped.dmp = s.loseContexts.dmp.allDies Die.powerDown := State.dmp_of_aside (State.linkEnable_aside _)
  rw [h]
  exact powered_allDies _ e

/-- Settles O48: a cause that stands enters bivouac mode, whose steps after the first leave Lantern's fields; no context is found after all are discarded. -/
theorem bivouacCausesComplete : Obligations.BivouacCausesComplete := by
  intro s d hd h2 h6
  have hn : ¬ (s.sec.stage < 2 ∨ s.sec.stage = 6) := by omega
  have hm : ¬ (¬ s.damperUp = true ∨ s.sec.stage < 2 ∨ s.sec.stage = 6) := by simp [hd, h6]; omega
  have hp : s.board.pgood = true := (Bool.and_eq_true_iff.1 hd).1
  refine ⟨fun hp ht htemp => congrArg answer (if_pos ⟨hp, ht, htemp⟩), fun he => congrArg answer (if_pos ⟨hd, he⟩), congrArg answer (if_pos hd),
    fun hp => congrArg answer (if_pos ⟨hd, .inl hp⟩), fun u hu => congrArg answer ((if_neg hm).trans (if_pos hu)),
    fun u hu => congrArg answer ((if_neg hm).trans (if_neg (Nat.not_lt.2 hu))), congrArg answer (if_pos hd),
    congrArg answer ((if_neg hn).trans (if_pos rfl)), fun hi => congrArg answer ((if_neg hn).trans ((if_neg (by decide)).trans
      (State.restartLantern_eq hi))), fun hc => congrArg answer (if_pos ⟨hd, hc⟩), fun hb c => ?_, fun hs => ?_, ?_⟩
  · obtain ⟨⟨l, he, hact, hcause, hcount, hstop⟩, ht⟩ := State.bivouac_entered h2 h6 hb c
    simp only [State.entered, State.tenants, Prod.mk.injEq] at he ht
    obtain ⟨hstage, hreb, hlan⟩ := he
    obtain ⟨hctxs, hpacks⟩ := ht
    subst hlan
    exact ⟨hact, hcause, hcount, hstop, hstage, hctxs, hpacks, hreb⟩
  · refine ⟨_, congrArg answer (if_pos hs), ?_, ?_, fun e => ?_⟩
    · exact (State.settle_stopping _).trans s.powerDown_stopping
    · exact (State.settle_board _).trans (State.board_of_aside (State.linkEnable_aside _))
    · rw [State.settle_dmp, show s.powerDown.dmp = s.dmp.allDies Die.powerDown from State.dmp_of_aside (State.linkEnable_aside _)]
      exact powered_allDies _ e
  · refine ⟨_, exec_thermtrip hp, ?_, ?_, fun e => ?_⟩
    · exact (State.settle_board _).trans s.tripped_board
    · rw [State.settle_ctxs, s.tripped_ctxs]
      rfl
    · rw [State.settle_dmp]
      exact s.tripped_dies e

end Sys2Proof.Machine
end

section
/-! Reset and boot, power, PWRBRK_N, the clocks, the TAP and the UART (R339, R365 to R369, R404 to R417). -/
namespace Sys2Proof.Machine

theorem State.onBoard_eq {s : State} {f g : Board → Board} (h : f s.board = g s.board) : s.onBoard f = s.onBoard g :=
  congrArg (fun b => ({ s with board := b } : State)) h

/-! ### Boot (R335, R368, R369) -/

section
variable {s : State}

/-- The stage after one that is not a restart's. -/
theorem exec_bootStageAdvance (hr : s.board.resetN = true) (hw : s.sec.restart = false) : exec .bootStageAdvance s = answer (match s.sec.stage with
    | 0 => s.deriveKey
    | 1 => s.bootImage (!s.sec.locked)
    | 2 => ({ s with sec := { s.sec with stage := 3 } } : State).bootJournal (!s.lan.bivActive || !s.core.jnl.ringLost)
    | 3 => if s.lan.bivActive then { s with sec := { s.sec with stage := 7 } } else if s.board.refclk ∧ ¬ s.board.thermtrip then
        { s.powerUp with sec := { s.powerUp.sec with stage := 4 } } else s.bivouac 4
    | 4 => { s with sec := { s.sec with stage := 5 } }
    | _ => s) :=
  congrArg answer ((if_neg (not_not_true hr)).trans (if_neg (by rw [hw]; decide)))

section
variable (hr : s.board.resetN = true) (hw : s.sec.restart = false)
include hr hw

theorem exec_boot_key (h : s.sec.stage = 0) : exec .bootStageAdvance s = .next s.deriveKey.settle := by
  rw [exec_bootStageAdvance hr hw, h] <;> rfl

theorem exec_boot_image (h : s.sec.stage = 1) : exec .bootStageAdvance s = .next (s.bootImage (!s.sec.locked)).settle := by
  rw [exec_bootStageAdvance hr hw, h] <;> rfl

theorem exec_boot_journal (h : s.sec.stage = 2) : exec .bootStageAdvance s =
    .next (({ s with sec := { s.sec with stage := 3 } } : State).bootJournal (!s.lan.bivActive || !s.core.jnl.ringLost)).settle := by
  rw [exec_bootStageAdvance hr hw, h] <;> rfl

theorem exec_boot_dies (h : s.sec.stage = 3) : exec .bootStageAdvance s = .next (if s.lan.bivActive then
    { s with sec := { s.sec with stage := 7 } } else if s.board.refclk ∧ ¬ s.board.thermtrip then
      { s.powerUp with sec := { s.powerUp.sec with stage := 4 } } else s.bivouac 4).settle := by
  rw [exec_bootStageAdvance hr hw, h] <;> rfl

theorem exec_boot_ready (h : s.sec.stage = 4) : exec .bootStageAdvance s = .next ({ s with sec := { s.sec with stage := 5 } } : State).settle := by
  rw [exec_bootStageAdvance hr hw, h] <;> rfl
end
end

/-! ### The ports without their clock (R407) -/

/-- A port that is down stays down as another is changed. -/
theorem Eth.port_modPort_other {e : Eth} {n p : Nat} {f : Port → Port} (h : n ≠ p) : (e.modPort n f).port p = e.port p := by
  simp [Eth.port, Eth.modPort, Vector.toList_setIfInBounds, List.getD_eq_getElem?_getD, List.getElem?_set_ne h]

theorem Eth.port_of_kept {a b : State} (h : a.kept = b.kept) (p : Nat) : a.eth.port p = b.eth.port p := by
  simp only [State.kept, Prod.mk.injEq] at h
  obtain ⟨-, -, -, -, -, -, -, -, -, -, -, heth, -⟩ := h
  have hports : a.eth.ports = b.eth.ports := (congrArg Eth.ports heth :)
  unfold Eth.port
  rw [hports]

/-- A port that goes down is down. -/
theorem State.portState_down {s : State} {n : Nat} (h : n < 4) : ((s.portState n false).eth.port n).up = false := by
  unfold State.portState
  split
  · assumption
  · rw [Eth.port_of_kept (State.telEvent_kept _ _ _)]
    exact congrArg Port.up (Eth.port_modPort (e := s.eth) h)

/-- A port that is down stays so as another goes down. -/
theorem State.portState_staysDown {s : State} {n p : Nat} (h : (s.eth.port p).up = false) : ((s.portState n false).eth.port p).up = false := by
  unfold State.portState
  split
  · exact h
  · next hn =>
    have hne : n ≠ p := by
      rintro rfl
      exact hn h
    rw [Eth.port_of_kept (State.telEvent_kept _ _ _)]
    exact (congrArg Port.up (Eth.port_modPort_other (e := s.eth) hne)).trans h

/-- The state with every port down. -/
def State.portsDown (s : State) : State :=
  (List.range 4).foldl (fun (a : State) p => a.portState p false) (s.onBoard fun b => { b with ethclk := false })

theorem State.portsDown_board (s : State) : s.portsDown.board = { s.board with ethclk := false } :=
  State.board_of_aside (State.aside_foldl (fun a p => a.portState_aside p false) _ (s.onBoard fun b => { b with ethclk := false }))

theorem State.portsDown_up (s : State) (p : Fin 4) : (s.portsDown.eth.port p.val).up = false :=
  foldl_reaches (P := fun a : State => (a.eth.port p.val).up = false) (f := fun (a : State) p => a.portState p false)
    (fun _ _ ha => State.portState_staysDown ha) (List.mem_range.2 p.isLt) (fun _ => State.portState_down p.isLt) _

/-- The end of a command leaves the ports. -/
theorem State.settle_port (s : State) (p : Nat) : s.settle.eth.port p = s.eth.port p := by
  unfold Eth.port
  rw [State.settle_eth_ports]

/-! ### The TAP (R416) -/

theorem State.tapLoad_on {s : State} (h : s.board.pgood = true) (i : TapIns) :
    s.tapLoad i = s.onBoard fun b => { b with tap := if b.resetN && i.drives then .bypass else i } := if_neg (not_not_true h)

theorem State.tapLoad_test {s : State} (h : s.board.pgood = true) {i : TapIns} (hi : i.drives = true) :
    s.tapLoad i = s.onBoard fun b => { b with tap := if b.resetN then .bypass else i } := by
  rw [State.tapLoad_on h, hi]
  simp only [Bool.and_true]

theorem State.tapLoad_other {s : State} (h : s.board.pgood = true) {i : TapIns} (hi : i.drives = false) :
    s.tapLoad i = s.onBoard fun b => { b with tap := i } := by
  rw [State.tapLoad_on h, hi]
  simp only [Bool.and_false, Bool.false_eq_true, if_false]

/-- Settles O49: each event's branch is told by the contacts; ports that have gone down stay down. -/
theorem boardEventsComplete : Obligations.BoardEventsComplete := by
  intro s b put
  refine ⟨fun hr => congrArg answer (if_pos hr), fun hr hp hs => ?_, fun hr hp => ?_, fun hp hh => ?_, fun hp hh => ?_,
    fun hr hw => ⟨fun h => exec_boot_key hr hw h, fun h => exec_boot_image hr hw h, fun h => exec_boot_journal hr hw h, fun h hb hc ht => ?_,
      fun h hb hc => ?_, fun h hb => ?_, fun h => exec_boot_ready hr hw h⟩,
    fun ht h2 h5 hw => ?_, fun ho hi hf => ?_, fun ho => congrArg answer (if_neg (not_not_true ho)), fun hw hi => ?_, fun hw => ?_,
    fun ho hi hv hc hm he hp => ?_, fun hw => ?_, rfl, rfl, rfl, fun low hl hr => ?_, fun hi hr hb hd => ?_, fun hr => ?_, rfl, rfl, rfl, rfl,
    ⟨s.portsDown.settle, rfl, (State.settle_board _).trans s.portsDown_board, fun p => ?_⟩, fun hp => ⟨?_, ?_, ?_, ?_, ?_, ?_⟩, fun v => rfl⟩
  · exact congrArg answer ((if_neg (by rw [show s.board.resetN = false from hr]; decide)).trans (if_pos ⟨hp, hs⟩))
  · exact congrArg answer ((if_neg (by rw [show s.board.resetN = false from hr]; decide)).trans
      (if_neg fun q => absurd (q.1.symm.trans hp) (by decide)))
  · exact congrArg answer ((if_neg (not_not_true hp)).trans (if_pos hh))
  · exact congrArg answer ((if_neg (not_not_true hp)).trans (if_neg (by rw [show s.board.heldReset = false from hh]; decide)))
  · refine (exec_boot_dies hr hw h).trans (settle_congr ((if_neg (by rw [hb]; decide)).trans (if_pos ⟨hc, ?_⟩)))
    rw [show s.board.thermtrip = false from ht]
    decide
  · exact (exec_boot_dies hr hw h).trans (settle_congr ((if_neg (by rw [hb]; decide)).trans
      (if_neg fun q => absurd (q.1.symm.trans hc) (by decide))))
  · exact (exec_boot_dies hr hw h).trans (settle_congr (if_pos hb))
  · refine congrArg answer ((if_pos ⟨ht, h2, h5⟩).trans ?_)
    dsimp only
    rw [hw, Bool.false_and]
  · refine congrArg answer ((if_neg (by rw [show s.board.on = false from ho]; decide)).trans (if_pos ⟨hi, ?_⟩))
    rw [show s.board.offTime = false from hf]
    decide
  · exact congrArg answer (State.onBoard_eq (if_pos ⟨hw, hi, Bool.false_ne_true⟩))
  · exact congrArg answer (State.onBoard_eq (if_neg fun q => absurd (q.1.symm.trans hw) (by decide)))
  · refine congrArg answer (if_pos ⟨ho, hi, ?_, hc, hm, he, ?_⟩)
    · rw [show s.board.overvolt = false from hv]
      decide
    · rw [show s.board.pgood = false from hp]
      decide
  · exact congrArg answer (State.onBoard_eq (if_neg fun q => absurd (q.1.symm.trans hw) (by decide)))
  · refine congrArg answer ((if_neg hl).trans (State.onBoard_eq ?_))
    rw [if_pos hr]
  · have hn : ¬ (¬ s.board.island = true ∨ ¬ s.board.rawPwrbrk = true ∨ s.board.brk = true) := by
      simp [show s.board.island = true from hi, show s.board.rawPwrbrk = true from hr, show s.board.brk = false from hb]
    exact congrArg answer ((if_neg hn).trans (if_pos hd))
  · exact congrArg answer (if_neg (by rw [show s.board.rawPwrbrk = false from hr]; decide))
  · rw [State.settle_port]
    exact s.portsDown_up p
  · exact congrArg answer (State.tapLoad_other hp rfl)
  · exact congrArg answer (State.tapLoad_other hp rfl)
  · exact congrArg answer ((if_pos hp).trans (congrArg (fun x : State => x.send (.event "TDO IDCODE" 0x1A8CD0E3 0)) (State.tapLoad_other hp rfl)))
  · exact congrArg answer (State.tapLoad_test hp rfl)
  · exact congrArg answer (State.tapLoad_test hp rfl)
  · exact congrArg answer (State.tapLoad_test hp rfl)

end Sys2Proof.Machine
end
